-- ==== Sys2Proof/Word.lean ====
section
/-! DEFINITION. The word types of the manual (00 "Numbers, bits and bytes") and the shape of a sparse table. -/
namespace Sys2Proof

abbrev Byte := BitVec 8
abbrev Half := BitVec 16
abbrev Word := BitVec 32
abbrev Double := BitVec 64

/-- A sparse table: pairs of key and value, keys strictly rising, no entry holding the default. -/
abbrev Tbl (α : Type) := List (Nat × α)

/-- Byte-addressed storage: what is not listed reads as zero. -/
abbrev Memory := Tbl Byte

/-- The four sticky arithmetic flags in the places of CSQ_AFLAGS (Table 02.10): INV[0] OVF[1] UNF[2] SAT[3]. -/
abbrev AFlags := BitVec 4

end Sys2Proof
end

