-- ==== Sys2Proof/Syntax.lean ====
section
/-! DEFINITION. The commands of the block, one constructor per row of spec/opcode_table.json, and the operands they
carry: numbers of units, the slot instructions of a bundle (Tables 07.4 to 07.7), and what reaches the module from
outside with a command. -/
namespace Sys2Proof

/-- A physical core: pedestal, cluster, core (01 R23, Table 01.4). -/
structure CoreId where
  p : Fin 20
  c : Fin 8
  q : Fin 16
  deriving DecidableEq, Repr

/-- A cluster: pedestal and cluster. -/
structure ClusId where
  p : Fin 20
  c : Fin 8
  deriving DecidableEq, Repr

/-- A media engine: pedestal and engine number. -/
structure EngId where
  p : Fin 20
  e : Fin 2
  deriving DecidableEq, Repr

/-- A physical lane of a Lath port. -/
structure LaneId where
  p : Fin 16
  l : Fin 8
  deriving DecidableEq, Repr

/-- A queue of DMA or host entries: queue `q` of a core, or a host SQ. -/
inductive QRef where
  | core (k : CoreId) (q : Fin 4)
  | sq (n : Fin 512)
  deriving DecidableEq, Repr

/-- FA32 lane operations with two or three sources (Table 07.5). -/
inductive FOp where
  | add | sub | mul | div | fma | min | max
  deriving DecidableEq, Repr

/-- 32-bit integer lane operations (Table 07.5). -/
inductive IOp where
  | add | sub | mul | and | or | xor | shl | shr | sar | min | max
  deriving DecidableEq, Repr

/-- 64-bit scalar operations (Table 07.7). -/
inductive SOp where
  | add | sub | mul | and | or | xor | shl | shr | sar
  deriving DecidableEq, Repr

/-- Predicate operations (Table 07.7). -/
inductive POp where
  | and | or | xor
  deriving DecidableEq, Repr

/-- Control fields that the three conversion instructions share (Table 04.1, R95, R98). -/
structure ConvF where
  st : BitVec 4
  acc : Bool
  qmode : Bool
  scrim : BitVec 3
  fold : Bool
  diag : BitVec 16
  deriving DecidableEq, Repr

/-- T-slot instructions (Table 07.4). -/
inductive TSlot where
  | nop
  | tmma (td : BitVec 3) (init : Bool) (pp : BitVec 2) (fa fb : BitVec 3) (mr nr : BitVec 5) (km : BitVec 12)
      (sa sb sp : BitVec 5)
  | tld (td fmt : BitVec 3) (sa : BitVec 5)
  | tst (ts : BitVec 3) (sa : BitVec 5)
  | tcvt (ts tf : BitVec 3) (cv : ConvF) (mr nr sd sr : BitVec 5)
  deriving DecidableEq, Repr

/-- V-slot instructions (Table 07.5). -/
inductive VSlot where
  | nop
  | farith (op : FOp) (vd va vb vc : BitVec 5) (pr : BitVec 4)
  | cmp (pd : BitVec 3) (va vb : BitVec 5) (cc : BitVec 3) (pr : BitVec 4)
  | sel (vd va vb : BitVec 5) (pr : BitVec 4)
  | bcast (vd sa : BitVec 5)
  | ext (sd va : BitVec 5) (lane : BitVec 6)
  | iarith (op : IOp) (vd va vb : BitVec 5) (pr : BitVec 4)
  | ipsum (vd va : BitVec 5) (pr : BitVec 4)
  | cvt (vd vs : BitVec 5) (sf tf : BitVec 3) (e : BitVec 6) (cv : ConvF) (sr : BitVec 5)
  | cvtr (sf tf : BitVec 3) (cv : ConvF) (norec : Bool) (ss sd sr sh : BitVec 5)
  | sfu (fn : BitVec 6) (vd vs : BitVec 5) (sf tf : BitVec 3) (pr : BitVec 4)
  | smax (sf tf : BitVec 3) (ss sd sh : BitVec 5)
  | norm (sf tf : BitVec 3) (ss sd sh se : BitVec 5) (gb : Bool) (sg : BitVec 5)
  | sfswap
  | boxd (ss sd sh sp : BitVec 5)
  | nms (ss sd sh sp : BitVec 5)
  | rng (vd si : BitVec 5) (stream : BitVec 4)
  | getst (vd : BitVec 5) (sel : BitVec 2) (slot : BitVec 4)
  deriving DecidableEq, Repr

/-- M-slot instructions (Table 07.6). -/
inductive MSlot where
  | nop
  | sld (sd sa : BitVec 5) (off : BitVec 20)
  | sst (ss sa : BitVec 5) (off : BitVec 20)
  | vld (vd : BitVec 5) (fmt : BitVec 3) (sa : BitVec 5) (off : BitVec 20)
  | vst (vs : BitVec 5) (fmt : BitVec 3) (sa : BitVec 5) (off : BitVec 20) (pr : BitVec 4)
  | dmaq (q : BitVec 2) (sd sa : BitVec 5)
  | dwait (q : BitVec 2) (sa : BitVec 5)
  | asend (route : BitVec 12) (ns : BitVec 8) (ss sd : BitVec 5) (cen : Bool) (sc : BitVec 5)
  deriving DecidableEq, Repr

/-- C-slot instructions (Table 07.7). -/
inductive CSlot where
  | nop
  | alu (op : SOp) (sd sa sb : BitVec 5)
  | addi (sd sa : BitVec 5) (imm : BitVec 32)
  | movi (sd : BitVec 5) (imm : BitVec 32)
  | movhi (sd : BitVec 5) (imm : BitVec 32)
  | scmp (pd : BitVec 3) (sa sb : BitVec 5) (cc : BitVec 3)
  | palu (op : POp) (pd pa pb : BitVec 3)
  | pnot (pd pa : BitVec 3)
  | pmov (pd : BitVec 3) (sa : BitVec 5)
  | smovp (sd : BitVec 5) (pa : BitVec 3)
  | br (cond : BitVec 2) (pn : BitVec 3) (tgt : BitVec 12)
  | ssig (sc : BitVec 5) (inc : BitVec 16)
  | swait (pd : BitVec 3) (consume tmode : Bool) (sc st : BitVec 5) (timeout : BitVec 24)
  | yield
  | halt
  | fclr (mask : BitVec 4)
  | sgetst (sd : BitVec 5) (sel : BitVec 2) (slot : BitVec 4) (entry : BitVec 6)
  | sstep (sd : BitVec 5)
  deriving DecidableEq, Repr

/-- A bundle (R281). -/
structure Bundle where
  t : TSlot
  v : VSlot
  m : MSlot
  c : CSlot
  deriving DecidableEq, Repr

/-- A bundle of four no-operations. -/
def Bundle.nop : Bundle := ⟨.nop, .nop, .nop, .nop⟩

/-- The slots of a bundle, in the order of the SLOTS field of CSQ_FAULT. -/
inductive SlotName where
  | t | v | m | c
  deriving DecidableEq, Repr

/-- How a host answers a read of its memory: data, Unsupported Request or Completer Abort, or poisoned data (R571). -/
inductive HostErr where
  | ok | unsupported | poisoned
  deriving DecidableEq, Repr

/-- What training finds on a physical lane (Table 15.2): 0 good, 1 open, 2 short, 3 error rate; polarity; logical lane, UID,
module ID and port in the neighbour's markers; whether the neighbour finds the lane good (R614). -/
structure TrainLane where
  fault : Fin 4
  inverted : Bool
  log : Fin 8
  uid : BitVec 64
  mod : BitVec 16
  port : Fin 16
  far : Bool
  deriving DecidableEq, Repr

/-- What a host write to PCIe configuration space changes (R580, Table 14.1): of the completion timeout its range and disable;
of AER, status bits to clear and the masks, uncorrectable then corrected. -/
inductive CfgWrite where
  | busMaster (on : Bool)
  | msixEnable (on : Bool)
  | msixMask (on : Bool)
  | d3hot (on : Bool)
  | maxPayload (code : BitVec 3)
  | maxReadRequest (code : BitVec 3)
  | tenBitTags (on : Bool)
  | completionTimeout (range : BitVec 4) (off : Bool)
  | aerClear (unc cor : BitVec 32)
  | aerMask (unc cor : BitVec 32)
  deriving DecidableEq, Repr


/-- What the tests of a block find (R675): signature of the logic BIST; first failing double with its bit, and how many;
failing rows that no repair covers yet, each as memory (0 core store, 1 instruction store, 2 SFU banks, 3 register files
and tiles, 4 cluster store, 5 static table store, 6 Skim search memory, 7 HBM3, 8 plinth memory), physical core, row; whether the repeat
with repairs passes; for a cluster the physical cores whose own tests fail. -/
structure TestFind where
  sig : BitVec 32
  addr : BitVec 48
  bit : Fin 72
  count : BitVec 32
  rows : List (Fin 9 × Fin 16 × Nat)
  again : Bool
  cores : List (Fin 16)
  deriving DecidableEq, Repr

/-- What the outside and the silicon contribute to the end of a start-up phase: a fuse word's parity failed in phase 3
(R730); PCIe ports that do not train in phase 6; HBM3 stacks that fail training twice in phase 7 (R755); for phase 8 what
the tests find, by pedestal and block number (physical cores 0 to 127, clusters from 128, pixel engines 136, entropy engines
138, Skim 140, plinth memory 141, HBM3 142, Lath port 143, PCIe port 144, armature switch 145, sync counters 146); a block
that is not listed passes. -/
structure PhaseEnd where
  fuseErr : Bool
  ports : List Bool
  hbms : List (Fin 12)
  finds : List (Fin 20 × Fin 147 × TestFind)
  deriving DecidableEq, Repr

/-- The rails of a pedestal and of the management domains (Table 19.2). -/
inductive Rail where
  | vmgt | vplinth | vcore | vmem | vhbm
  deriving DecidableEq, Repr
/-- The commands. -/
inductive Instr where
  -- slot instructions (chapters 02 to 07): a core, the rest of its bundle, the fields
  | nop (k : CoreId) (b : Bundle) (slot : SlotName)
  | tmma (k : CoreId) (b : Bundle) (td : BitVec 3) (init : Bool) (pp : BitVec 2) (fa fb : BitVec 3) (mr nr : BitVec 5)
      (km : BitVec 12) (sa sb sp : BitVec 5)
  | tld (k : CoreId) (b : Bundle) (td fmt : BitVec 3) (sa : BitVec 5)
  | tst (k : CoreId) (b : Bundle) (ts : BitVec 3) (sa : BitVec 5)
  | tcvt (k : CoreId) (b : Bundle) (ts tf : BitVec 3) (cv : ConvF) (mr nr sd sr : BitVec 5)
  | vadd (k : CoreId) (b : Bundle) (vd va vb : BitVec 5) (pr : BitVec 4)
  | vsub (k : CoreId) (b : Bundle) (vd va vb : BitVec 5) (pr : BitVec 4)
  | vmul (k : CoreId) (b : Bundle) (vd va vb : BitVec 5) (pr : BitVec 4)
  | vdiv (k : CoreId) (b : Bundle) (vd va vb : BitVec 5) (pr : BitVec 4)
  | vfma (k : CoreId) (b : Bundle) (vd va vb vc : BitVec 5) (pr : BitVec 4)
  | vmin (k : CoreId) (b : Bundle) (vd va vb : BitVec 5) (pr : BitVec 4)
  | vmax (k : CoreId) (b : Bundle) (vd va vb : BitVec 5) (pr : BitVec 4)
  | vcmp (k : CoreId) (b : Bundle) (pd : BitVec 3) (va vb : BitVec 5) (cc : BitVec 3) (pr : BitVec 4)
  | vsel (k : CoreId) (b : Bundle) (vd va vb : BitVec 5) (pr : BitVec 4)
  | vbcast (k : CoreId) (b : Bundle) (vd sa : BitVec 5)
  | vext (k : CoreId) (b : Bundle) (sd va : BitVec 5) (lane : BitVec 6)
  | viadd (k : CoreId) (b : Bundle) (vd va vb : BitVec 5) (pr : BitVec 4)
  | visub (k : CoreId) (b : Bundle) (vd va vb : BitVec 5) (pr : BitVec 4)
  | vimul (k : CoreId) (b : Bundle) (vd va vb : BitVec 5) (pr : BitVec 4)
  | vand (k : CoreId) (b : Bundle) (vd va vb : BitVec 5) (pr : BitVec 4)
  | vor (k : CoreId) (b : Bundle) (vd va vb : BitVec 5) (pr : BitVec 4)
  | vxor (k : CoreId) (b : Bundle) (vd va vb : BitVec 5) (pr : BitVec 4)
  | vshl (k : CoreId) (b : Bundle) (vd va vb : BitVec 5) (pr : BitVec 4)
  | vshr (k : CoreId) (b : Bundle) (vd va vb : BitVec 5) (pr : BitVec 4)
  | vsar (k : CoreId) (b : Bundle) (vd va vb : BitVec 5) (pr : BitVec 4)
  | vimin (k : CoreId) (b : Bundle) (vd va vb : BitVec 5) (pr : BitVec 4)
  | vimax (k : CoreId) (b : Bundle) (vd va vb : BitVec 5) (pr : BitVec 4)
  | vipsum (k : CoreId) (b : Bundle) (vd va : BitVec 5) (pr : BitVec 4)
  | vcvt (k : CoreId) (b : Bundle) (vd vs : BitVec 5) (sf tf : BitVec 3) (e : BitVec 6) (cv : ConvF) (sr : BitVec 5)
  | vcvtr (k : CoreId) (b : Bundle) (sf tf : BitVec 3) (cv : ConvF) (norec : Bool) (ss sd sr sh : BitVec 5)
  | vsfu (k : CoreId) (b : Bundle) (fn : BitVec 6) (vd vs : BitVec 5) (sf tf : BitVec 3) (pr : BitVec 4)
  | vsmax (k : CoreId) (b : Bundle) (sf tf : BitVec 3) (ss sd sh : BitVec 5)
  | vnorm (k : CoreId) (b : Bundle) (sf tf : BitVec 3) (ss sd sh se : BitVec 5) (gb : Bool) (sg : BitVec 5)
  | sfswap (k : CoreId) (b : Bundle)
  | vboxd (k : CoreId) (b : Bundle) (ss sd sh sp : BitVec 5)
  | vnms (k : CoreId) (b : Bundle) (ss sd sh sp : BitVec 5)
  | vrng (k : CoreId) (b : Bundle) (vd si : BitVec 5) (stream : BitVec 4)
  | vgetst (k : CoreId) (b : Bundle) (vd : BitVec 5) (sel : BitVec 2) (slot : BitVec 4)
  | sld (k : CoreId) (b : Bundle) (sd sa : BitVec 5) (off : BitVec 20)
  | sst (k : CoreId) (b : Bundle) (ss sa : BitVec 5) (off : BitVec 20)
  | vld (k : CoreId) (b : Bundle) (vd : BitVec 5) (fmt : BitVec 3) (sa : BitVec 5) (off : BitVec 20)
  | vst (k : CoreId) (b : Bundle) (vs : BitVec 5) (fmt : BitVec 3) (sa : BitVec 5) (off : BitVec 20) (pr : BitVec 4)
  | dmaq (k : CoreId) (b : Bundle) (q : BitVec 2) (sd sa : BitVec 5)
  | dwait (k : CoreId) (b : Bundle) (q : BitVec 2) (sa : BitVec 5)
  | asend (k : CoreId) (b : Bundle) (route : BitVec 12) (ns : BitVec 8) (ss sd : BitVec 5) (cen : Bool) (sc : BitVec 5)
  | add (k : CoreId) (b : Bundle) (sd sa sb : BitVec 5)
  | sub (k : CoreId) (b : Bundle) (sd sa sb : BitVec 5)
  | mul (k : CoreId) (b : Bundle) (sd sa sb : BitVec 5)
  | and (k : CoreId) (b : Bundle) (sd sa sb : BitVec 5)
  | or (k : CoreId) (b : Bundle) (sd sa sb : BitVec 5)
  | xor (k : CoreId) (b : Bundle) (sd sa sb : BitVec 5)
  | shl (k : CoreId) (b : Bundle) (sd sa sb : BitVec 5)
  | shr (k : CoreId) (b : Bundle) (sd sa sb : BitVec 5)
  | sar (k : CoreId) (b : Bundle) (sd sa sb : BitVec 5)
  | addi (k : CoreId) (b : Bundle) (sd sa : BitVec 5) (imm : BitVec 32)
  | movi (k : CoreId) (b : Bundle) (sd : BitVec 5) (imm : BitVec 32)
  | movhi (k : CoreId) (b : Bundle) (sd : BitVec 5) (imm : BitVec 32)
  | scmp (k : CoreId) (b : Bundle) (pd : BitVec 3) (sa sb : BitVec 5) (cc : BitVec 3)
  | pand (k : CoreId) (b : Bundle) (pd pa pb : BitVec 3)
  | por (k : CoreId) (b : Bundle) (pd pa pb : BitVec 3)
  | pxor (k : CoreId) (b : Bundle) (pd pa pb : BitVec 3)
  | pnot (k : CoreId) (b : Bundle) (pd pa : BitVec 3)
  | pmov (k : CoreId) (b : Bundle) (pd : BitVec 3) (sa : BitVec 5)
  | smovp (k : CoreId) (b : Bundle) (sd : BitVec 5) (pa : BitVec 3)
  | br (k : CoreId) (b : Bundle) (cond : BitVec 2) (pn : BitVec 3) (tgt : BitVec 12)
  | ssig (k : CoreId) (b : Bundle) (sc : BitVec 5) (inc : BitVec 16)
  | swait (k : CoreId) (b : Bundle) (pd : BitVec 3) (consume tmode : Bool) (sc st : BitVec 5) (timeout : BitVec 24)
  | yield (k : CoreId) (b : Bundle)
  | halt (k : CoreId) (b : Bundle)
  | fclr (k : CoreId) (b : Bundle) (mask : BitVec 4)
  | sgetst (k : CoreId) (b : Bundle) (sd : BitVec 5) (sel : BitVec 2) (slot : BitVec 4) (entry : BitVec 6)
  | sstep (k : CoreId) (b : Bundle) (sd : BitVec 5)
  | illegalEncoding (k : CoreId) (w : BitVec 256)
  | instructionRange (k : CoreId)
  -- results, counters, frames and refresh
  | resultLand (k : CoreId)
  | syncSignalApply (id : BitVec 15)
  | syncWaitTimeout (k : CoreId)
  | armatureFrameStart
  | asendSlotLand (k : CoreId)
  /-- errors that the refresh reads find: plinth offset, uncorrectable -/
  | refreshWindow (p : Fin 20) (bank : Fin 64) (errs : List (BitVec 32 × Bool))
  -- jobs, by the model's own job number
  | jobStart (j : BitVec 32)
  | jobComplete (j : BitVec 32)
  | jobStoppedComplete (j : BitVec 32)
  | jobSuspend (j : BitVec 32)
  | jobResume (j : BitVec 32)
  | stopInPlace (j : BitVec 32)
  | jobTimeLimit (j : BitVec 32)
  -- DMA entries: a queue, a sequence number, a number of destination segments; `e`: how the host answers the next read
  | copy (q : QRef) (seq : BitVec 32) (n : Nat) (e : HostErr)
  | fill (q : QRef) (seq : BitVec 32) (n : Nat)
  | dmaDescriptorCheck (q : QRef)
  | dmaEntryBegin (q : QRef) (seq : BitVec 32)
  | dmaEntryComplete (q : QRef) (seq : BitVec 32)
  | dmaEntryRetire (q : QRef)
  | resume (k : CoreId) (q : Fin 4)
  | retry (k : CoreId) (q : Fin 4)
  | cancel (k : CoreId) (q : Fin 4)
  -- relief engines
  | reliefCommandStart (c : ClusId)
  | reliefCommandComplete (c : ClusId)
  -- pixel engines; `n`: the niche that translates CTXSET's ARG while the stream's record is not valid; `rows`: block rows
  | ctxset (g : EngId) (n : Fin 32)
  | encframe (g : EngId) (rows : Nat)
  | decframe (g : EngId) (rows : Nat)
  | recon (g : EngId) (rows : Nat)
  | ctxget (g : EngId)
  | pixRowBoundary (g : EngId)
  | pixRtailWrite (g : EngId) (c : Fin 4) (v : BitVec 16)
  | pixResume (g : EngId) (c : Fin 4)
  | pixCancel (g : EngId) (c : Fin 4)
  -- entropy engines
  | latentEntryTake (g : EngId) (stream : BitVec 12)
  | decodeEntryTake (g : EngId) (stream : BitVec 12)
  | tblrdyTake (g : EngId) (stream : BitVec 12)
  | unitWrite (g : EngId) (stream : BitVec 12)
  | ectxset (g : EngId)
  | etabload (g : EngId)
  | decunit (g : EngId)
  | aencode (g : EngId)
  | estream (g : EngId)
  | entRtailWrite (g : EngId) (c : Fin 4) (v : BitVec 16)
  | entResume (g : EngId) (c : Fin 4)
  | entCancel (g : EngId) (c : Fin 4)
  -- Skim; `n`: blocks
  | compress (p : Fin 20) (n : Nat)
  | decompress (p : Fin 20) (n : Nat)
  | skimBlockBoundary (p : Fin 20)
  | skmRtailWrite (p : Fin 20) (c : Fin 4) (v : BitVec 16)
  | skmResume (p : Fin 20) (c : Fin 4)
  | skmCancel (p : Fin 20) (c : Fin 4)
  -- host queues; `f`: the function, true for function 1; `e`: how the host answers the read
  | sqFetch (n : Fin 512) (e : HostErr)
  | jobrun (n : Fin 512) (e : HostErr)
  | castload (n : Fin 512)
  | castdrop (n : Fin 512)
  /-- `seq`: the entry whose read times out; none: the fetch of the next entry -/
  | hostReadTimeout (n : Fin 512) (seq : Option (BitVec 32))
  | hifSqtailWrite (f : Bool) (n : Fin 512) (v : BitVec 32)
  | hifCqheadWrite (f : Bool) (n : Fin 512) (v : BitVec 32)
  | hifSqcfgWrite (f : Bool) (n : Fin 512) (v : BitVec 32)
  | hifCqcfgWrite (f : Bool) (n : Fin 512) (v : BitVec 32)
  | sqResume (f : Bool) (n : Fin 512)
  | sqCancel (f : Bool) (n : Fin 512)
  | sqStart (f : Bool) (n : Fin 512)
  | cqStart (f : Bool) (n : Fin 512)
  | msixAggregationEnd (n : Fin 512)
  | hifEvcfgWrite (f : Bool) (v : BitVec 32)
  | hifEvlostRead (f : Bool)
  | bar2Read (f : Bool) (off : BitVec 64) (len : Nat)
  | bar2Write (f : Bool) (off : BitVec 64) (bs : List Byte) (ep : Bool)
  /-- the BAR2 size is 2^`n` GiB -/
  | bar2Resize (f : Bool) (n : Fin 7)
  | linkDown (f : Bool)
  | linkUp (f : Bool)
  | functionLevelReset (f : Bool)
  | perstN (f : Bool) (high : Bool)
  | configurationSpaceWrite (f : Bool) (w : CfgWrite)
  -- mailboxes and the management controller; `f`: the function
  | mbxH2mData (f : Bool) (v : Word)
  | send (f : Bool)
  | clear (f : Bool)
  | mbxM2hDataRead (f : Bool)
  | mbxM2hAck (f : Bool) (v : Word)
  | m2hMessageSend (f : Bool)
  | nicheSet (f : Bool)
  | nicheClear (f : Bool)
  | slotLoad (f : Bool)
  | takeover (f : Bool)
  | fwStage (f : Bool)
  | fwInstall (f : Bool)
  | fwActivate (f : Bool)
  | fwActivateTimeout
  | mgtStatus (f : Bool)
  | cfgSet (f : Bool)
  | dbgUnlock (f : Bool)
  | nonce (f : Bool)
  /-- `beat`: the active copy's heartbeat came -/
  | heartbeatCheck (beat : Bool)
  | mailboxAcknowledgement (f : Bool)
  -- Lath; `n`: a port, `t`: a transmit queue, `j`: the model's job number, `f`: the writing or reading function
  | portTrain (n : Fin 16)
  | retrain (f : Bool) (n : Fin 16)
  /-- what training found, lane 0 first; a lane that is not listed is open -/
  | trainingComplete (n : Fin 16) (ls : List TrainLane)
  | trainingRetry (n : Fin 16)
  | lpresN (n : Fin 16) (high : Bool)
  /-- the port and physical lane it comes on, control word, first data bytes (the rest are 0), whether the codeword decodes, whether
  symbols were corrected -/
  | linkBlockReceive (n : LaneId) (ctl : BitVec 20) (data : List Byte) (ok corrected : Bool)
  | linkReplayTimeout (n : Fin 16)
  | alignmentMarkerSend (n : Fin 16)
  /-- `depth`: the neighbour's DEPTH; none: it has no path to a root -/
  | alignmentMarkerReceive (n : Fin 16) (ctl : BitVec 20) (data : List Byte) (depth : Option (BitVec 8))
  | lthModidWrite (f : Bool) (v : Word)
  | packetForward
  | writePacket
  | signalPacket
  | ackPacket
  | nakPacket
  | nackPacket
  | discReq
  | discRsp
  | barArrive
  | barRelease
  | barrierArriveSend (j : BitVec 32)
  | barrierJobStart (j : BitVec 32)
  | barrierTimeout (j : BitVec 32)
  | ackTimer (flow : BitVec 12)
  | tqEntryTake (t : BitVec 8)
  | e2eTimeout (t : BitVec 8)
  | tqResume (f : Bool) (t : BitVec 8)
  | tqCancel (f : Bool) (t : BitVec 8)
  | lthTqcfgWrite (f : Bool) (t : BitVec 8) (v : Word)
  | lthRetryRead (f : Bool) (n : Fin 16)
  | portDown (n : Fin 16)
  -- resets, tests, event counters; `f`: the writing function
  | resetCore (f : Bool) (k : CoreId)
  | resetCluster (f : Bool) (c : ClusId)
  /-- 0, 1 pixel engines; 2, 3 entropy engines; 4 Skim -/
  | resetMedia (f : Bool) (p : Fin 20) (u : Fin 5)
  | resetPedestal (f : Bool) (p : Fin 20)
  | resetPort (f : Bool) (n : Fin 16)
  | resetHbm (f : Bool) (k : Fin 12)
  | resetComplete
  | testCore (f : Bool) (k : CoreId)
  | testCluster (f : Bool) (c : ClusId)
  | testPixel (f : Bool) (g : EngId)
  | testEntropy (f : Bool) (g : EngId)
  | testSkim (f : Bool) (p : Fin 20)
  | testHbm (f : Bool) (k : Fin 12)
  | testEnd (p : Fin 20) (x : TestFind)
  | substitute (f : Bool) (k : CoreId)
  /-- `off`: EVC offset of the counter's SEL register; `src`: its new source -/
  | evcClear (f : Bool) (off : BitVec 24) (src : BitVec 8)
  | evcSelect (f : Bool) (off : BitVec 24) (src : BitVec 8)
  | clearall (f : Bool)
  | freeze (f : Bool) (on : Bool)
  -- registers; `f`: the function that reads or writes, `a`: an offset in BAR0
  | sycSet (f : Bool) (id : BitVec 15) (v : Word)
  | sycAdd (f : Bool) (id : BitVec 15) (v : Word)
  | sycValRead (f : Bool) (id : BitVec 15)
  /-- a read of `n` bytes -/
  | reg64LowRead (f : Bool) (a : BitVec 32) (n : Nat)
  | registerWrite (f : Bool) (a : BitVec 32) (bs : List Byte)
  | errorInjectionArm (f : Bool) (a : BitVec 32) (v : Word)
  | envInjection (f : Bool) (a : BitVec 32) (v : Word)
  -- power, clocks, cooling, start-up; voltages in 10 mV, currents in 10 mA, temperatures signed in 0.1 °C
  | modPgRise (bif0 bif1 smb : Bool) (vin : BitVec 16)
  | modPgFall
  /-- a flash write in progress has completed by now -/
  | orderlyShutdownStage (done : Bool)
  | modRstNLow
  | modRstNHigh
  | startupPhase (x : PhaseEnd)
  | vinLow (vin : BitVec 16)
  | vinHigh (vin : BitVec 16)
  | railShort (p : Fin 20) (r : Rail)
  | senseOpen (p : Fin 20) (r : Rail)
  /-- the reference is lost, or lock alone -/
  | refclkLoss (ref : Bool)
  /-- VMEM, or VCORE, of a pedestal; the demand would pass the limit of R741 -/
  | droopTrip (p : Fin 20) (vmem : Bool) (beyond : Bool)
  /-- root edges withheld for the droop since the last run limit -/
  | droopClear (edges : Nat)
  | gateRunLimit
  /-- input power averaged over the period, in W, input voltage and current -/
  | throttleSample (pin vin iin : BitVec 16)
  | caplimit
  | pwrCapWrite (f : Bool) (v : Word)
  /-- flow in 0.1 L/min; resistances of the leak lines in ohms -/
  | coolantSample (flow inlet outlet : BitVec 16) (r0 r1 : Nat)
  /-- pedestals' hottest junctions and the stacks, in order; one that is not listed reads 0 -/
  | thermalSample (tj hbm : List (BitVec 16))
  | emergencyShutdownStage
  | vinInRange (vin : BitVec 16)
  | vmgtOffRestart
  -- management: MCTP control and PLDM on SMBus; SPDM on channel `c`: DOE of function 0 or 1, or SMBus
  | setEndpointId (eid : BitVec 8)
  | getEndpointId
  | getMctpVersionSupport (ty : BitVec 8)
  | getMessageTypeSupport
  | getPdrRepositoryInfo
  | getPdr (h : Nat)
  | getSensorReading (id : BitVec 16)
  | getStateSensorReadings (id : BitVec 16)
  | setEventReceiver (on : Bool) (eid : BitVec 8)
  | getTid
  | getPldmTypes
  | getPldmCommands (ty : BitVec 8)
  | getPldmVersion (ty : BitVec 8)
  | getVersion (c : Fin 3)
  | getCapabilities (c : Fin 3)
  /-- `ok`: the requester offers the algorithms of R718 -/
  | negotiateAlgorithms (c : Fin 3) (ok : Bool)
  | getDigests (c : Fin 3)
  | getCertificate (c : Fin 3) (slot : Fin 8) (off len : Nat)
  /-- `n`: the requester's nonce -/
  | challenge (c : Fin 3) (slot : Fin 8) (n : BitVec 256)
  | getMeasurements (c : Fin 3) (idx : BitVec 8) (signed : Bool) (n : BitVec 256)
  | keyExchange (c : Fin 3)
  /-- `ok`: the requester's verification data are right -/
  | finish (c : Fin 3) (id : Nat) (ok : Bool)
  | endSession (c : Fin 3) (id : Nat)
  | spdmHeartbeat (c : Fin 3) (id : Nat)
  /-- start or stop a selective stream of the function whose DOE carries the session -/
  | ideKeyManagement (c : Fin 3) (id : Nat) (stream : Fin 2) (go : Bool)
  deriving DecidableEq, Repr

end Sys2Proof
end

