-- ==== Sys2Proof/Decode.lean ====
section
/-! DEFINITION. The slot encodings of a bundle (Tables 07.4 to 07.7, R281 to R283), and the reading of a word of the
opcode table. The table gives no row any bits, so no word spells a command. -/
namespace Sys2Proof

/-- The command that a word of the opcode table spells: none, since the table gives no bits. -/
def decodeTableWord (_nbits _w : Nat) : Option Instr := none

/-! ## Fields -/

/-- A field placed at bit `lo` of a slot. -/
def put {w : Nat} (lo : Nat) (v : BitVec w) : BitVec 64 := v.setWidth 64 <<< lo

/-- A field of `n` bits at bit `lo` of a slot. -/
def get (n lo : Nat) (w : BitVec 64) : BitVec n := w.extractLsb' lo n

/-- One bit. -/
def getBit (lo : Nat) (w : BitVec 64) : Bool := w.getLsbD lo
def putBit (lo : Nat) (b : Bool) : BitVec 64 := if b then 1#64 <<< lo else 0

/-- The opcode (R282). -/
def opOf (w : BitVec 64) : Nat := (get 8 56 w).toNat
def putOp (op : Nat) : BitVec 64 := BitVec.ofNat 64 op <<< 56

/-- Are the bits of a mask all 0 (R283)? -/
def clean (w mask : BitVec 64) : Bool := w &&& mask == 0

/-- Accept a slot whose reserved bits are 0. -/
def ifClean {α : Type} (w mask : BitVec 64) (a : α) : Option α := if clean w mask then some a else none

/-! ## The fields that conversions share -/

/-- Conversion fields at the places of TCVT and VCVTR. -/
def getConv (w : BitVec 64) : ConvF :=
  { st := get 4 46 w, acc := getBit 45 w, qmode := getBit 44 w, scrim := get 3 41 w, fold := getBit 40 w, diag := get 16 24 w }
def putConv (c : ConvF) : BitVec 64 :=
  put 46 c.st ||| putBit 45 c.acc ||| putBit 44 c.qmode ||| put 41 c.scrim ||| putBit 40 c.fold ||| put 24 c.diag

/-- Conversion fields at the places of VCVT. -/
def getConvV (w : BitVec 64) : ConvF :=
  { st := get 4 36 w, acc := getBit 29 w, qmode := getBit 28 w, scrim := get 3 25 w, fold := getBit 24 w, diag := get 16 8 w }
def putConvV (c : ConvF) : BitVec 64 :=
  put 36 c.st ||| putBit 29 c.acc ||| putBit 28 c.qmode ||| put 25 c.scrim ||| putBit 24 c.fold ||| put 8 c.diag

/-! ## T slot (Table 07.4) -/

def decodeT (w : BitVec 64) : Option TSlot :=
  match opOf w with
  | 0x00 => ifClean w 0x00FFFFFFFFFFFFFF .nop
  | 0x01 => ifClean w 0x7F (.tmma (get 3 53 w) (getBit 52 w) (get 2 50 w) (get 3 47 w) (get 3 44 w) (get 5 39 w)
      (get 5 34 w) (get 12 22 w) (get 5 17 w) (get 5 12 w) (get 5 7 w))
  | 0x02 => ifClean w 0x00001FFFFFFFFFFF (.tld (get 3 53 w) (get 3 50 w) (get 5 45 w))
  | 0x03 => ifClean w 0x001C1FFFFFFFFFFF (.tst (get 3 53 w) (get 5 45 w))
  | 0x04 => ifClean w 0xF (.tcvt (get 3 53 w) (get 3 50 w) (getConv w) (get 5 19 w) (get 5 14 w) (get 5 9 w) (get 5 4 w))
  | _ => none

def encodeT : TSlot → BitVec 64
  | .nop => 0
  | .tmma td init pp fa fb mr nr km sa sb sp =>
    putOp 0x01 ||| put 53 td ||| putBit 52 init ||| put 50 pp ||| put 47 fa ||| put 44 fb ||| put 39 mr ||| put 34 nr |||
    put 22 km ||| put 17 sa ||| put 12 sb ||| put 7 sp
  | .tld td fmt sa => putOp 0x02 ||| put 53 td ||| put 50 fmt ||| put 45 sa
  | .tst ts sa => putOp 0x03 ||| put 53 ts ||| put 45 sa
  | .tcvt ts tf cv mr nr sd sr =>
    putOp 0x04 ||| put 53 ts ||| put 50 tf ||| putConv cv ||| put 19 mr ||| put 14 nr ||| put 9 sd ||| put 4 sr

/-! ## V slot (Table 07.5) -/

def FOp.code : FOp → Nat
  | .add => 0x01 | .sub => 0x02 | .mul => 0x03 | .div => 0x04 | .fma => 0x05 | .min => 0x06 | .max => 0x07

def FOp.ofCode (n : Nat) : Option FOp :=
  match n with
  | 0x01 => some .add | 0x02 => some .sub | 0x03 => some .mul | 0x04 => some .div | 0x05 => some .fma
  | 0x06 => some .min | 0x07 => some .max | _ => none

def IOp.code : IOp → Nat
  | .add => 0x10 | .sub => 0x11 | .mul => 0x12 | .and => 0x13 | .or => 0x14 | .xor => 0x15 | .shl => 0x16
  | .shr => 0x17 | .sar => 0x18 | .min => 0x19 | .max => 0x1A

def IOp.ofCode (n : Nat) : Option IOp :=
  match n with
  | 0x10 => some .add | 0x11 => some .sub | 0x12 => some .mul | 0x13 => some .and | 0x14 => some .or
  | 0x15 => some .xor | 0x16 => some .shl | 0x17 => some .shr | 0x18 => some .sar | 0x19 => some .min
  | 0x1A => some .max | _ => none

/-- Lane arithmetic: VC is reserved except in VFMA. -/
def decodeF (op : FOp) (w : BitVec 64) : Option VSlot :=
  ifClean w (if op = .fma then 0x00000000FFFFFFFF else 0x000001F0FFFFFFFF)
    (.farith op (get 5 51 w) (get 5 46 w) (get 5 41 w) (get 5 36 w) (get 4 32 w))

def decodeI (op : IOp) (w : BitVec 64) : Option VSlot :=
  ifClean w 0x000001F0FFFFFFFF (.iarith op (get 5 51 w) (get 5 46 w) (get 5 41 w) (get 4 32 w))

def decodeV (w : BitVec 64) : Option VSlot :=
  match FOp.ofCode (opOf w), IOp.ofCode (opOf w) with
  | some op, _ => decodeF op w
  | _, some op => decodeI op w
  | none, none =>
    match opOf w with
    | 0x00 => ifClean w 0x00FFFFFFFFFFFFFF .nop
    | 0x08 => ifClean w 0x00180030FFFFFFFF (.cmp (get 3 53 w) (get 5 46 w) (get 5 41 w) (get 3 38 w) (get 4 32 w))
    | 0x09 => ifClean w 0x000001F0FFFFFFFF (.sel (get 5 51 w) (get 5 46 w) (get 5 41 w) (get 4 32 w))
    | 0x0A => ifClean w 0x00003FFFFFFFFFFF (.bcast (get 5 51 w) (get 5 46 w))
    | 0x0B => ifClean w 0x000000FFFFFFFFFF (.ext (get 5 51 w) (get 5 46 w) (get 6 40 w))
    | 0x1B => ifClean w 0x00003FF0FFFFFFFF (.ipsum (get 5 51 w) (get 5 46 w) (get 4 32 w))
    | 0x20 => ifClean w 0x7 (.cvt (get 5 51 w) (get 5 46 w) (get 3 43 w) (get 3 40 w) (get 6 30 w) (getConvV w) (get 5 3 w))
    | 0x21 => ifClean w 0x7 (.cvtr (get 3 53 w) (get 3 50 w) (getConv w) (getBit 23 w) (get 5 18 w) (get 5 13 w)
        (get 5 8 w) (get 5 3 w))
    | 0x30 => ifClean w 0x000000003FFFFFFF (.sfu (get 6 50 w) (get 5 45 w) (get 5 40 w) (get 3 37 w) (get 3 34 w) (get 4 30 w))
    | 0x31 => ifClean w 0x00000007FFFFFFFF (.smax (get 3 53 w) (get 3 50 w) (get 5 45 w) (get 5 40 w) (get 5 35 w))
    | 0x32 => ifClean w 0x0000000000FFFFFF (.norm (get 3 53 w) (get 3 50 w) (get 5 45 w) (get 5 40 w) (get 5 35 w)
        (get 5 30 w) (getBit 29 w) (get 5 24 w))
    | 0x33 => ifClean w 0x00FFFFFFFFFFFFFF .sfswap
    | 0x40 => ifClean w 0x0000000FFFFFFFFF (.boxd (get 5 51 w) (get 5 46 w) (get 5 41 w) (get 5 36 w))
    | 0x41 => ifClean w 0x0000000FFFFFFFFF (.nms (get 5 51 w) (get 5 46 w) (get 5 41 w) (get 5 36 w))
    | 0x48 => ifClean w 0x000003FFFFFFFFFF (.rng (get 5 51 w) (get 5 46 w) (get 4 42 w))
    | 0x4A => ifClean w 0x00001FFFFFFFFFFF (.getst (get 5 51 w) (get 2 49 w) (get 4 45 w))
    | _ => none

def encodeV : VSlot → BitVec 64
  | .nop => 0
  | .farith op vd va vb vc pr => putOp op.code ||| put 51 vd ||| put 46 va ||| put 41 vb ||| put 36 vc ||| put 32 pr
  | .cmp pd va vb cc pr => putOp 0x08 ||| put 53 pd ||| put 46 va ||| put 41 vb ||| put 38 cc ||| put 32 pr
  | .sel vd va vb pr => putOp 0x09 ||| put 51 vd ||| put 46 va ||| put 41 vb ||| put 32 pr
  | .bcast vd sa => putOp 0x0A ||| put 51 vd ||| put 46 sa
  | .ext sd va lane => putOp 0x0B ||| put 51 sd ||| put 46 va ||| put 40 lane
  | .iarith op vd va vb pr => putOp op.code ||| put 51 vd ||| put 46 va ||| put 41 vb ||| put 32 pr
  | .ipsum vd va pr => putOp 0x1B ||| put 51 vd ||| put 46 va ||| put 32 pr
  | .cvt vd vs sf tf e cv sr =>
    putOp 0x20 ||| put 51 vd ||| put 46 vs ||| put 43 sf ||| put 40 tf ||| put 30 e ||| putConvV cv ||| put 3 sr
  | .cvtr sf tf cv norec ss sd sr sh =>
    putOp 0x21 ||| put 53 sf ||| put 50 tf ||| putConv cv ||| putBit 23 norec ||| put 18 ss ||| put 13 sd ||| put 8 sr ||| put 3 sh
  | .sfu fn vd vs sf tf pr => putOp 0x30 ||| put 50 fn ||| put 45 vd ||| put 40 vs ||| put 37 sf ||| put 34 tf ||| put 30 pr
  | .smax sf tf ss sd sh => putOp 0x31 ||| put 53 sf ||| put 50 tf ||| put 45 ss ||| put 40 sd ||| put 35 sh
  | .norm sf tf ss sd sh se gb sg =>
    putOp 0x32 ||| put 53 sf ||| put 50 tf ||| put 45 ss ||| put 40 sd ||| put 35 sh ||| put 30 se ||| putBit 29 gb ||| put 24 sg
  | .sfswap => putOp 0x33
  | .boxd ss sd sh sp => putOp 0x40 ||| put 51 ss ||| put 46 sd ||| put 41 sh ||| put 36 sp
  | .nms ss sd sh sp => putOp 0x41 ||| put 51 ss ||| put 46 sd ||| put 41 sh ||| put 36 sp
  | .rng vd si stream => putOp 0x48 ||| put 51 vd ||| put 46 si ||| put 42 stream
  | .getst vd sel slot => putOp 0x4A ||| put 51 vd ||| put 49 sel ||| put 45 slot

/-! ## M slot (Table 07.6) -/

def decodeM (w : BitVec 64) : Option MSlot :=
  match opOf w with
  | 0x00 => ifClean w 0x00FFFFFFFFFFFFFF .nop
  | 0x01 => ifClean w 0x03FFFFFF (.sld (get 5 51 w) (get 5 46 w) (get 20 26 w))
  | 0x02 => ifClean w 0x03FFFFFF (.sst (get 5 51 w) (get 5 46 w) (get 20 26 w))
  | 0x03 => ifClean w 0x007FFFFF (.vld (get 5 51 w) (get 3 48 w) (get 5 43 w) (get 20 23 w))
  | 0x04 => ifClean w 0x0007FFFF (.vst (get 5 51 w) (get 3 48 w) (get 5 43 w) (get 20 23 w) (get 4 19 w))
  | 0x08 => ifClean w 0x00000FFFFFFFFFFF (.dmaq (get 2 54 w) (get 5 49 w) (get 5 44 w))
  | 0x09 => ifClean w 0x0001FFFFFFFFFFFF (.dwait (get 2 54 w) (get 5 49 w))
  | 0x10 => ifClean w 0x000FFFFF (.asend (get 12 44 w) (get 8 36 w) (get 5 31 w) (get 5 26 w) (getBit 25 w) (get 5 20 w))
  | _ => none

def encodeM : MSlot → BitVec 64
  | .nop => 0
  | .sld sd sa off => putOp 0x01 ||| put 51 sd ||| put 46 sa ||| put 26 off
  | .sst ss sa off => putOp 0x02 ||| put 51 ss ||| put 46 sa ||| put 26 off
  | .vld vd fmt sa off => putOp 0x03 ||| put 51 vd ||| put 48 fmt ||| put 43 sa ||| put 23 off
  | .vst vs fmt sa off pr => putOp 0x04 ||| put 51 vs ||| put 48 fmt ||| put 43 sa ||| put 23 off ||| put 19 pr
  | .dmaq q sd sa => putOp 0x08 ||| put 54 q ||| put 49 sd ||| put 44 sa
  | .dwait q sa => putOp 0x09 ||| put 54 q ||| put 49 sa
  | .asend route ns ss sd cen sc =>
    putOp 0x10 ||| put 44 route ||| put 36 ns ||| put 31 ss ||| put 26 sd ||| putBit 25 cen ||| put 20 sc

/-! ## C slot (Table 07.7) -/

def SOp.code : SOp → Nat
  | .add => 0x01 | .sub => 0x02 | .mul => 0x03 | .and => 0x04 | .or => 0x05 | .xor => 0x06 | .shl => 0x07
  | .shr => 0x08 | .sar => 0x09

def SOp.ofCode (n : Nat) : Option SOp :=
  match n with
  | 0x01 => some .add | 0x02 => some .sub | 0x03 => some .mul | 0x04 => some .and | 0x05 => some .or
  | 0x06 => some .xor | 0x07 => some .shl | 0x08 => some .shr | 0x09 => some .sar | _ => none

def POp.code : POp → Nat
  | .and => 0x10 | .or => 0x11 | .xor => 0x12

def POp.ofCode (n : Nat) : Option POp :=
  match n with
  | 0x10 => some .and | 0x11 => some .or | 0x12 => some .xor | _ => none

def decodeC (w : BitVec 64) : Option CSlot :=
  match SOp.ofCode (opOf w), POp.ofCode (opOf w) with
  | some op, _ => ifClean w 0x000001FFFFFFFFFF (.alu op (get 5 51 w) (get 5 46 w) (get 5 41 w))
  | _, some op => ifClean w 0x00007FFFFFFFFFFF (.palu op (get 3 53 w) (get 3 50 w) (get 3 47 w))
  | none, none =>
    match opOf w with
    | 0x00 => ifClean w 0x00FFFFFFFFFFFFFF .nop
    | 0x0A => ifClean w 0x00003FFF (.addi (get 5 51 w) (get 5 46 w) (get 32 14 w))
    | 0x0B => ifClean w 0x0007FFFF (.movi (get 5 51 w) (get 32 19 w))
    | 0x0C => ifClean w 0x0007FFFF (.movhi (get 5 51 w) (get 32 19 w))
    | 0x0D => ifClean w 0x0018003FFFFFFFFF (.scmp (get 3 53 w) (get 5 46 w) (get 5 41 w) (get 3 38 w))
    | 0x13 => ifClean w 0x0003FFFFFFFFFFFF (.pnot (get 3 53 w) (get 3 50 w))
    | 0x14 => ifClean w 0x0000FFFFFFFFFFFF (.pmov (get 3 53 w) (get 5 48 w))
    | 0x15 => ifClean w 0x0000FFFFFFFFFFFF (.smovp (get 5 51 w) (get 3 48 w))
    | 0x20 => ifClean w 0x0007FFFFFFFFF000 (.br (get 2 54 w) (get 3 51 w) (get 12 0 w))
    | 0x28 => ifClean w 0x00000007FFFFFFFF (.ssig (get 5 51 w) (get 16 35 w))
    | 0x29 => ifClean w 0x0001FFFF (.swait (get 3 53 w) (getBit 52 w) (getBit 51 w) (get 5 46 w) (get 5 41 w) (get 24 17 w))
    | 0x2A => ifClean w 0x00FFFFFFFFFFFFFF .yield
    | 0x2B => ifClean w 0x00FFFFFFFFFFFFFF .halt
    | 0x30 => ifClean w 0x000FFFFFFFFFFFFF (.fclr (get 4 52 w))
    | 0x31 => ifClean w 0x0000007FFFFFFFFF (.sgetst (get 5 51 w) (get 2 49 w) (get 4 45 w) (get 6 39 w))
    | 0x32 => ifClean w 0x0007FFFFFFFFFFFF (.sstep (get 5 51 w))
    | _ => none

def encodeC : CSlot → BitVec 64
  | .nop => 0
  | .alu op sd sa sb => putOp op.code ||| put 51 sd ||| put 46 sa ||| put 41 sb
  | .addi sd sa imm => putOp 0x0A ||| put 51 sd ||| put 46 sa ||| put 14 imm
  | .movi sd imm => putOp 0x0B ||| put 51 sd ||| put 19 imm
  | .movhi sd imm => putOp 0x0C ||| put 51 sd ||| put 19 imm
  | .scmp pd sa sb cc => putOp 0x0D ||| put 53 pd ||| put 46 sa ||| put 41 sb ||| put 38 cc
  | .palu op pd pa pb => putOp op.code ||| put 53 pd ||| put 50 pa ||| put 47 pb
  | .pnot pd pa => putOp 0x13 ||| put 53 pd ||| put 50 pa
  | .pmov pd sa => putOp 0x14 ||| put 53 pd ||| put 48 sa
  | .smovp sd pa => putOp 0x15 ||| put 51 sd ||| put 48 pa
  | .br cond pn tgt => putOp 0x20 ||| put 54 cond ||| put 51 pn ||| put 0 tgt
  | .ssig sc inc => putOp 0x28 ||| put 51 sc ||| put 35 inc
  | .swait pd consume tmode sc st timeout =>
    putOp 0x29 ||| put 53 pd ||| putBit 52 consume ||| putBit 51 tmode ||| put 46 sc ||| put 41 st ||| put 17 timeout
  | .yield => putOp 0x2A
  | .halt => putOp 0x2B
  | .fclr mask => putOp 0x30 ||| put 52 mask
  | .sgetst sd sel slot entry => putOp 0x31 ||| put 51 sd ||| put 49 sel ||| put 45 slot ||| put 39 entry
  | .sstep sd => putOp 0x32 ||| put 51 sd

/-! ## Bundles (R281) -/

/-- A bundle as read, with the numbers of the slots that R283 refuses; those read as no-operations. -/
def decodeBundle (w : BitVec 256) : Bundle × List Nat :=
  let s := fun i => w.extractLsb' (64 * i) 64
  let t := decodeT (s 0)
  let v := decodeV (s 1)
  let m := decodeM (s 2)
  let c := decodeC (s 3)
  (⟨t.getD .nop, v.getD .nop, m.getD .nop, c.getD .nop⟩,
   (if t.isNone then [0] else []) ++ (if v.isNone then [1] else []) ++ (if m.isNone then [2] else []) ++
   (if c.isNone then [3] else []))

def encodeBundle (b : Bundle) : BitVec 256 :=
  encodeC b.c ++ encodeM b.m ++ encodeV b.v ++ encodeT b.t

end Sys2Proof
end

