-- ==== Sys2Proof/Machine/Tbl.lean ====
section
/-! DEFINITION. Reading and writing sparse tables, and the byte order of memory (R6). -/
namespace Sys2Proof

/-- What key `k` holds; `d` when it is not listed. -/
def Tbl.get {α : Type} (d : α) : Tbl α → Nat → α
  | [], _ => d
  | (k', v) :: rest, k => if k' = k then v else Tbl.get d rest k

/-- Put `v` at key `k`, before the first larger key. -/
def Tbl.put {α : Type} (k : Nat) (v : α) : Tbl α → Tbl α
  | [] => [(k, v)]
  | (k', v') :: rest =>
    if k' < k then (k', v') :: Tbl.put k v rest
    else if k' = k then (k, v) :: rest
    else (k, v) :: (k', v') :: rest

/-- Put `v` at key `k`, keeping the canonical form; writing the default removes the entry. -/
def Tbl.set {α : Type} [DecidableEq α] (d : α) (k : Nat) (v : α) (t : Tbl α) : Tbl α :=
  if v = d then t.filter (fun kv => kv.1 != k) else Tbl.put k v t

/-- Change what key `k` holds. -/
def Tbl.upd {α : Type} [DecidableEq α] (d : α) (k : Nat) (f : α → α) (t : Tbl α) : Tbl α :=
  Tbl.set d k (f (Tbl.get d t k)) t

/-- Canonical form: keys strictly rising, no default listed. -/
def Tbl.wf {α : Type} [DecidableEq α] (d : α) : Tbl α → Bool
  | [] => true
  | [(_, v)] => decide (v ≠ d)
  | (k, v) :: (k', v') :: rest => decide (v ≠ d) && decide (k < k') && Tbl.wf d ((k', v') :: rest)

/-- Apply `f` to every listed entry; an entry that becomes the default leaves the table. -/
def Tbl.map {α : Type} [DecidableEq α] (d : α) (f : Nat → α → α) : Tbl α → Tbl α
  | [] => []
  | (k, v) :: rest => if f k v = d then Tbl.map d f rest else (k, f k v) :: Tbl.map d f rest

/-- Keep the entries whose key and value pass `p`. -/
def Tbl.keep {α : Type} (p : Nat → α → Bool) (t : Tbl α) : Tbl α := t.filter (fun kv => p kv.1 kv.2)

/-- The default byte of storage that nothing has written (Table 19.6, phase 9 writes zeros). -/
def Memory.unlisted : Byte := 0

def Memory.wf (m : Memory) : Bool := Tbl.wf Memory.unlisted m

def Memory.byte (m : Memory) (a : Nat) : Byte := Tbl.get Memory.unlisted m a

def Memory.setByte (a : Nat) (b : Byte) (m : Memory) : Memory := Tbl.set Memory.unlisted a b m

/-- The `n` bytes at `a`, lowest address first. -/
def Memory.bytes (m : Memory) (a : Nat) : Nat → List Byte
  | 0 => []
  | n + 1 => m.byte a :: Memory.bytes m (a + 1) n

/-- Write bytes at rising addresses from `a`. -/
def Memory.write (a : Nat) : List Byte → Memory → Memory
  | [], m => m
  | b :: bs, m => Memory.write (a + 1) bs (m.setByte a b)

/-- Little-endian value of a byte list (R6). -/
def leNat : List Byte → Nat
  | [] => 0
  | b :: bs => b.toNat + 256 * leNat bs

/-- The `n` little-endian bytes of `v`. -/
def leBytes (v : Nat) : Nat → List Byte
  | 0 => []
  | n + 1 => BitVec.ofNat 8 v :: leBytes (v / 256) n

/-- Big-endian value and bytes (R7). -/
def beNat (bs : List Byte) : Nat := leNat bs.reverse
def beBytes (v n : Nat) : List Byte := (leBytes v n).reverse

/-- Little-endian value of `n` bytes of memory. -/
def Memory.le (m : Memory) (a n : Nat) : Nat := leNat (m.bytes a n)

/-- Bits `hi` down to `lo` of `v` (R5). -/
def bits (v hi lo : Nat) : Nat := (v / 2 ^ lo) % 2 ^ (hi + 1 - lo)

/-- Bit `i` of `v`. -/
def bitAt (v i : Nat) : Bool := (v / 2 ^ i) % 2 == 1

/-- Two's-complement reading of the low `w` bits of `v`. -/
def sext (w v : Nat) : Int := let x := v % 2 ^ w; if x < 2 ^ (w - 1) then (x : Int) else (x : Int) - 2 ^ w

/-- The numbers `a, a+1, …`, `n` of them. -/
def rangeFrom (a : Nat) : Nat → List Nat
  | 0 => []
  | n + 1 => a :: rangeFrom (a + 1) n

/-- Stable insertion sort by a key (structural, so the kernel can evaluate it). -/
def insertBy {α : Type} (key : α → Nat) (x : α) : List α → List α
  | [] => [x]
  | y :: ys => if key x < key y then x :: y :: ys else y :: insertBy key x ys

def sortBy {α : Type} (key : α → Nat) (xs : List α) : List α := xs.foldl (fun acc x => insertBy key x acc) []

/-- CRC-32 of IEEE 802.3: reflected polynomial, initial and final value 0xFFFF_FFFF (R521). -/
def crcStep (c : BitVec 32) : Nat → BitVec 32
  | 0 => c
  | n + 1 => crcStep (if c.getLsbD 0 then (c >>> 1) ^^^ 0xEDB88320#32 else c >>> 1) n

def crc32 (bs : List Byte) : BitVec 32 :=
  (bs.foldl (fun c b => crcStep (c ^^^ b.setWidth 32) 8) 0xFFFFFFFF#32) ^^^ 0xFFFFFFFF#32

end Sys2Proof
end

