-- ==== Sys2Proof/Machine/Num.lean ====
section
/-! DEFINITION. The number formats of chapter 02: exact values, the one rounding (R60), conversion of an element. -/
namespace Sys2Proof

/-- Formats of Table 02.1. -/
inductive Fmt where
  | fq8 | fq16 | fe8 | fe16 | fa32 | fi48
  deriving DecidableEq, Repr

/-- Format codes of Table 07.2; the two reserved codes name no format. -/
def Fmt.ofCode (c : Nat) : Option Fmt :=
  match c with
  | 0 => some .fq8 | 1 => some .fq16 | 2 => some .fe8 | 3 => some .fe16 | 4 => some .fa32 | 5 => some .fi48
  | _ => none

/-- Element bytes of Table 07.2. -/
def Fmt.size : Fmt → Nat
  | .fq8 => 1 | .fq16 => 2 | .fe8 => 1 | .fe16 => 2 | .fa32 => 4 | .fi48 => 8

def Fmt.isFq : Fmt → Bool
  | .fq8 => true | .fq16 => true | _ => false

def Fmt.isFloat : Fmt → Bool
  | .fe8 => true | .fe16 => true | .fa32 => true | _ => false

/-- Largest code of a quantised format (R145). -/
def Fmt.qmax : Fmt → Nat
  | .fq8 => 255 | _ => 65535

/-- An exact value `m * 2^e`. -/
structure Dy where
  m : Int
  e : Int
  deriving DecidableEq, Repr

namespace Dy

def zero : Dy := ⟨0, 0⟩
def ofInt (i : Int) : Dy := ⟨i, 0⟩
def neg (a : Dy) : Dy := ⟨-a.m, a.e⟩
/-- Both significands at the smaller exponent. -/
def align (a b : Dy) : Int × Int × Int :=
  let e := min a.e b.e
  (a.m * 2 ^ (a.e - e).toNat, b.m * 2 ^ (b.e - e).toNat, e)
def add (a b : Dy) : Dy :=
  if a.m = 0 then b else if b.m = 0 then a else let (x, y, e) := align a b; ⟨x + y, e⟩
def sub (a b : Dy) : Dy := add a (neg b)
def mul (a b : Dy) : Dy := ⟨a.m * b.m, a.e + b.e⟩
def scale2 (a : Dy) (k : Int) : Dy := ⟨a.m, a.e + k⟩
def lt (a b : Dy) : Bool := decide ((sub a b).m < 0)
def le (a b : Dy) : Bool := decide ((sub a b).m ≤ 0)
def eq (a b : Dy) : Bool := decide ((sub a b).m = 0)
def abs (a : Dy) : Dy := ⟨a.m.natAbs, a.e⟩
def isZero (a : Dy) : Bool := decide (a.m = 0)
/-- floor(log2 |a|) of a nonzero value. -/
def expo (a : Dy) : Int := (Nat.log2 a.m.natAbs : Int) + a.e

end Dy

/-- Number of bits of `n`, 0 for 0. -/
def bitlen (n : Nat) : Nat := if n = 0 then 0 else Nat.log2 n + 1

/-- x / 2^s rounded to an integer, ties away from zero (R60; the rsh of Table 05.5). -/
def rsh (x : Int) (s : Nat) : Int :=
  let k : Nat := if s = 0 then x.natAbs else (x.natAbs + 2 ^ (s - 1)) / 2 ^ s
  if x < 0 then -(k : Int) else k

/-- num / den rounded to an integer, ties away from zero. -/
def rtaDiv (num : Int) (den : Nat) : Int :=
  let k : Nat := (2 * num.natAbs + den) / (2 * den)
  if num < 0 then -(k : Int) else k

namespace Flag
def inv : AFlags := 1
def ovf : AFlags := 2
def unf : AFlags := 4
def sat : AFlags := 8
def none : AFlags := 0
end Flag

/-- Constants of a floating format (Table 02.7). -/
structure FloatC where
  w : Nat
  f : Nat
  bias : Int
  emax : Nat
  fmax : Nat
  maxmag : Nat
  deriving DecidableEq, Repr

/-- The constants per format; the integer formats have none and take those of FA32. -/
def Fmt.consts : Fmt → FloatC
  | .fe8 => ⟨8, 3, 8, 15, 7, 0x7F⟩
  | .fe16 => ⟨16, 9, 32, 63, 511, 0x7FFF⟩
  | _ => ⟨32, 23, 127, 254, 0x7FFFFF, 0x7F7FFFFF⟩

/-- The canonical NaN of R62; for an integer format the code 0 (the zero point is added by the conversion, R79). -/
def Fmt.nan : Fmt → Nat
  | .fe8 => 0x80 | .fe16 => 0x8000 | .fa32 => 0xFFFFFFFF | _ => 0

/-- R65 to R68: which codes are NaN. -/
def isNaN (f : Fmt) (code : Nat) : Bool :=
  match f with
  | .fe8 => code % 256 == 0x80
  | .fe16 => code % 65536 == 0x8000
  | .fa32 => (code / 2 ^ 23) % 256 == 255
  | _ => false

/-- Exact value of a finite floating code (R65, R66, R67), 0x8000_0000 of FA32 being zero (R69). -/
def floatValue (f : Fmt) (code : Nat) : Dy :=
  let c := f.consts
  let neg := (code / 2 ^ (c.w - 1)) % 2 == 1
  let ex := (code / 2 ^ c.f) % (2 ^ (c.w - 1 - c.f))
  let fr := code % 2 ^ c.f
  let m : Int := if ex = 0 then fr else fr + 2 ^ c.f
  let e : Int := if ex = 0 then 1 - c.bias - c.f else ex - c.bias - c.f
  ⟨if neg then -m else m, e⟩

/-- An element as read: a NaN or an exact value. -/
inductive Val where
  | nan
  | num (d : Dy)
  deriving DecidableEq, Repr

/-- R123: a floating operand as its exact value. -/
def readFloat (f : Fmt) (code : Nat) : Val :=
  if isNaN f code then .nan else .num (floatValue f code)

/-- Sign and magnitude code of a rounded significand. -/
def packFloat (c : FloatC) (neg : Bool) (k : Nat) (q : Int) : Nat × AFlags :=
  let s := if neg then 2 ^ (c.w - 1) else 0
  if k = 0 then (0, Flag.unf)
  else
    let (k, q) := if k = 2 ^ (c.f + 1) then (2 ^ c.f, q + 1) else (k, q)
    let ex : Int := if k < 2 ^ c.f then 0 else q + c.f + c.bias
    let fr : Nat := if k < 2 ^ c.f then k else k - 2 ^ c.f
    if ex > c.emax ∨ (ex = c.emax ∧ fr > c.fmax) then (s + c.maxmag, Flag.ovf)
    else (s + ex.toNat * 2 ^ c.f + fr, Flag.none)

/-- Encode an exact value with one rounding (round_float of chapter 02; R60, R61, R63, R80, R81). -/
def roundFloat (f : Fmt) (v : Dy) : Nat × AFlags :=
  if v.m = 0 then (0, Flag.none)
  else
    let c := f.consts
    let x := max v.expo (1 - c.bias)
    let q := x - c.f
    let sh := q - v.e
    let m := v.m.natAbs
    let k : Nat := if sh ≤ 0 then m * 2 ^ (-sh).toNat else (m + 2 ^ (sh.toNat - 1)) / 2 ^ sh.toNat
    packFloat c (decide (v.m < 0)) k q

/-- Encode the exact quotient `v / den`, den > 0, with one rounding. -/
def roundQuot (f : Fmt) (v : Dy) (den : Nat) : Nat × AFlags :=
  if v.m = 0 then (0, Flag.none)
  else
    let c := f.consts
    let m := v.m.natAbs
    -- exponent of the quotient: 2^x ≤ |v|/den < 2^(x+1)
    let d : Int := (Nat.log2 m : Int) - (Nat.log2 den : Int)
    let ge : Bool := if d ≥ 0 then decide (m ≥ den * 2 ^ d.toNat) else decide (m * 2 ^ (-d).toNat ≥ den)
    let x0 : Int := (if ge then d else d - 1) + v.e
    let x := max x0 (1 - c.bias)
    let q := x - c.f
    let sh := q - v.e
    let (n, dd) := if sh ≤ 0 then (m * 2 ^ (-sh).toNat, den) else (m, den * 2 ^ sh.toNat)
    packFloat c (decide (v.m < 0)) ((2 * n + dd) / (2 * dd)) q

/-- Encode in an integer format: RTA(v / s) + z clamped to lo..hi (R82; encode_int), s > 0. -/
def encodeInt (v s : Dy) (z lo hi : Int) : Int × AFlags :=
  let d := v.e - s.e
  let r := rtaDiv (if d ≥ 0 then v.m * 2 ^ d.toNat else v.m) (if d ≥ 0 then s.m.natAbs else s.m.natAbs * 2 ^ (-d).toNat)
  let c := r + z
  if c < lo then (lo, Flag.sat) else if c > hi then (hi, Flag.sat) else (c, Flag.none)

/-- A row parameter record (Table 02.5). -/
structure RowParam where
  scale : Nat
  zp : Nat
  deriving DecidableEq, Repr

def RowParam.ofDouble (d : Nat) : RowParam := ⟨d % 2 ^ 32, (d / 2 ^ 32) % 2 ^ 16⟩
def RowParam.toDouble (p : RowParam) : Nat := p.scale % 2 ^ 32 + 2 ^ 32 * (p.zp % 2 ^ 16)
/-- Scale 1.0 and zero point 0, as R77 takes when a conversion names no scale. -/
def RowParam.one : RowParam := ⟨0x3F800000, 0⟩

/-- R73: a valid scale is finite and greater than zero. -/
def scaleValid (s : Nat) : Bool := !isNaN .fa32 s && decide ((floatValue .fa32 s).m > 0)

/-- The zero point a format uses (Table 02.5: only ZP[7:0] for FQ8; 0 for FI48). -/
def RowParam.zpFor (p : RowParam) (f : Fmt) : Int :=
  match f with
  | .fq8 => p.zp % 256 | .fq16 => p.zp | _ => 0

/-- The signed or unsigned code an element's bits hold in an integer format. -/
def codeInt (f : Fmt) (code : Nat) : Int :=
  match f with
  | .fi48 => sext 48 code | .fq8 => code % 256 | _ => code % 65536

/-- Value of a source element under its row's record (R71, R74, R77, R78). -/
def elemVal (f : Fmt) (p : RowParam) (code : Nat) : Val :=
  if f.isFloat then readFloat f code
  else if scaleValid p.scale then .num (Dy.mul ⟨codeInt f code - p.zpFor f, 0⟩ (floatValue .fa32 p.scale)) else .nan

/-- The range of an integer target (R82). -/
def Fmt.lo : Fmt → Int
  | .fi48 => -(2 ^ 47) | _ => 0
def Fmt.hi : Fmt → Int
  | .fi48 => 2 ^ 47 - 1 | .fq8 => 255 | _ => 65535

/-- The bits in which a result is stored: FI48 results as 48-bit two's complement. -/
def intBits (f : Fmt) (c : Int) : Nat :=
  match f with
  | .fi48 => (c % 2 ^ 48).toNat | _ => c.toNat

/-- One element encoded in its target format (R79 to R83); an invalid target scale acts as a NaN source (R74). -/
def encodeElem (f : Fmt) (p : RowParam) (v : Val) : Nat × AFlags :=
  match v with
  | .nan => if f.isFloat then (f.nan, Flag.inv) else (intBits f (p.zpFor f), Flag.inv)
  | .num d =>
    if f.isFloat then roundFloat f d
    else if scaleValid p.scale then
      let (c, fl) := encodeInt d (floatValue .fa32 p.scale) (p.zpFor f) f.lo f.hi
      (intBits f c, fl)
    else (intBits f (p.zpFor f), Flag.inv)

/-- Two FA32 operands and an exact operation on their values: NaN gives NaN and INV (R61, R62, R170). -/
def fa32Op2 (op : Dy → Dy → Dy) (a b : Nat) : Nat × AFlags :=
  match readFloat .fa32 a, readFloat .fa32 b with
  | .num x, .num y => roundFloat .fa32 (op x y)
  | _, _ => (0xFFFFFFFF, Flag.inv)

def fadd (a b : Nat) : Nat × AFlags := fa32Op2 Dy.add a b
def fsub (a b : Nat) : Nat × AFlags := fa32Op2 Dy.sub a b
def fmul (a b : Nat) : Nat × AFlags := fa32Op2 Dy.mul a b

/-- Exact quotient of two values rounded once; the divisor is nonzero. -/
def divRound (f : Fmt) (x y : Dy) : Nat × AFlags :=
  roundQuot f ⟨if y.m < 0 then -x.m else x.m, x.e - y.e⟩ y.m.natAbs

/-- FA32 division with the zero divisor of R171. -/
def fdiv (a b : Nat) : Nat × AFlags :=
  match readFloat .fa32 a, readFloat .fa32 b with
  | .num x, .num y =>
    if y.m = 0 then
      if x.m = 0 then (0xFFFFFFFF, Flag.inv)
      else (if x.m < 0 then 0xFF7FFFFF else 0x7F7FFFFF, Flag.ovf)
    else divRound .fa32 x y
  | _, _ => (0xFFFFFFFF, Flag.inv)

/-- a × b + c, exact, rounded once to `f` (R170; R189 rounds directly to the target). -/
def ffmaTo (f : Fmt) (a b c : Nat) : Nat × AFlags :=
  match readFloat .fa32 a, readFloat .fa32 b, readFloat .fa32 c with
  | .num x, .num y, .num z => roundFloat f (Dy.add (Dy.mul x y) z)
  | _, _, _ => (f.nan, Flag.inv)

def ffma (a b c : Nat) : Nat × AFlags := ffmaTo .fa32 a b c

/-- FA32 minimum and maximum (R300). -/
def fsel (pickA : Dy → Dy → Bool) (a b : Nat) : Nat × AFlags :=
  match readFloat .fa32 a, readFloat .fa32 b with
  | .num x, .num y =>
    let (c, d) := if pickA x y then (a, x) else (b, y)
    (if d.m = 0 then 0 else c % 2 ^ 32, Flag.none)
  | _, _ => (0xFFFFFFFF, Flag.inv)

def fmin (a b : Nat) : Nat × AFlags := fsel Dy.le a b
def fmax (a b : Nat) : Nat × AFlags := fsel (fun x y => Dy.le y x) a b

end Sys2Proof
end

