-- ==== Sys2Proof/Machine/Dot.lean ====
section
/-! DEFINITION. Dot-product arithmetic (chapter 03): the reduction of one tile element, bit for bit. -/
namespace Sys2Proof

/-- Consecutive groups of 32 (R115); `fuel` bounds the number of groups. -/
def groups32 {α : Type} : Nat → List α → List (List α)
  | 0, _ => []
  | fuel + 1, xs => if xs.isEmpty then [] else xs.take 32 :: groups32 fuel (xs.drop 32)

/-- Clamp to the FI48 range (R119). -/
def clamp48 (x : Int) : Int × AFlags :=
  if x > 2 ^ 47 - 1 then (2 ^ 47 - 1, Flag.sat)
  else if x < -(2 ^ 47) then (-(2 ^ 47), Flag.sat) else (x, Flag.none)

/-- Integer reduction of one element: pairs of zero-point-corrected codes, starting accumulator (R117 to R120). -/
def dotInt (ps : List (Int × Int)) (acc : Int) : Int × AFlags :=
  (groups32 (ps.length + 1) ps).foldl (fun (st : Int × AFlags) g =>
    let (a, fl) := clamp48 (st.1 + (g.map (fun p => p.1 * p.2)).foldl (· + ·) 0)
    (a, st.2 ||| fl)) (acc, Flag.none)

/-- Round a significand to `n` significant bits, ties away from zero, with no exponent bound (R60, R134). -/
def roundSig (d : Dy) (n : Nat) : Dy :=
  let m := d.m.natAbs
  let sh := bitlen m - n
  if sh = 0 then d
  else
    let k : Int := (m / 2 ^ sh + (m / 2 ^ (sh - 1)) % 2 : Nat)
    ⟨if d.m < 0 then -k else k, d.e + sh⟩

/-- The precision piece of an operand (R134, R136): operands other than FA32 have one piece, themselves. -/
def pieceOf (f : Fmt) (lo : Bool) (v : Val) : Val :=
  match f, v with
  | .fa32, .num d =>
    let hi := roundSig d 10
    .num (if lo then roundSig (Dy.sub d hi) 10 else hi)
  | _, v => v

/-- The FA32 maximum as an exact value. -/
def fa32Max : Dy := ⟨0xFFFFFF, 104⟩

/-- Floor division of a significand by a power of two, or scaling up: truncation toward −∞ (R127). -/
def truncTo (d : Dy) (w : Int) : Int :=
  if d.e ≥ w then d.m * 2 ^ (d.e - w).toNat else Int.fdiv d.m (2 ^ (w - d.e).toNat)

/-- One product of the floating path (R124, R133). -/
def fprod : Val × Val → Val
  | (.num a, .num b) => .num (Dy.mul a b)
  | _ => .nan

/-- Replacement of a product beyond the FA32 range (R125). -/
def clampProd (d : Dy) : Dy × AFlags :=
  if Dy.lt fa32Max (Dy.abs d) then (if d.m < 0 then Dy.neg fa32Max else fa32Max, Flag.ovf) else (d, Flag.none)

/-- floor(log2 |p|) of the largest nonzero product of a group (R126). -/
def maxExpo : List Dy → Option Int
  | [] => none
  | d :: ds =>
    let r := maxExpo ds
    if d.isZero then r
    else match r with
      | none => some d.expo
      | some x => some (max x d.expo)

/-- Sum of one group (R125 to R128, Table 03.7): an FA32 code and flags. -/
def groupSum (ps : List Val) : Nat × AFlags :=
  let cl := ps.map (fun v => match v with | .nan => (Dy.zero, Flag.none) | .num d => clampProd d)
  let fl := cl.foldl (fun f c => f ||| c.2) Flag.none
  if ps.any (fun v => v == .nan) then (0xFFFFFFFF, fl ||| Flag.inv)
  else
    let ds := cl.map (·.1)
    match maxExpo ds with
    | none => (0, fl)
    | some x =>
      let w := x - 50
      let t := (ds.map (fun d => truncTo d w)).foldl (· + ·) 0
      let (c, f2) := roundFloat .fa32 ⟨t, w⟩
      (c, fl ||| f2)

/-- Accumulator addition (R129). -/
def accAdd (acc g : Nat) : Nat × AFlags := fadd acc g

/-- One pass of a floating reduction (R116). -/
def dotPass (f : Fmt) (la lb : Bool) (ps : List (Val × Val)) (acc : Nat) : Nat × AFlags :=
  (groups32 (ps.length + 1) ps).foldl (fun (st : Nat × AFlags) g =>
    let (gc, gf) := groupSum (g.map (fun p => fprod (pieceOf f la p.1, pieceOf f lb p.2)))
    let (a, af) := accAdd st.1 gc
    (a, st.2 ||| gf ||| af)) (acc, Flag.none)

/-- Floating reduction of one element in `passes` passes (R116, R135); `f` is FA32 for precision pieces. -/
def dotFloat (f : Fmt) (passes : Nat) (ps : List (Val × Val)) (acc : Nat) : Nat × AFlags :=
  let run (la lb : Bool) (st : Nat × AFlags) : Nat × AFlags :=
    let (a, fl) := dotPass f la lb ps st.1
    (a, st.2 ||| fl)
  let st := run false false (acc, Flag.none)
  let st := if passes ≥ 2 then run false true st else st
  if passes ≥ 3 then run true false st else st

/-- Table 03.1: the tile kind of an operand pair (true: FI48), none for a pair the table does not hold. -/
def pairKind (fa fb : Fmt) : Option Bool :=
  if fa.isFq && fb.isFq then some true
  else match fa, fb with
    | .fa32, .fa32 => some false
    | .fe8, .fe8 => some false | .fe8, .fe16 => some false
    | .fe16, .fe8 => some false | .fe16, .fe16 => some false
    | _, _ => none

/-- Table 03.2: the passes of a PP field; none for the fault of R104. -/
def passesOf (fa : Fmt) (pp : Nat) : Option Nat :=
  if pp = 0 then none else if fa = .fa32 then some pp else some 1

end Sys2Proof
end

