-- ==== Sys2Proof/Config.lean ====
section
/-! DEFINITION. What the manual leaves to the device, to a published image it does not contain or to an outside
standard: opaque constants, so that a statement about one holds whatever it is. Each is named in the assumption log. -/
namespace Sys2Proof.Config

/-- R175, R176, R799: which of the two FA32 neighbours of a value that FA32 cannot represent the native ROM delivers.
The ROM image is not in the manual. The choice is monotone (R176), so within one gap of the FA32 grid and one interval
on which the function is monotone it is a threshold on the source, given here as significand and exponent. Arguments:
function code, interval, lower neighbour of the gap as significand and exponent. -/
opaque nativeThr : Nat → Int → Int → Int → Int × Int

/-- R211: entry `i` of the RT-8 coefficient image, which the manual does not print; the last four bytes of entry 1,599 follow from
the image's CRC-32. -/
opaque rt8Coef : Nat → BitVec 64

/-- R163: the MSE that an update with ACC 1 leaves when no numeric element came before or in the row (0 / 0), by the MSE that
the entry held: a function of the operands, so that equal operands give equal bits (R360). -/
opaque emptyMse : BitVec 32 → BitVec 32

/-- A fresh value that nothing in the manual fixes; `n` counts the draws made so far. -/
opaque freeValue : Nat → BitVec 64

/-- R700: output of the true random source, per draw. -/
opaque trueRandom : Nat → BitVec 64

/-- R715: the module's unique identity ("device"). -/
opaque uid : BitVec 64

/-- R697: SHA-384 digest in ECDSA key slot `i`, and SHA-256 digest in LMS key slot `i` ("device"). -/
opaque ecDigest : Nat → List Nat
opaque lmsDigest : Nat → List Nat

/-- The standards' hash and signature functions (FIPS 186-5, SP 800-208), whose contents the manual does not hold. -/
opaque sha384 : List Nat → List Nat
opaque sha256 : List Nat → List Nat
opaque ecdsaVerify : List Nat → List Nat → List Nat → Bool
opaque lmsVerify : List Nat → List Nat → List Nat → Bool

/-- What the flash image slots hold as delivered: header and body bytes; true: slot B. -/
opaque flashHeader : Bool → List Byte
opaque flashBody : Bool → List Byte

/-- R716, R717: key derivation from the UDS and measurement 2, the certificate chain of a start-up with that measurement, a
signature by an alias key, and the responder's public exchange key, as the named standards give. -/
opaque aliasKey : List Nat → Nat
opaque certChain : List Nat → List Nat
opaque signature : Nat → List Nat → List Nat
opaque exchangeKey : Nat → List Nat

/-- Table 18.5: the boot ROM's bytes. -/
opaque bootRom : List Nat

/-- What the outside standards of R725, R726 and R718 fix and the manual does not print: versions by message type and PLDM
type, the body of a PDR, the terminus ID, SPDM capability flags. -/
opaque mctpVersion : Nat → List Nat
opaque pldmVersion : Nat → List Nat
opaque pdrBody : Nat → List Nat
opaque tid : Nat
opaque spdmFlags : Nat

/-- R675: the expected logic-BIST signature of a block (test ROM), by block number. -/
opaque expectedSig : Nat → BitVec 32

/-- Phase 9 of Table 19.6 loads default armature slot tables that the manual does not print: the half at byte offset
`2 * n` of the default slot image (Table of R594). -/
opaque defaultSlotHalf : Nat → BitVec 16

/-- R468: which blocks' luma samples of the reference a pixel engine reads ahead before it searches block column `x` of block
row `y` of a frame number: the spec leaves it to the engine. Applied to FRAME, `x`, `y`; as block columns and rows. -/
opaque prefetch : Nat → Nat → Nat → List (Nat × Nat)

/-- R523: the audio channels and the frame rate of a stream header, which neither record of the stream gives: a function of the
bytes of both. -/
opaque streamFree : List Nat → Nat × Nat

end Sys2Proof.Config
end

