-- ==== Sys2Proof/Machine/Quant.lean ====
section
/-! DEFINITION. Row conversion (chapters 02 and 04): the running maximum, dynamic records, the scrim and the error
statistic. -/
namespace Sys2Proof

/-- Parity of the number of ones of `x` (`popcount` of R153 modulo 2). -/
def oddOnes : Nat → Nat → Bool
  | 0, _ => false
  | fuel + 1, x => xor (x % 2 == 1) (oddOnes fuel (x / 2))

/-- Table 04.1: block length exponent j of a SCRIM code; none for a reserved code. -/
def scrimLog : Nat → Option Nat
  | 0 => some 0 | 1 => some 4 | 2 => some 5 | 3 => some 6 | 4 => some 7 | _ => none

/-- Table 04.1: fold exponent f. -/
def foldExp (j : Nat) (fold : Bool) : Nat := if fold then (j + 1) / 2 else j / 2

/-- Blocks of `n` consecutive elements (R150). -/
def blocks {α : Type} (n : Nat) : Nat → List α → List (List α)
  | 0, _ => []
  | fuel + 1, xs => if xs.isEmpty then [] else xs.take n :: blocks n fuel (xs.drop n)

/-- The numbered elements of a block. -/
def numbered {α : Type} (xs : List α) : List (Nat × α) := (rangeFrom 0 xs.length).zip xs

/-- Exact signed sum over a block: term i carries the sign (−1)^(popcount(k AND i)) and, when `diag` is given, d_i. -/
def walshSum (k : Nat) (xs : List (Nat × Dy)) : Dy :=
  xs.foldl (fun s ix => Dy.add s (if oddOnes 8 (k &&& ix.1) then Dy.neg ix.2 else ix.2)) Dy.zero

/-- The value of a numeric element; a NaN block never reaches the sums. -/
def Val.dy : Val → Dy
  | .nan => Dy.zero
  | .num d => d

/-- Apply the sign diagonal d_i of R151. -/
def diagSign (signs : Nat) (i : Nat) (d : Dy) : Dy := if bitAt signs i then Dy.neg d else d

/-- Forward scrim of one block (R153, R155). -/
def scrimFwd (signs f : Nat) (xs : List Val) : List Val :=
  if xs.any (· == .nan) then xs.map (fun _ => .nan)
  else
    let ds := (numbered xs).map (fun ix => (ix.1, diagSign signs ix.1 ix.2.dy))
    (rangeFrom 0 xs.length).map (fun k => .num (Dy.scale2 (walshSum k ds) (-(f : Int))))

/-- Inverse scrim of one block (R156); a NaN (an invalid scale) makes the block NaN. -/
def scrimInv (signs f j : Nat) (us : List Val) : List Val :=
  if us.any (· == .nan) then us.map (fun _ => .nan)
  else
    let ds := (numbered us).map (fun ix => (ix.1, ix.2.dy))
    (rangeFrom 0 us.length).map (fun i =>
      .num (diagSign signs i (Dy.scale2 (walshSum i ds) ((f : Int) - j))))

/-- The numeric elements of a row. -/
def numerics : List Val → List Dy
  | [] => []
  | .nan :: vs => numerics vs
  | .num d :: vs => d :: numerics vs

/-- M of R95 to R97: the largest magnitude of the numeric elements, as an FA32 code. -/
def runMax (vs : List Val) : Nat :=
  (roundFloat .fa32 ((numerics vs).foldl (fun m d => if Dy.lt m (Dy.abs d) then Dy.abs d else m) Dy.zero)).1

/-- Dynamic row record (R143 to R146). -/
def dynParams (tf : Fmt) (vs : List Val) : RowParam :=
  let ds := numerics vs
  let lo := ds.foldl (fun m d => if Dy.lt d m then d else m) Dy.zero
  let hi := ds.foldl (fun m d => if Dy.lt m d then d else m) Dy.zero
  let span := Dy.sub hi lo
  if span.m = 0 then RowParam.one
  else
    let sc := (roundQuot .fa32 span (tf.qmax - 1)).1
    let sc := if sc = 0 then 1 else sc
    ⟨sc, (encodeInt (Dy.neg lo) (floatValue .fa32 sc) 0 0 tf.qmax).1.toNat⟩

/-- What one converted row delivers. -/
structure RowOut where
  codes : List Nat
  flags : AFlags
  /-- record written by a dynamic conversion (R148) -/
  record : Option RowParam
  /-- M of R95 -/
  runmax : Nat
  /-- sum of squared errors and count of numeric elements (R161); none for a conversion that is not quantising -/
  err : Option (Dy × Nat)
  deriving DecidableEq, Repr

/-- The conversion control fields of Table 04.1, with the drawn sign bits. -/
structure ConvCtl where
  qmode : Bool
  scrim : Nat
  fold : Bool
  signs : Nat
  deriving DecidableEq, Repr

/-- Squared error of one element (R161). -/
def sqErr (tf : Fmt) (p : RowParam) (v : Dy) (code : Nat) : Dy :=
  let e := Dy.sub v (Dy.mul ⟨codeInt tf code - p.zpFor tf, 0⟩ (floatValue .fa32 p.scale))
  Dy.mul e e

/-- SSE and n of a quantised row (R161); an invalid target scale contributes nothing. -/
def rowErr (tf : Fmt) (p : RowParam) (vs : List Val) (codes : List Nat) : Dy × Nat :=
  if scaleValid p.scale then
    (vs.zip codes).foldl (fun (st : Dy × Nat) vc =>
      match vc.1 with
      | .nan => st
      | .num d => (Dy.add st.1 (sqErr tf p d vc.2), st.2 + 1)) (Dy.zero, 0)
  else (Dy.zero, 0)

/-- Encode every value of a row; flags combine by OR. -/
def encodeRow (tf : Fmt) (p : RowParam) (vs : List Val) : List Nat × AFlags :=
  let cs := vs.map (encodeElem tf p)
  (cs.map (·.1), cs.foldl (fun f c => f ||| c.2) Flag.none)

/-- One row converted: scrim or its inverse, the record, the encoding and the statistics (R78 to R83, R95, R137 to
R167). `srcFq` tells whether the source format is FQ8 or FQ16. -/
def convertRow (srcFq : Bool) (tf : Fmt) (p : RowParam) (ctl : ConvCtl) (vs : List Val) : RowOut :=
  let j := (scrimLog ctl.scrim).getD 0
  let f := foldExp j ctl.fold
  let quant := tf.isFq
  let us :=
    if j = 0 then vs
    else if quant then (blocks (2 ^ j) vs.length vs).flatMap (scrimFwd ctl.signs f)
    else if srcFq then (blocks (2 ^ j) vs.length vs).flatMap (scrimInv ctl.signs f j)
    else vs
  let dyn := quant && ctl.qmode
  let p := if dyn then dynParams tf us else p
  let (codes, fl) := encodeRow tf p us
  { codes := codes, flags := fl, record := if dyn then some p else none, runmax := runMax us,
    err := if quant then some (rowErr tf p us codes) else none }

/-- R139: does a conversion meet the quantisation-control fault? -/
def quantCtlFault (sf tf : Fmt) (qmode : Bool) (scrim : Nat) : Bool :=
  let quant := tf.isFq
  let dequant := sf.isFq && tf.isFloat
  (scrimLog scrim).isNone || (qmode && !quant) ||
    (scrim != 0 && !(quant || dequant)) || (scrim != 0 && sf.isFq && tf.isFq)

/-- An entry of an error slot: MSE as an FA32 code and COUNT (R159). -/
structure ErrEntry where
  mse : BitVec 32
  count : BitVec 32
  deriving DecidableEq, Repr

def ErrEntry.zero : ErrEntry := ⟨0, 0⟩

/-- Update of an error entry (R162 to R164). The value that R163 leaves without one, ACC 1 with no numeric element before or
in the row (0 / 0), is free: a function of the entry. -/
def ErrEntry.update (acc : Bool) (sse : Dy) (n : Nat) (e : ErrEntry) : ErrEntry :=
  if acc then
    let tot := e.count.toNat + n
    if tot > 0xFFFFFFFF then e
    else if tot = 0 then ⟨Config.emptyMse e.mse, 0⟩
    else
      let q := Dy.mul (floatValue .fa32 e.mse.toNat) ⟨e.count.toNat, 0⟩
      ⟨BitVec.ofNat 32 (roundQuot .fa32 (Dy.add q sse) tot).1, BitVec.ofNat 32 tot⟩
  else if n = 0 then ⟨0, 0⟩
  else ⟨BitVec.ofNat 32 (roundQuot .fa32 sse n).1, BitVec.ofNat 32 n⟩

/-- The larger of two FA32 maxima, both non-negative codes (R98, R99). -/
def maxCode (a b : BitVec 32) : BitVec 32 := if a.toNat < b.toNat then b else a

end Sys2Proof
end

