-- ==== Sys2Proof/Machine/State.lean ====
section
/-! DEFINITION. The state of the block as plain data, and its reset. One structure per unit; a table of units lists
only those that differ from their reset value. -/
namespace Sys2Proof.Machine
open Sys2Proof

/-! ## Cores (chapters 02 to 07) -/

/-- CSQ_STATE.STATE (Table 06.11), in the order of its codes. -/
inductive CoreSt where
  | idle | run | wait | hold | suspended | halted | fault | outOfService
  deriving DecidableEq, Repr

/-- A register under the obligations of Table 06.2: scalar, vector, predicate, tile, statistics slot, error slot. -/
inductive Reg where
  | s (n : Nat) | v (n : Nat) | p (n : Nat) | t (n : Nat) | st (n : Nat) | ms (n : Nat)
  deriving DecidableEq, Repr

/-- The engines of Table 07.10 whose occupancy obligation 4 checks. -/
inductive Engine where
  | tensor | vector | sfu | mport | send
  deriving DecidableEq, Repr

/-- One write of a result. -/
inductive Wr where
  | sreg (n : Nat) (v : BitVec 64)
  | preg (n : Nat) (v : BitVec 64)
  /-- lanes of a vector register -/
  | vreg (n : Nat) (ls : List (Nat × BitVec 32))
  /-- elements of a tile at `32 m + n`; `clear` first sets the whole tile to zero -/
  | tile (n : Nat) (clear : Bool) (es : List (Nat × BitVec 48))
  /-- kind of a tile; true: FI48 -/
  | tkind (n : Nat) (fi48 : Bool)
  /-- running maximum of an entry (R95, R98) -/
  | stat (slot entry : Nat) (m : BitVec 32) (acc : Bool)
  /-- error statistic of an entry (R161) -/
  | err (slot entry : Nat) (acc : Bool) (sse : Dy) (n : Nat)
  /-- bytes of the core store -/
  | cstore (addr : Nat) (bs : List Byte)
  /-- bytes of the cluster store -/
  | clstore (off : Nat) (bs : List Byte)
  deriving DecidableEq, Repr

/-- An issued operation's result in flight: it lands in cycle `due` (R293). -/
structure Flight where
  due : Nat
  /-- 0 T, 1 V, 2 M, 3 C (R295) -/
  slot : Nat
  wr : List Wr
  flags : AFlags
  deriving DecidableEq, Repr

/-- A T-slot or V-slot instruction that reads or writes core-store bytes, kept until its result lands (R296, R297). -/
structure MemOp where
  occEnd : Nat
  due : Nat
  /-- bytes read or written, as address and length -/
  spans : List (Nat × Nat)
  /-- bytes written -/
  dst : List (Nat × Nat)
  deriving DecidableEq, Repr

/-- A waiting SWAIT (R231 to R233). -/
structure WaitRec where
  counter : Nat
  target : BitVec 32
  timeout : Nat
  pd : Nat
  consume : Bool
  tmode : Bool
  issued : Nat
  /-- cycle of a compare still to come that no signal causes: its first (R231) -/
  cmp : Option Nat
  deriving DecidableEq, Repr

/-- The DMA-queue holds of Table 06.1. -/
inductive Hold where
  | queueFull (q : Nat)
  | retire (q seq : Nat)
  | sfuBank
  | instrLine (line : Nat)
  deriving DecidableEq, Repr

/-- One SFU bank (R191). -/
structure SfuBank where
  steps : Tbl (BitVec 64)
  entries : Tbl (BitVec 32)
  table : Tbl (BitVec 32)
  deriving DecidableEq, Repr

def SfuBank.zero : SfuBank := ⟨[], [], []⟩

/-- A DMA descriptor or host queue entry as read (Tables 10.6, 14.3). -/
structure Desc where
  op : Nat
  sk : Nat
  dk : Nat
  cen : Bool
  fence : Bool
  nonres : Bool
  bar : Bool
  /-- a reserved bit of the entry is not 0 -/
  bad : Bool
  len : Nat
  src : Nat
  dst : Nat
  rows : Nat
  sstride : Nat
  dstride : Nat
  ctr : Nat
  inc : Nat
  fillv : Nat
  tag : Nat
  /-- JOBRUN, CASTLOAD, CASTDROP (Table 14.3) -/
  handle : Nat
  args : Nat
  seed : BitVec 128
  tlimit : Nat
  bgrp : Nat
  deriving DecidableEq, Repr

/-- Progress of an entry. -/
inductive Phase where
  /-- submitted, its check not yet ended -/
  | waiting
  /-- accepted, not begun -/
  | accepted
  /-- moving bytes, or its job or cast load is under way -/
  | running
  /-- RT-8: parked at a missing page (R434) -/
  | parked
  /-- completed with its code -/
  | complete
  deriving DecidableEq, Repr

/-- One page of a translation fixed at acceptance (R415): first DVA, bytes, first MPA. -/
structure PageMap where
  dva : Nat
  size : Nat
  mpa : Nat
  deriving DecidableEq, Repr

/-- The fields of an error record (Table 16.2) that the reporter gives. -/
structure Rec where
  det : Nat
  sev : Nat
  code : Nat
  ped : Option Nat
  aspace : Nat
  addr : Nat
  source : Nat
  flow : Nat
  seq : Nat
  unit : Nat
  niche : Option Nat
  /-- none: detector detail that no rule fixes -/
  synd : Option Nat
  deriving DecidableEq, Repr

/-- A failure that a run-ahead read met (R431): the bytes it covers, by their place among the entry's source bytes, its
code and the error record that it will make. -/
structure AheadBad where
  pos : Nat
  len : Nat
  code : Nat
  report : Rec
  deriving DecidableEq, Repr

/-- An unretired entry of a core queue or host queue. -/
structure Entry where
  seq : Nat
  desc : Desc
  phase : Phase
  code : Nat
  part : Bool
  /-- it had begun moving bytes -/
  began : Bool
  /-- it will complete ORDER_HELD at retirement (R424, R425) -/
  doomed : Bool
  /-- its code stands while the queue is held (R425) -/
  own : Bool
  issuedAt : Nat
  /-- cycle of acceptance; once begun, the cycle in which an on-chip entry completes, or in which another began -/
  stamp : Nat
  srcMap : List PageMap
  dstMap : List PageMap
  /-- bytes moved so far, in the order row, byte -/
  moved : Nat
  /-- source bytes that run-ahead reads have covered, and the failures they met (R429, R431) -/
  ahead : Nat
  aheadBad : List AheadBad
  /-- cores whose SFU shadow bank was bank 1 at acceptance (R198) -/
  banks : List Nat
  /-- the job that a JOBRUN runs -/
  job : Option Nat
  /-- arguments that a JOBRUN read at acceptance (R573) -/
  argv : List (BitVec 64)
  /-- its fetch failed: no TAG, no signal (R571) -/
  blind : Bool
  /-- function whose host memory its bus addresses name: the owner of the SQ when it was fetched (R569) -/
  fn : Bool
  deriving DecidableEq, Repr

/-- A descriptor check under way (R414): the entry, the cycle of its next read of a page-table entry or of its end, the pages
still to be walked (true: of the destination), and what the walks found. -/
structure CheckRun where
  seq : Nat
  next : Nat
  todo : List (Bool × Nat)
  src : List PageMap
  dst : List PageMap
  codes : List Nat
  deriving DecidableEq, Repr

/-- A core DMA queue (chapter 10). -/
structure DQueue where
  /-- DMA_QCTX.MODE: true RT-8 -/
  mode : Bool
  /-- the failed entry that holds the queue (R424) -/
  held : Option Nat
  next : BitVec 32
  entries : List Entry
  /-- cycle in which the previous check ends, and the check under way -/
  checkEnd : Nat
  chk : Option CheckRun
  faultWrite : Bool
  faultDva : Nat
  deriving DecidableEq, Repr

def DQueue.reset : DQueue := ⟨false, none, 0, [], 0, none, false, 0⟩

/-- A slot of an ASEND that has not landed: the CK_M cycle in which it enters, the CK_A cycle in which it lands, the local
address of its destination, its 1,024 bytes. -/
structure SendSlot where
  enter : Nat
  due : Nat
  dst : Nat
  bytes : List Byte
  deriving DecidableEq, Repr

/-- An ASEND with slots still to land (R316 to R319). -/
structure SendRec where
  route : Nat
  /-- CK_M cycle in which its last slot enters -/
  lastIn : Nat
  slots : List SendSlot
  ctr : Option Nat
  deriving DecidableEq, Repr

/-- A physical core. -/
structure Core where
  st : CoreSt
  /-- YIELD bundles issued -/
  ycount : BitVec 16
  /-- bundle index of the next issue; 4,096 after bundle 4,095 -/
  pc : Nat
  /-- branches that have not taken effect: issue index and target (R298) -/
  brq : List (Nat × Nat)
  fault : BitVec 32
  /-- CSQ_STEP as held while no job runs or the job is suspended -/
  stepHeld : BitVec 64
  /-- cycle in which CSQ_STEP of the running job reads 0; none while it does not advance -/
  stepFrom : Option Nat
  issued : BitVec 64
  /-- earliest cycle of the next issue -/
  ready : Nat
  spare : Bool
  insvc : Bool
  lcore : Nat
  /-- the resident job -/
  job : Option Nat
  aflags : AFlags
  sreg : Tbl (BitVec 64)
  preg : Tbl (BitVec 64)
  /-- key 64 v + lane -/
  vreg : Tbl (BitVec 32)
  /-- key 1024 t + 32 m + n; FA32 codes in bits [31:0] -/
  tile : Tbl (BitVec 48)
  /-- true: FI48 -/
  tkind : Tbl Bool
  /-- key 64 slot + entry -/
  stat : Tbl (BitVec 32)
  err : Tbl ErrEntry
  bank0 : SfuBank
  bank1 : SfuBank
  active : Bool
  perr : BitVec 3
  cstore : Memory
  istore : Memory
  /-- bundles that the image or a DMA write supplied (R218) -/
  supplied : Tbl Bool
  flights : List Flight
  memops : List MemOp
  /-- first cycle after the occupancy of each engine -/
  tensorFree : Nat
  vectorFree : Nat
  sfuFree : Nat
  mportFree : Nat
  sendFree : Nat
  sends : List SendRec
  wait : Option WaitRec
  hold : Option Hold
  q0 : DQueue
  q1 : DQueue
  q2 : DQueue
  q3 : DQueue
  deriving DecidableEq, Repr

/-- A core after power-on: idle, in no job, not in service until start-up makes it ready (Tables 06.10 to 06.15). -/
def Core.reset : Core :=
  { st := .idle, ycount := 0, pc := 0, brq := [], fault := 0, stepHeld := 0, stepFrom := none, issued := 0, ready := 0,
    spare := false, insvc := false, lcore := 0, job := none, aflags := 0, sreg := [], preg := [], vreg := [], tile := [],
    tkind := [], stat := [], err := [], bank0 := .zero, bank1 := .zero, active := false, perr := 0, cstore := [],
    istore := [], supplied := [], flights := [], memops := [], tensorFree := 0, vectorFree := 0, sfuFree := 0,
    mportFree := 0, sendFree := 0, sends := [], wait := none, hold := none, q0 := .reset, q1 := .reset, q2 := .reset,
    q3 := .reset }


/-! ## Media engines (chapters 11 to 13) -/

/-- A command ring (Tables 11.14 to 11.18). -/
structure Ring where
  base : BitVec 32
  cfg : BitVec 32
  tail : BitVec 16
  head : BitVec 16
  /-- next index to be taken: the model's own -/
  take : BitVec 16
  held : Bool
  overrun : Bool
  /-- indices taken and not complete: the model's own -/
  out : List Nat
  deriving DecidableEq, Repr

def Ring.reset : Ring := ⟨0, 0, 0, 0, 0, false, false, []⟩

/-- A ring entry as taken (Table 11.2), with its place. -/
structure RingCmd where
  ring : Nat
  idx : Nat
  op : Nat
  cen : Bool
  stream : Nat
  ctr : Nat
  inc : Nat
  arg : Nat
  deriving DecidableEq, Repr

/-- A frame command of a pixel engine: its entry, its context and frame records as read, its translations (R456), the DVA of
the frame buffer it reads or writes, as BUFLIST gave it, the vector of each block done so far in raster order (none: intra),
and the next block row. -/
structure PixCmd where
  cmd : RingCmd
  ctx : Memory
  fr : Memory
  maps : List PageMap
  buf : Nat
  mvs : List (Option (Int × Int))
  row : Nat
  /-- region records: X0, Y0, X1, Y1, OFFSET -/
  rois : List (Nat × Nat × Nat × Nat × Int)
  deriving DecidableEq, Repr

/-- The range coder's encoder (R497). -/
structure Enc where
  low : Nat
  range : Nat
  cache : Option Nat
  npend : Nat
  nshift : Nat
  /-- bytes emitted, last first -/
  out : List Byte
  deriving DecidableEq, Repr

/-- The range coder's decoder (R497): the bytes still unread. -/
structure Dec where
  code : Nat
  range : Nat
  rest : List Byte
  deriving DecidableEq, Repr

/-- A frame that rate control holds and the entropy engine codes (R483 to R488, R510 to R514). -/
structure EncFrame where
  /-- the ENCFRAME, its context updated -/
  pix : PixCmd
  peng : Nat
  eeng : Nat
  /-- the stream record as read at the start -/
  srec : Memory
  subs : List Enc
  /-- static slot and epoch of the set in use (R506) -/
  slot : Nat
  epoch : Nat
  /-- next block row to code, and committed lengths after each row coded -/
  row : Nat
  lens : List Nat
  carry : Option Nat
  /-- rows of the quality map written -/
  mapped : Nat
  deriving DecidableEq, Repr

/-- Who waits for a unit to be written. -/
inductive UnitFor where
  | frame
  | cmd (c : RingCmd)
  deriving DecidableEq, Repr

/-- A unit ready to be written (R534). -/
structure PendUnit where
  eeng : Nat
  stream : Nat
  for_ : UnitFor
  bytes : List Byte
  /-- its substream bytes exceed the staging area -/
  tooBig : Bool
  audio : Bool
  /-- the static slot that an audio packet was coded from (R507) -/
  slot : Option Nat
  deriving DecidableEq, Repr

/-- A unit being decoded (R518, R520, R527 to R530). -/
structure DecUnit where
  eeng : Nat
  cmd : RingCmd
  ctx : Memory
  srec : Memory
  audio : Bool
  /-- fixed header bytes of the payload -/
  hdr : List Byte
  rois : List (Nat × Nat × Nat × Nat × Int)
  subs : List (List Byte)
  slot : Nat
  mf : Nat
  row : Nat
  dec : Option Dec
  mvs : List (Option (Int × Int))
  /-- the entry taken, when its main latents are still to be decoded: its DVA -/
  entry : Option Nat
  /-- a command on a higher ring pre-empted it (R455) -/
  saved : Bool
  deriving DecidableEq, Repr

/-- A Skim job (R545 to R550): its job record, progress in source and destination bytes, and the next block. -/
structure SkimJob where
  cmd : RingCmd
  jrec : Memory
  maps : List PageMap
  inPos : Nat
  outPos : Nat
  block : Nat
  /-- a CANCEL waits for the next block boundary -/
  stop : Bool
  deriving DecidableEq, Repr
/-! ## Clusters, pedestals, niches, casts and jobs (chapters 01, 06, 08, 10) -/

/-- A running relief command: record index, the record as read at its start, its start and end cycles, its code and
flags (R347, R350). -/
structure RelRun where
  idx : Nat
  cen : Bool
  ctr : Nat
  startAt : Nat
  endAt : Nat
  code : Nat
  flags : AFlags
  /-- output bytes: offset and byte runs, landed at completion -/
  out : List (Nat × List Byte)
  deriving DecidableEq, Repr

/-- A cluster: its store, its relief engine (chapter 08), its DMA channel (R421). -/
structure Cluster where
  store : Memory
  relQ : List Nat
  relRun : Option RelRun
  relCount : BitVec 32
  /-- earliest cycle of the next relief start (R346) -/
  relReady : Nat
  /-- first cycle in which the DMA channel is free -/
  dmaFree : Nat
  /-- the suspended job whose register context the save area holds (R257) -/
  saveJob : Option Nat
  /-- physical cores disabled by fuse (R28) -/
  fused : BitVec 16
  deriving DecidableEq, Repr

def Cluster.reset : Cluster := ⟨[], [], none, 0, 0, 0, none, 0⟩

/-- A pedestal: sync counters, translation, plinth conditions, armature tables, self-test registers. -/
structure Ped where
  counters : Tbl (BitVec 32)
  /-- counters marked as holding an uncorrectable error (R241) -/
  ctrBad : Tbl Bool
  sycStat : BitVec 3
  /-- windows, key 64 niche + window: D0 in [63:0], D1 in [127:64] (Table 10.4) -/
  win : Tbl (BitVec 128)
  xltStat : BitVec 3
  xltMal : BitVec 64
  plnStat : BitVec 3
  plnErr : BitVec 64
  /-- rings, key (2 kind + engine) × 4 + class; kind 0 pixel, 1 entropy, 2 Skim -/
  rings : Tbl Ring
  /-- PIX_ERR_e, ENT_ERR_e by engine; SKM_ERR -/
  pixErr : Tbl (BitVec 4)
  entErr : Tbl (BitVec 5)
  skmErr : BitVec 5
  /-- running and pre-empted frame commands of the pixel engines, by engine -/
  pixRun : Tbl (Option PixCmd)
  pixSaved : List (Nat × PixCmd)
  /-- frames held by rate control, units to be written, units being decoded -/
  frames : List EncFrame
  units : List PendUnit
  decs : List DecUnit
  entSym : Tbl (BitVec 64)
  /-- static table store (R505): key (16 engine + slot) × 65,536 + byte; records held, key 16 engine + slot -/
  etab : Memory
  etabN : Tbl Nat
  /-- next entries of the latent, audio and output queues by stream: the model's own -/
  lqIdx : Tbl Nat
  alqIdx : Tbl Nat
  oqIdx : Tbl Nat
  skmRun : Option SkimJob
  skmSaved : List SkimJob
  skmIn : BitVec 64
  skmOut : BitVec 64
  /-- PIX_CTXBASE and ENT_CTXBASE of the plinth -/
  pixCtxBase : BitVec 32
  entCtxBase : BitVec 32
  /-- BST block (chapter 17) -/
  bstCfg : BitVec 32
  bstStat : BitVec 32
  bstCount : BitVec 32
  bstSig : BitVec 32
  bstExp : BitVec 32
  bstFail : BitVec 64
  /-- repairs fused: used rows, and spare substitutions as physical cores -/
  fuse : List (BitVec 64)
  /-- block number to health (Table 17.4): 0 usable, 1 unusable until power-down, 2 unusable in fuse -/
  health : Tbl Nat
  /-- the CMD word of a running test, and the REPAIR value when it began -/
  bstRun : Option (BitVec 32 × Nat)
  /-- soft-repaired rows of each memory, by block number (R682) -/
  soft : Tbl Nat
  deriving DecidableEq, Repr

def Ped.reset : Ped :=
  { counters := [], ctrBad := [], sycStat := 0, win := [], xltStat := 0, xltMal := 0, plnStat := 0, plnErr := 0,
    rings := [], pixErr := [], entErr := [], skmErr := 0, pixRun := [], pixSaved := [],
    frames := [], units := [], decs := [], entSym := [], etab := [], etabN := [], lqIdx := [], alqIdx := [], oqIdx := [],
    skmRun := none, skmSaved := [], skmIn := 0, skmOut := 0, pixCtxBase := 0, entCtxBase := 0, bstCfg := 1,
    bstStat := 0, bstCount := 0, bstSig := 0, bstExp := 0, bstFail := 0, fuse := [], health := [], bstRun := none, soft := [] }

/-- A niche (R49 to R54, Table 14.8). -/
structure Niche where
  /-- owning function; true: function 1 -/
  owner : Option Bool
  cls : Nat
  /-- bit 8 p + c -/
  clus : BitVec 160
  /-- CTRS words by pedestal -/
  ctrs : Tbl (BitVec 32)
  deriving DecidableEq, Repr

def Niche.reset : Niche := ⟨none, 0, 0, []⟩

/-- Image of one core (Table 06.6b). -/
structure CoreImg where
  bundles : Nat
  code : List Byte
  sfu : List Byte
  data : List Byte
  deriving DecidableEq, Repr

/-- A cast as loaded (R242, R243). -/
structure Cast where
  ncore : Nat
  /-- cluster keys 8 p + c, in table order -/
  clus : List Nat
  csf : Nat
  clf : Nat
  /-- declared counters: ID and INIT -/
  ctrs : List (Nat × BitVec 32)
  /-- core images, by cluster-table index, then logical core -/
  imgs : List CoreImg
  climgs : List (List Byte)
  deriving DecidableEq, Repr

inductive JobSt where
  /-- submitted, not started -/
  | staged
  | running
  /-- stopped with a code, not completed (R221) -/
  | stopping
  | suspended
  deriving DecidableEq, Repr

/-- What a suspended job keeps of one core (R255, R256, R438): its place as 16 cluster + logical core; its register
context, unless that lies in the cluster's save area; whether it had halted; its instruction store and SFU banks; the
core-store bytes below `upto`; and of a stop in place its queues, the ASEND slots that had not entered, its hold, and its
wait, whose cycles count in steps. -/
structure SavedCore where
  key : Nat
  ctx : Option Memory
  halted : Bool
  istore : Memory
  supplied : Tbl Bool
  bank0 : SfuBank
  bank1 : SfuBank
  active : Bool
  upto : Nat
  cstore : Memory
  q0 : DQueue
  q1 : DQueue
  q2 : DQueue
  q3 : DQueue
  sends : List SendRec
  hold : Option Hold
  wait : Option WaitRec
  deriving DecidableEq, Repr

/-- What a suspended job keeps of one cluster: the cluster-store bytes that the pre-empting footprint overlaps (R256), and
its count of relief commands (R353). -/
structure SavedClus where
  key : Nat
  store : Memory
  upto : Nat
  relCount : BitVec 32
  deriving DecidableEq, Repr

/-- A job (R246 to R261). -/
structure Job where
  st : JobSt
  niche : Nat
  cls : Nat
  cast : Cast
  args : List (BitVec 64)
  seed : BitVec 128
  tlimit : Nat
  nonres : Bool
  /-- the host queue and sequence number that submitted it -/
  sq : Nat
  seq : Nat
  bar : Bool
  bgrp : Nat
  stopCode : Nat
  /-- R647: code of the earliest failed DMA entry -/
  failCode : Option Nat
  /-- latched pre-emption: stop index Y (R252) -/
  stopIdx : Option Nat
  /-- the cast of the job that pre-empts it (R256) -/
  preCast : Option Cast
  /-- stop in place was taken (R437) -/
  inPlace : Bool
  saved : List SavedCore
  savedClus : List SavedClus
  /-- order of submission -/
  order : Nat
  deriving DecidableEq, Repr

/-- A sync-counter signal on its way (R229, R235 to R240). -/
structure Sig where
  ctr : Nat
  /-- the increment; the value of a SYC_SET -/
  inc : Nat
  /-- a host write to SYC_SET (step 1 of Table 06.4) -/
  set : Bool
  /-- cycle in which it reaches the counter -/
  due : Nat
  /-- cluster whose core or relief engine sent it -/
  clus : Option Nat
  /-- a remote SSIG: its logical core, first CK_M cycle wanted, links -/
  lcore : Nat
  want : Nat
  hops : Nat
  remote : Bool
  order : Nat
  deriving DecidableEq, Repr

/-! ## Host interface (chapter 14) -/

/-- A completion waiting for room in its CQ (R577, R598). -/
structure Cqe where
  tag : BitVec 64
  seq : BitVec 32
  code : BitVec 8
  part : Bool
  sq : BitVec 9
  deriving DecidableEq, Repr

/-- A host submission queue. -/
structure Sq where
  cfg : BitVec 32
  base : BitVec 64
  head : BitVec 16
  tail : BitVec 16
  next : BitVec 32
  /-- the failed entry that holds the queue (R578) -/
  held : Option Nat
  stopped : Bool
  overrun : Bool
  owner : Option Bool
  cfgerr : Bool
  /-- enabled before: sequence numbers count on from the first enable (R570) -/
  entries : List Entry
  /-- disabled and released once its entries have retired (Table 14.9) -/
  releasing : Bool
  deriving DecidableEq, Repr

def Sq.reset : Sq :=
  { cfg := 0, base := 0, head := 0, tail := 0, next := 0, held := none, stopped := false, overrun := false,
    owner := none, cfgerr := false, entries := [], releasing := false }

/-- A host completion queue. -/
structure Cq where
  cfg : BitVec 32
  base : BitVec 64
  tail : BitVec 16
  phase : Bool
  head : BitVec 16
  stopped : Bool
  overrun : Bool
  owner : Option Bool
  cfgerr : Bool
  heldC : List Cqe
  /-- an aggregation interval is running, and entries were written during it (R580) -/
  aggBusy : Bool
  aggPend : Bool
  releasing : Bool
  deriving DecidableEq, Repr

def Cq.reset : Cq :=
  { cfg := 0, base := 0, tail := 0, phase := false, head := 0, stopped := false, overrun := false, owner := none,
    cfgerr := false, heldC := [], aggBusy := false, aggPend := false, releasing := false }

/-- A mailbox (R588 to R591). -/
structure Mbx where
  h2m : List Word
  /-- the outstanding command -/
  cmd : Option (List Word)
  /-- acknowledgement decided: CODE and DETAIL, taken by MAILBOX_ACKNOWLEDGEMENT -/
  reply : Option (BitVec 16)
  /-- the acknowledgement will be discarded (Table 14.9) -/
  drop : Bool
  ack : BitVec 32
  m2h : List Word
  /-- the message was sent and is not acknowledged -/
  sent : Bool
  waiting : List (List Word)
  stat : BitVec 4
  cfg : BitVec 32
  hostAck : BitVec 16
  deriving DecidableEq, Repr

def Mbx.reset : Mbx :=
  { h2m := [], cmd := none, reply := none, drop := false, ack := 0, m2h := [], sent := false, waiting := [],
    stat := 0, cfg := 0, hostAck := 0 }

/-- The registers of configuration space that the PCI Express Base Specification defines (Tables 00.9, 14.1), as far as a
command reads or writes them; the identities of R4 and R554 are constants. -/
structure PciCfg where
  /-- Device Control: Max Payload Size and Max Read Request Size codes -/
  mps : BitVec 3
  mrrs : BitVec 3
  /-- Device Control 2: Completion Timeout Value and Disable, 10-Bit Tag Requester Enable -/
  ctoRange : BitVec 4
  ctoOff : Bool
  tag10 : Bool
  /-- Advanced Error Reporting: status and mask of uncorrectable and corrected errors, header log -/
  unc : BitVec 32
  uncMask : BitVec 32
  cor : BitVec 32
  corMask : BitVec 32
  hdrLog : BitVec 128
  deriving DecidableEq, Repr

/-- As the base specification resets them (PRESUMED: the manual names the features and gives no reset value). -/
def PciCfg.reset : PciCfg :=
  { mps := 0, mrrs := 2, ctoRange := 0, ctoOff := false, tag10 := false, unc := 0, uncMask := 0, cor := 0, corMask := 0x2000, hdrLog := 0 }

/-- One PCIe function with its host's memory. -/
structure Hif where
  err : BitVec 2
  b2base : BitVec 64
  /-- log2 of the BAR2 size (R560) -/
  b2log : Nat
  evbase : BitVec 64
  evcfg : BitVec 32
  evhead : BitVec 16
  evtail : BitVec 16
  evphase : Bool
  evlost : BitVec 32
  /-- niches of a TAKEN event held (Table 14.6) -/
  taken : Option (BitVec 32)
  linkUp : Bool
  bme : Bool
  msixEn : Bool
  msixMaskAll : Bool
  /-- vectors whose Mask bit is 0, the table's addresses and data, and pending bits -/
  unmasked : Tbl Bool
  msixTab : Memory
  pba : Tbl Bool
  /-- memory decode on: power state D0 and memory space enabled -/
  d3 : Bool
  cfg : PciCfg
  perstN : Bool
  mbx : Mbx
  /-- host memory -/
  mem : Memory
  /-- high words captured by low-word reads, by BAR0 offset of the 64-bit register (R10) -/
  capture : Tbl (Option (BitVec 32))
  deriving DecidableEq, Repr

def Hif.reset : Hif :=
  { err := 0, b2base := 0, b2log := 36, evbase := 0, evcfg := 0, evhead := 0, evtail := 0, evphase := false,
    evlost := 0, taken := none, linkUp := false, bme := false, msixEn := false, msixMaskAll := false, unmasked := [], msixTab := [],
    pba := [], d3 := false, cfg := .reset, perstN := false, mbx := .reset, mem := [], capture := [] }

/-! ## Errors and recovery (chapter 16) -/

/-- A running partial reset (R656). -/
structure RstRun where
  scope : Nat
  ped : Nat
  clus : Nat
  unit : Nat
  /-- jobs run on it: a core in service, a cluster, a pedestal -/
  holds : Bool
  /-- a run-time test (R676) -/
  test : Bool
  deriving DecidableEq, Repr

structure Ras where
  logtail : BitVec 32
  logcfg : BitVec 32
  rststat : BitVec 32
  /-- running resets, and tests with the resets that begin them -/
  rsts : List RstRun
  cecnt : Tbl (BitVec 32)
  uecnt : Tbl (BitVec 32)
  /-- ring of records: index mod 1,024 to the record's 64 bytes -/
  ring : Memory
  /-- corrected records written in the current second, and errors since suppressed, per detector (R652) -/
  second : Nat
  ceWritten : Tbl Nat
  ceHidden : Tbl Nat
  deriving DecidableEq, Repr

def Ras.reset : Ras := ⟨0, 1, 0, [], [], [], [], 0, [], []⟩


/-! ## Lath (chapter 15) -/

/-- A packet (Table 15.4), its CRC checked or still to be made. -/
structure Packet where
  ptype : Nat
  hops : Nat
  dmod : Nat
  smod : Nat
  flow : Nat
  flags : Nat
  seq : Nat
  addr : Nat
  aux : Nat
  pay : List Byte
  deriving DecidableEq, Repr

/-- A codeword received on a lane that waits for its turn (R606): lost (R607), an alignment marker, or a block. -/
inductive RxWord where
  | lost
  | marker (ctl : Nat)
  | block (ctl : Nat) (data : List Byte)
  deriving DecidableEq, Repr

/-- A Lath port (Tables 15.18 to 15.20) and its link layer (R608 to R611). -/
structure Port where
  en : Bool
  minl : Nat
  /-- STATE of Table 15.19 -/
  st : Nat
  polinv : BitVec 8
  act : BitVec 8
  fault : BitVec 32
  lmap : BitVec 32
  expuid : BitVec 64
  nbruid : BitVec 64
  nbr : BitVec 32
  delay : BitVec 32
  retry : BitVec 32
  /-- a cable holds LPRES_N low (R774) -/
  present : Bool
  /-- next LSEQ to send, blocks sent and not acknowledged, blocks that wait for the window -/
  txSeq : Nat
  unack : List (Nat × List Byte)
  txq : List (List Byte)
  /-- replays without ACK advancing (R610) -/
  replays : Nat
  /-- LSEQ of the last block delivered, and whether NAK is being sent (R609) -/
  rxSeq : Nat
  nak : Bool
  /-- units of a packet whose rest has not arrived (R611) -/
  part : List Byte
  /-- t1 of the neighbour's last marker and the FT of its receipt (R608, R637) -/
  mkT1 : Nat
  mkT2 : Nat
  /-- movements of the offset to the neighbour, oldest first, each with the FT of its marker (R638); none before the first
  marker -/
  off : Option (List (Nat × Int))
  /-- number of the next block to send, which fixes its lane (R606) -/
  txBlk : Nat
  /-- codewords that wait, by logical lane; the active lane whose turn it is; whether the present row is
  of markers, once that is known (R606) -/
  rxq : Tbl (List RxWord)
  rxTurn : Nat
  rxMark : Option Bool
  deriving DecidableEq, Repr

/-- A port before training; its first data block carries LSEQ 0 (DESIGN CHOICE). -/
def Port.reset : Port :=
  { en := true, minl := 4, st := 0, polinv := 0, act := 0, fault := 0, lmap := 0, expuid := 0, nbruid := 0, nbr := 0,
    delay := 0, retry := 0, present := false, txSeq := 0, unack := [], txq := [], replays := 0, rxSeq := 511, nak := false,
    part := [], mkT1 := 0, mkT2 := 0, off := none, txBlk := 0, rxq := [], rxTurn := 0, rxMark := none }

/-- A transmit-queue entry (Table 15.6) from its taking to its retirement. -/
structure TqEntry where
  idx : Nat
  op : Nat
  cen : Bool
  src : Nat
  dst : Nat
  len : Nat
  rinc : Nat
  ctr : Nat
  inc : Nat
  maps : List PageMap
  /-- SEQ of its first packet, and how many it has -/
  seq0 : BitVec 32
  npk : Nat
  done : Option Nat
  part : Bool
  deriving DecidableEq, Repr

/-- A transmit queue (Tables 15.23, 15.24). -/
structure Tq where
  base : BitVec 32
  cfg : BitVec 32
  dest : BitVec 32
  pctr : BitVec 32
  taken : BitVec 16
  held : Bool
  next : BitVec 32
  ents : List TqEntry
  epoch : BitVec 8
  /-- SEQ of the packet that carries RESYNC (R635) -/
  rsq : Option (BitVec 32)
  /-- lowest SEQ that no ACK has covered -/
  acked : BitVec 32
  /-- successive expiries without progress (R630) -/
  expiries : Nat
  deriving DecidableEq, Repr

def Tq.reset : Tq := ⟨0, 0, 0, 0, 0, false, 0, [], 0, none, 0, 0⟩

/-- A receive flow (Table 15.22, R631). -/
structure Rft where
  cfg : BitVec 32
  ctr : BitVec 32
  exp : BitVec 32
  held : Bool
  due : Bool
  hcode : Nat
  epoch : BitVec 8
  /-- packets delivered since the last ACK (R632) -/
  since : Nat
  deriving DecidableEq, Repr

def Rft.reset : Rft := ⟨0, 0, 0, false, false, 0, 0, 0⟩

/-- A barrier group (Table 15.25). -/
structure Grp where
  bg : BitVec 64
  bgt : BitVec 32
  inst : BitVec 32
  deriving DecidableEq, Repr

def Grp.reset : Grp := ⟨0, 0, 0⟩

/-- A barrier JOBRUN accepted here: its job, group entry and instance, whether the arrival was sent, and the release
(R640, R641). -/
structure BarWait where
  job : Nat
  grp : Nat
  inst : BitVec 32
  sent : Bool
  frel : Option Nat
  deriving DecidableEq, Repr

/-- Arrivals that the leader has counted: GID, instance, members (R640). -/
structure Arrivals where
  gid : Nat
  inst : BitVec 32
  mods : List Nat
  released : Bool
  deriving DecidableEq, Repr

structure Lath where
  /-- LTH_MODID -/
  id : BitVec 16
  dup : Bool
  /-- LTH_TCFG -/
  root : Bool
  tport : BitVec 4
  depth : BitVec 4
  notime : Bool
  nocomref : Bool
  e2e : BitVec 32
  stat : BitVec 5
  ports : Tbl Port
  routes : Tbl (BitVec 32)
  rfts : Tbl Rft
  tqs : Tbl Tq
  groups : Tbl Grp
  /-- packets received whole, with their ports, that no command has taken -/
  rx : List (Nat × Packet)
  arrivals : List Arrivals
  waits : List BarWait
  /-- discovery packets delivered to the controller (R618) -/
  disc : List Packet
  deriving DecidableEq, Repr

def Lath.reset : Lath :=
  { id := 0, dup := false, root := false, tport := 0, depth := 0, notime := false, nocomref := false, e2e := 0x80064, stat := 0,
    ports := [], routes := [], rfts := [], tqs := [], groups := [], rx := [], arrivals := [], waits := [], disc := [] }

/-! ## Event counters (chapter 17), management (chapter 18), power (chapter 19) -/

/-- An event counter (Table 17.10). -/
structure EvCtr where
  src : BitVec 8
  cnt : BitVec 64
  deriving DecidableEq, Repr

def EvCtr.reset : EvCtr := ⟨0, 0⟩

/-- A firmware image: its 2 KiB header and its body. -/
structure FwImg where
  hdr : List Byte
  body : List Byte
  deriving DecidableEq, Repr

/-- FW_INSTALL or FW_ACTIVATE under way (R710 to R712). -/
structure MgtWork where
  /-- function that sent it -/
  f : Bool
  install : Bool
  /-- FLAGS of FW_INSTALL -/
  flags : Nat
  /-- the slot being written, or the slot whose image takes over; none until the command is carried out -/
  slot : Option Bool
  deriving DecidableEq, Repr

/-- An SPDM session: its identifier, its channel, its handshake finished. -/
structure Session where
  id : Nat
  chan : Nat
  done : Bool
  deriving DecidableEq, Repr

structure Mgt where
  /-- MGT_STATE -/
  phase : Nat
  standby : Bool
  slot : Bool
  lastfail : Nat
  evlost : BitVec 16
  fwver : BitVec 32
  /-- flash image slots; none: as delivered, which the manual does not give -/
  imgA : Option FwImg
  imgB : Option FwImg
  /-- boot record: slots marked invalid, preferred slot -/
  badA : Bool
  badB : Bool
  pref : Bool
  /-- stored configuration (Table 18.4a) -/
  cfgRepair : Option Nat
  cfgDshare : Option Nat
  /-- fuses -/
  svn : Nat
  ecrev : BitVec 4
  lmsrev : BitVec 4
  life : BitVec 2
  nonce : BitVec 64
  /-- DBGREQ.OPEN; the UDS path disabled; alias and session keys held -/
  opened : Nat
  udsOff : Bool
  /-- a token of level 2 was accepted: jobs are ending before Table 18.6 goes on -/
  clearing : Bool
  keysOk : Bool
  staged : Option FwImg
  work : Option MgtWork
  misses : Nat
  /-- flash fault area: records, records written, records reported (R752) -/
  faultMem : Memory
  faultN : Nat
  faultRep : Nat
  /-- MCTP endpoint ID, PLDM event receiver, unsent events (R728) -/
  eid : BitVec 8
  recv : Option Nat
  events : List (Nat × Nat × List Nat)
  /-- SPDM: last step of the negotiation on each channel, sessions, next session number -/
  spdm : Tbl Nat
  sessions : List Session
  nextSess : Nat
  /-- what the boot ROM recorded (R705): signed message of the image, fuse state, stored configuration -/
  bootMsg : List Nat
  bootFuse : List Nat
  bootCfg : List Nat
  /-- PCIe IDE streams keyed: function × 2 + stream -/
  ide : List Nat
  deriving DecidableEq, Repr

def Mgt.reset : Mgt :=
  { phase := 0, standby := false, slot := false, lastfail := 0, evlost := 0, fwver := 0, imgA := none, imgB := none, badA := false, badB := false, pref := false, cfgRepair := none, cfgDshare := none, svn := 0, ecrev := 0,
    lmsrev := 0, life := 2, nonce := 0, opened := 0, udsOff := false, clearing := false, keysOk := false, staged := none, work := none, misses := 0,
    faultMem := [], faultN := 0, faultRep := 0, eid := 0, recv := none, events := [], spdm := [], sessions := [], nextSess := 0, bootMsg := [], bootFuse := [], bootCfg := [],
    ide := [] }

structure Pwr where
  /-- MOD_PG, MOD_RST_N -/
  pg : Bool
  rstN : Bool
  /-- straps sampled on the rise of MOD_PG (R753) -/
  bif0 : Bool
  bif1 : Bool
  smb : Bool
  /-- PWR_STAT.PHASE and STATE -/
  phase : Nat
  state : Nat
  /-- PWR_INPUT -/
  vin : BitVec 16
  pin : BitVec 16
  /-- input current in 10 mA (sensor 0x0002) -/
  iin : BitVec 16
  cap : BitVec 16
  effcap : BitVec 16
  cause : Nat
  level : Nat
  /-- consecutive samples with L 32 and P above C, up to 100 ms; 10,001 once CAPLIMIT was set (R746) -/
  atLimit : Nat
  fault : BitVec 5
  pedoff : BitVec 20
  sense : BitVec 20
  /-- CLK_STAT -/
  lock : Bool
  refok : Bool
  fallback : Bool
  droop : Bool
  withheld : BitVec 64
  droops : BitVec 32
  /-- droop stretches of the last 1,048,576 root edges, newest first: first edge withheld and number (R741) -/
  stretches : List (Nat × Nat)
  /-- THM_STAT, THM_COOLANT -/
  line0 : Nat
  line1 : Nat
  flow : BitVec 16
  inlet : BitVec 16
  outlet : BitVec 16
  /-- consecutive coolant samples: R747 met; flow below 14 and below 10 L/min; inlet above 40 and above 45 °C -/
  okRun : Nat
  flowRun : Nat
  flowRun2 : Nat
  inletRun : Nat
  inletRun2 : Nat
  thmFault : BitVec 6
  /-- hottest junction of each pedestal and temperature of each stack, signed, in 0.1 °C -/
  tj : Tbl (BitVec 16)
  hbm : Tbl (BitVec 16)
  /-- consecutive thermal samples of each at or above 110 °C and 105 °C, and what the last sample says for R744 -/
  tjRun : Tbl Nat
  hbmRun : Tbl Nat
  tjHot : Bool
  hbmHot : Bool
  /-- stages of a shutdown begun: orderly 1 to 4, reset 11 to 14, emergency 21 to 24; 0 none (Tables 19.5, 19.7, R763) -/
  stop : Nat
  /-- index of the record that the emergency shutdown writes to flash -/
  fatal : Option Nat
  /-- an emergency shutdown is latched until MOD_PG falls and rises (R751) -/
  latched : Bool
  vmgt : Bool
  /-- MOD_READY -/
  ready : Bool
  deriving DecidableEq, Repr

def Pwr.reset : Pwr :=
  { pg := false, rstN := true, bif0 := false, bif1 := false, smb := false, phase := 0, state := 0, vin := 0, pin := 0, iin := 0, cap := 7200,
    effcap := 0, cause := 0, level := 0, atLimit := 0, fault := 0, pedoff := 0, sense := 0, lock := false, refok := false,
    fallback := false, droop := false, withheld := 0, droops := 0, stretches := [], line0 := 0, line1 := 0, flow := 0, inlet := 0, outlet := 0,
    okRun := 0, flowRun := 0, flowRun2 := 0, inletRun := 0, inletRun2 := 0, thmFault := 0, tj := [], hbm := [], tjRun := [],
    hbmRun := [], tjHot := false, hbmHot := false, stop := 0, fatal := none, latched := false, vmgt := false, ready := false }

/-! ## What the module sends -/

/-- The model's own log of outputs. -/
inductive Msg where
  /-- an MSI-X message: function, vector -/
  | msix (f : Bool) (vec : Nat)
  /-- the data of a read: 0 and 1 the functions, 2 SMBus; `poisoned`: EP set -/
  | read (who : Nat) (bs : List Byte) (poisoned : Bool)
  /-- a PlatformEventMessage: class (0 state sensor, 1 record), sensor or detector, data -/
  | pldmEvent (cls sensor : Nat) (data : List Nat)
  /-- a link block: port, logical lane, control word, first data bytes (the rest are 0) -/
  | block (port lane ctl : Nat) (data : List Byte)
  /-- a training block: port, the good-lane mask it carries (R614) -/
  | training (port mask : Nat)
  /-- a response on DOE of a function (0, 1) or SMBus (2): protocol (0 MCTP control, 1 PLDM, 5 SPDM), the row's place in the
  table, completion or error code (0: success), items -/
  | mgmt (chan proto cmd code : Nat) (data : List Nat)
  /-- MOD_READY -/
  | ready (high : Bool)
  /-- SMB_ALERT_N (R778) -/
  | smbAlert (high : Bool)
  /-- a line on the debug UART: kind (0 phase log, 1 severity-3 record), value -/
  | uart (kind n : Nat)
  deriving DecidableEq, Repr

/-! ## The block -/

/-- Why a step stops. No command of the table stops: the constructor is kept so that the type is inhabited. -/
inductive Fault where
  /-- no meaning raises it; safe -/
  | none
  deriving DecidableEq, Repr

/-- Why a command has no meaning. -/
inductive Refusal where
  /-- an arm of `exec` that has no meaning yet, by its mnemonic; safe -/
  | notModelled (mnemonic : String)
  deriving DecidableEq, Repr

/-- The whole module. -/
structure State where
  /-- CK_A cycles since power-on: the current cycle -/
  now : Nat
  /-- FT − 16 `now` in sixteenths of a CK_A; none before the root PLL first locks (R636) -/
  ftOff : Option Int
  /-- active cores a cluster: 14, 12 or 10 (R26) -/
  active : Nat
  /-- stepping A0 rather than B0 (R1) -/
  a0 : Bool
  /-- D of R40 -/
  dshare : Nat
  cores : Tbl Core
  clus : Tbl Cluster
  peds : Tbl Ped
  /-- plinth memory and HBM3 by MPA -/
  mpa : Memory
  /-- poison marks by MPA / 64 (R399, R401) -/
  poison : Tbl Bool
  niches : Tbl Niche
  /-- loaded casts, key 64 niche + handle -/
  casts : Tbl (Option Cast)
  jobs : Tbl (Option Job)
  nextJob : Nat
  sigs : List Sig
  /-- running number that orders signals -/
  order : Nat
  hif0 : Hif
  hif1 : Hif
  sqs : Tbl Sq
  cqs : Tbl Cq
  ras : Ras
  /-- armed injections (R671): 1024 × the BAR0 offset of the injection register + TARGET; 1 single-bit, 2 uncorrectable,
  or 1 more than the KIND -/
  arms : Tbl (BitVec 32)
  /-- the armature slot tables, as the slot image of R594; none: the default tables of Table 19.6 phase 9 -/
  slots : Option Memory
  /-- a complete shadow copy that waits for the next frame (R47): the image, and the cycle in which its load completed -/
  slotShadow : Option (Memory × Nat)
  lath : Lath
  mgt : Mgt
  pwr : Pwr
  /-- event counters by EVC offset / 16, and EVC_CTL.FREEZE (chapter 17) -/
  evc : Tbl EvCtr
  evFreeze : Bool
  /-- what hardware set in the present cycle of registers whose collisions Table 00.7 decides, by BAR0 offset (R17): bits set
  of a W1C register, events counted by an RC register or an event counter; bit 63: software wrote the register -/
  fresh : Tbl (BitVec 64)
  /-- draws of free values so far: the model's own -/
  free : Nat
  /-- what was sent: the model's own log of outputs -/
  sent : List Msg
  /-- commands waiting -/
  pending : List Instr
  deriving DecidableEq, Repr

def State.reset : State :=
  { now := 0, ftOff := none, active := 14, a0 := false, dshare := 1024, cores := [], clus := [], peds := [], mpa := [], poison := [], niches := [],
    casts := [], jobs := [], nextJob := 1, sigs := [], order := 0, hif0 := .reset, hif1 := .reset, sqs := [], cqs := [],
    ras := .reset, arms := [], slots := none, slotShadow := none, lath := .reset, mgt := .reset, pwr := .reset, evc := [], evFreeze := false, fresh := [], free := 0, sent := [], pending := [] }

end Sys2Proof.Machine
end

