-- ==== Sys2Proof/Machine/Ops.lean ====
section
/-! DEFINITION. Named operations over the state that the command families share: units by number, the MPA map, memory,
armed injections, free values, error records and events. -/
namespace Sys2Proof.Machine
open Sys2Proof

/-! ## Units -/

def coreKey (k : CoreId) : Nat := (k.p.val * 8 + k.c.val) * 16 + k.q.val
def clusKey (k : ClusId) : Nat := k.p.val * 8 + k.c.val
/-- Cluster and pedestal of a core key. -/
def clusOfCore (key : Nat) : Nat := key / 16
def pedOfCore (key : Nat) : Nat := key / 128
def pedOfClus (key : Nat) : Nat := key / 8

def State.core (s : State) (key : Nat) : Core := Tbl.get Core.reset s.cores key
def State.setCore (s : State) (key : Nat) (c : Core) : State := { s with cores := Tbl.set Core.reset key c s.cores }
def State.updCore (s : State) (key : Nat) (f : Core → Core) : State := s.setCore key (f (s.core key))
def State.clu (s : State) (key : Nat) : Cluster := Tbl.get Cluster.reset s.clus key
def State.setClu (s : State) (key : Nat) (c : Cluster) : State := { s with clus := Tbl.set Cluster.reset key c s.clus }
def State.updClu (s : State) (key : Nat) (f : Cluster → Cluster) : State := s.setClu key (f (s.clu key))
def State.ped (s : State) (p : Nat) : Ped := Tbl.get Ped.reset s.peds p
def State.setPed (s : State) (p : Nat) (c : Ped) : State := { s with peds := Tbl.set Ped.reset p c s.peds }
def State.updPed (s : State) (p : Nat) (f : Ped → Ped) : State := s.setPed p (f (s.ped p))
def State.niche (s : State) (n : Nat) : Niche := Tbl.get Niche.reset s.niches n
def State.setNiche (s : State) (n : Nat) (v : Niche) : State := { s with niches := Tbl.set Niche.reset n v s.niches }
def State.job (s : State) (j : Nat) : Option Job := Tbl.get none s.jobs j
def State.setJob (s : State) (j : Nat) (v : Option Job) : State := { s with jobs := Tbl.set none j v s.jobs }
def State.updJob (s : State) (j : Nat) (f : Job → Job) : State :=
  match s.job j with
  | none => s
  | some v => s.setJob j (some (f v))
def State.sq (s : State) (q : Nat) : Sq := Tbl.get Sq.reset s.sqs q
def State.setSq (s : State) (q : Nat) (v : Sq) : State := { s with sqs := Tbl.set Sq.reset q v s.sqs }
def State.updSq (s : State) (q : Nat) (f : Sq → Sq) : State := s.setSq q (f (s.sq q))
def State.cq (s : State) (q : Nat) : Cq := Tbl.get Cq.reset s.cqs q
def State.setCq (s : State) (q : Nat) (v : Cq) : State := { s with cqs := Tbl.set Cq.reset q v s.cqs }
def State.updCq (s : State) (q : Nat) (f : Cq → Cq) : State := s.setCq q (f (s.cq q))
def State.hif (s : State) (f : Bool) : Hif := if f then s.hif1 else s.hif0
def State.setHif (s : State) (f : Bool) (h : Hif) : State := if f then { s with hif1 := h } else { s with hif0 := h }
def State.updHif (s : State) (f : Bool) (g : Hif → Hif) : State := s.setHif f (g (s.hif f))
def State.send (s : State) (m : Msg) : State := { s with sent := s.sent ++ [m] }

/-- The cluster mask of a niche. -/
def Niche.has (n : Niche) (clus : Nat) : Bool := n.clus.getLsbD clus

/-- Does a niche own a sync counter (R228, Table 14.8)? -/
def Niche.ownsCtr (n : Niche) (id : Nat) : Bool :=
  let w := (Tbl.get 0 n.ctrs (id / 1024 % 32)).toNat
  let i := id % 1024
  decide (bits w 9 0 ≤ i) && decide (i < bits w 9 0 + bits w 26 16)

/-- The niche that owns a counter. -/
def State.ctrNiche (s : State) (id : Nat) : Option Nat :=
  (s.niches.find? (fun kv => kv.2.ownsCtr id)).map (·.1)

/-- The niche that holds a cluster (R50). -/
def State.clusNiche (s : State) (clus : Nat) : Option Nat :=
  (s.niches.find? (fun kv => kv.2.has clus)).map (·.1)

/-- The physical core that serves logical core `i` of a cluster, if one is in service (R391). -/
def State.physOf (s : State) (clus i : Nat) : Option Nat :=
  if i < s.active then
    ((rangeFrom (clus * 16) 16).find? (fun key => let c := s.core key; c.insvc && c.lcore == i))
  else none

/-- The job of a core. -/
def State.coreJob (s : State) (key : Nat) : Option Job := (s.core key).job.bind s.job

/-- Block numbers of a pedestal's health (Table 17.4): physical cores 0 to 127, then these. -/
def hClus (c : Nat) : Nat := 128 + c
def hPix (e : Nat) : Nat := 136 + e
def hEnt (e : Nat) : Nat := 138 + e
def hSkim : Nat := 140
def hPlinth : Nat := 141
def hHbm : Nat := 142
def hLath : Nat := 143
def hPcie : Nat := 144
def hSwitch : Nat := 145
def hSync : Nat := 146

/-- Is a block of a pedestal unusable? -/
def State.bad (s : State) (p b : Nat) : Bool := Tbl.get 0 (s.ped p).health b != 0

/-- Is a block that depends on the pedestal's plinth memory out of service: a media engine, Skim, the sync counters (Table
17.4)? -/
def State.badWithPlinth (s : State) (p b : Nat) : Bool := s.bad p b || s.bad p hPlinth

/-- Physical cores of a cluster that no fuse disables, ascending; a grade below FK-40-T keeps no more than its active count
(R27, R28). -/
def State.enabled (s : State) (c : Nat) : List Nat :=
  let ks := (rangeFrom (c * 16) 16).filter (fun key => !(s.clu c).fused.getLsbD (key % 16))
  if s.active = 14 then ks else ks.take s.active

/-- Enabled physical cores of a cluster that are usable, ascending. -/
def State.healthy (s : State) (c : Nat) : List Nat := (s.enabled c).filter (fun key => !s.bad (c / 8) (key % 128))

/-- Is the cluster usable: itself, its pedestal's plinth memory, and cores for every logical core (R686, Table 17.4)? -/
def State.clusUsable (s : State) (c : Nat) : Bool :=
  !s.bad (c / 8) (hClus (c % 8)) && !s.bad (c / 8) hPlinth && decide (s.active ≤ (s.healthy c).length)

/-! ## BAR0 addresses (Table 06.9, R263) -/

def pedBase (p : Nat) : Nat := 0x04000000 + p * 0x400000
def corePage (key : Nat) : Nat := pedBase (key / 128) + (key % 128) * 0x1000
def clusPage (key : Nat) : Nat := pedBase (key / 8) + 0x80000 + (key % 8) * 0x1000
def plnBlock (p : Nat) : Nat := pedBase p + 0x240000
def amtBlock (p : Nat) : Nat := pedBase p + 0x280000
def sycBlock (p : Nat) : Nat := pedBase p + 0x2C0000
def bstBlock (p : Nat) : Nat := pedBase p + 0x340000
def xltBlock (p : Nat) : Nat := pedBase p + 0x380000

/-! ## Completion codes (Table 00.8) -/

def cDone : Nat := 0x00
def cBadDescriptor : Nat := 0x01
def cLengthInvalid : Nat := 0x02
def cOutOfBounds : Nat := 0x03
def cTranslationMiss : Nat := 0x04
def cPermission : Nat := 0x05
def cUncorrectable : Nat := 0x06
def cPoisonedInput : Nat := 0x07
def cTimeout : Nat := 0x08
def cCancelled : Nat := 0x09
def cOutputFull : Nat := 0x0A
def cPreempted : Nat := 0x0B
def cResetAbort : Nat := 0x0C
def cFormatError : Nat := 0x0D
def cBusy : Nat := 0x0E
def cAuthFailed : Nat := 0x0F
def cUnsupported : Nat := 0x10
def cOrderHeld : Nat := 0x11
def cFaultPending : Nat := 0x12

/-! ## Collisions with register accesses (R17) -/

/-- Key of a register of function `f`'s own at a BAR0 offset. -/
def fnReg (f : Bool) (off : Nat) : Nat := off + if f then 2 ^ 32 else 0

/-- Hardware sets bits of the W1C register at `off` in the present cycle. -/
def State.mark (off v : Nat) (s : State) : State := { s with fresh := Tbl.upd 0 off (· ||| BitVec.ofNat 64 v) s.fresh }

/-- Hardware counts an event in the RC register at `off` in the present cycle. -/
def State.markRc (off : Nat) (s : State) : State := { s with fresh := Tbl.upd 0 off (· + 1) s.fresh }

/-- What hardware did to a register in the present cycle, before any access. -/
def State.freshAt (s : State) (off : Nat) : BitVec 64 := Tbl.get 0 s.fresh off

/-- An access ends what came before it: a later one is of a later cycle, since a port makes one access a cycle. -/
def State.unmark (off : Nat) (s : State) : State := { s with fresh := Tbl.set 0 off 0 s.fresh }

/-- A W1C register after a write of `w`: a bit that hardware set in the same cycle remains set (Table 00.7). -/
def State.w1c {n : Nat} (s : State) (off : Nat) (old : BitVec n) (w : BitVec 32) : BitVec n :=
  old &&& ~~~(w.setWidth n &&& ~~~((s.freshAt off).setWidth n))

/-- Software writes `w` to the W1C register at `off` that holds `old`; `put` stores what is left of it. -/
def State.ackW1c {n : Nat} (off : Nat) (old : BitVec n) (w : BitVec 32) (put : BitVec n → State → State) (s : State) : State :=
  (put (s.w1c off old w) s).unmark off

/-- Software wrote the register in the present cycle: its value stands against hardware (Table 00.7, R696). -/
def State.written (s : State) (off : Nat) : Bool := (s.freshAt off).getLsbD 63
def State.markWritten (off : Nat) (s : State) : State := s.mark off (2 ^ 63)

/-! ## Event counters (R694 to R696) -/

/-- BAR0 offset of the event counters; a clear of the counter at EVC offset `o` is recorded there, one of all at EVC_CTL. -/
def evcBase : Nat := 0x02000000
def evcCtl : Nat := 0x02F00000

/-- EVC offsets of the counters of a core, a cluster, a pedestal and a Lath port (Table 17.9). -/
def evCore (key : Nat) : Nat := key / 128 * 0x80000 + key % 128 * 0x100
def evClus (key : Nat) : Nat := key / 8 * 0x80000 + 0x8000 + key % 8 * 0x100
def evPed (p : Nat) : Nat := p * 0x80000 + 0xC000
def evLth (n : Nat) : Nat := 0xA00000 + n * 0x200

/-- `n` events of source `src` reach the `k` counters of the level at `base` (R694), unless FREEZE holds them or a clear of
the same cycle names them (R696). -/
def State.ev (base k src n : Nat) (s : State) : State :=
  if s.evFreeze ∨ n = 0 ∨ s.evc.isEmpty ∨ s.written evcCtl then s
  else { s with evc := Tbl.map EvCtr.reset (fun key c =>
    if base / 16 ≤ key ∧ key < base / 16 + k ∧ c.src.toNat = src ∧ ¬ s.written (evcBase + 16 * key) then
      { c with cnt := c.cnt + BitVec.ofNat 64 n } else c) s.evc }

def State.evC (key src n : Nat) (s : State) : State := s.ev (evCore key) 8 src n
def State.evK (key src n : Nat) (s : State) : State := s.ev (evClus key) 16 src n
def State.evP (p src n : Nat) (s : State) : State := s.ev (evPed p) 64 src n
def State.evL (port src n : Nat) (s : State) : State := s.ev (evLth port) 32 src n

/-- Cycles of `[a, b)` before `lim`. -/
def busyIn (a b lim : Nat) : Nat := min b lim - a

/-- What is counted per cycle is counted for the cycles of `[a, t)` (core sources 0x01, 0x03 to 0x06, cluster sources 0x04 and
0x05). -/
def State.countCycles (a t : Nat) (s : State) : State :=
  let s := (rangeFrom 0 2560).foldl (fun s k => s.evC k 0x01 (t - a)) s
  let s := s.cores.foldl (fun s kv =>
    let c := kv.2
    let k := kv.1
    let s := if c.st = .wait then s.evC k 0x03 (t - a) else s
    let s := if c.st = .hold then s.evC k 0x04 (t - a) else s
    (s.evC k 0x05 (busyIn a t c.tensorFree)).evC k 0x06 (busyIn a t c.sfuFree)) s
  s.clus.foldl (fun s kv =>
    let s := match kv.2.relRun with
      | some r => s.evK kv.1 0x04 (busyIn a t (r.endAt + 1))
      | none => s
    s.evK kv.1 0x05 (busyIn a t kv.2.dmaFree)) s

/-- Time goes on to cycle `t`: the cycle that ends is counted under its own clears (R696), then those after it. -/
def State.tick (t : Nat) (s : State) : State :=
  let count := fun (a b : Nat) (s : State) => if s.evFreeze ∨ s.evc.isEmpty then s else s.countCycles a b
  let a := s.now
  let s := count a (min t (a + 1)) s
  let s := if t = a then s else count (a + 1) t { s with fresh := [] }
  { s with now := t }

/-! ## Injections and free values -/

/-- What is armed at an injection register for a TARGET; 0: nothing (R671). -/
def State.arm (s : State) (off tgt : Nat) : Nat := (Tbl.get 0 s.arms (off * 1024 + tgt)).toNat
def State.setArm (s : State) (off tgt v : Nat) : State :=
  { s with arms := Tbl.set 0 (off * 1024 + tgt) (BitVec.ofNat 32 v) s.arms }
def State.disarm (s : State) (off tgt : Nat) : State := s.setArm off tgt 0

/-- Draw a free value: one that nothing in the manual fixes. -/
def State.drawFree (s : State) : BitVec 64 × State := (Config.freeValue s.free, { s with free := s.free + 1 })

/-! ## The MPA map (Tables 10.1 to 10.3) -/

/-- Where a byte of the MPA space lies. -/
inductive Loc where
  | hbm (stack : Nat)
  | plinth (p off : Nat)
  | cstore (key off : Nat)
  | clstore (clus off : Nat)
  | save (clus : Nat)
  | istore (key off : Nat)
  | sfuwin (key off : Nat)
  | unassigned
  deriving DecidableEq, Repr

def plinthBase (p : Nat) : Nat := 0x10000000000 + p * 0x100000000
def dieBase (clus : Nat) : Nat := 0x20000000000 + (clus / 8) * 0x40000000 + (clus % 8) * 0x8000000

/-- A core-side window assigned only while its logical core is in service (R391). -/
def State.viaCore (s : State) (clus i : Nat) (mk : Nat → Loc) : Loc :=
  match s.physOf clus i with
  | some key => mk key
  | none => .unassigned

/-- Table 10.3: assigned offsets of the SFU load window. -/
def sfuWinOk (o : Nat) : Bool := decide (o < 0x8080) || (decide (0x10000 ≤ o) && decide (o < 0x20000))

/-- One byte of a cluster window (Table 10.2). -/
def State.locClus (s : State) (clus o : Nat) : Loc :=
  if o < 0x4000000 then
    if o % 0x400000 < 0x200000 then s.viaCore clus (o / 0x400000) (fun key => .cstore key (o % 0x400000)) else .unassigned
  else if o < 0x4680000 then .clstore clus (o - 0x4000000)
  else if o < 0x4800000 then .save clus
  else if 0x5000000 ≤ o ∧ o < 0x5000000 + 16 * 0x20000 then
    s.viaCore clus ((o - 0x5000000) / 0x20000) (fun key => .istore key ((o - 0x5000000) % 0x20000))
  else if 0x6000000 ≤ o ∧ o < 0x6000000 + 16 * 0x40000 then
    if sfuWinOk ((o - 0x6000000) % 0x40000) then
      s.viaCore clus ((o - 0x6000000) / 0x40000) (fun key => .sfuwin key ((o - 0x6000000) % 0x40000))
    else .unassigned
  else .unassigned

/-- Where an MPA lies (R390). -/
def State.loc (s : State) (a : Nat) : Loc :=
  if a < 0x4800000000 then
    if s.bad (a / 0x600000000) hHbm then .unassigned else .hbm (a / 0x600000000)
  else if 0x10000000000 ≤ a ∧ a < 0x11400000000 then
    if (a - 0x10000000000) % 0x100000000 < 0xA0000000 ∧ ¬ s.bad ((a - 0x10000000000) / 0x100000000) hPlinth then
      .plinth ((a - 0x10000000000) / 0x100000000) ((a - 0x10000000000) % 0x100000000)
    else .unassigned
  else if 0x20000000000 ≤ a ∧ a < 0x20500000000 then
    s.locClus ((a - 0x20000000000) / 0x8000000) ((a - 0x20000000000) % 0x8000000)
  else .unassigned

/-- The unit whose byte it is: runs of bytes within one unit move together. -/
def Loc.carriesPoison : Loc → Bool
  | .hbm _ => true
  | .plinth _ _ => true
  | _ => false

/-- Read one byte of the MPA space; write-only and unassigned bytes read as 0. -/
def State.mpaByte (s : State) (a : Nat) : Byte :=
  match s.loc a with
  | .hbm _ => s.mpa.byte a
  | .plinth _ _ => s.mpa.byte a
  | .cstore key o => (s.core key).cstore.byte o
  | .clstore c o => (s.clu c).store.byte o
  | _ => 0

def State.mpaBytes (s : State) (a n : Nat) : List Byte := (rangeFrom a n).map s.mpaByte

/-- Write one byte to a shadow-bank word given as 32-bit or 64-bit entry. -/
def setByteOf {w : Nat} (v : BitVec w) (i : Nat) (b : Byte) : BitVec w :=
  BitVec.ofNat w (v.toNat - (v.toNat / 256 ^ i % 256) * 256 ^ i + b.toNat * 256 ^ i)

/-- Write one byte of the SFU load window into a bank (Table 10.3). -/
def SfuBank.setByte (b : SfuBank) (o : Nat) (v : Byte) : SfuBank :=
  if o < 0x8000 then { b with steps := Tbl.upd 0 (o / 8) (fun w => setByteOf w (o % 8) v) b.steps }
  else if o < 0x8080 then { b with entries := Tbl.upd 0 ((o - 0x8000) / 4) (fun w => setByteOf w (o % 4) v) b.entries }
  else { b with table := Tbl.upd 0 ((o - 0x10000) / 4) (fun w => setByteOf w (o % 4) v) b.table }

/-- Write a byte of the SFU window into the chosen bank. -/
def Core.sfuByte (c : Core) (bank : Bool) (o : Nat) (v : Byte) : Core :=
  if bank then { c with bank1 := c.bank1.setByte o v } else { c with bank0 := c.bank0.setByte o v }

/-- A record of the relief command area whose GO word becomes 1 is queued (R343, R345). -/
def Cluster.goScan (old : Cluster) (rec : Nat) (c : Cluster) : Cluster :=
  let a := 0x67F000 + 64 * rec + 0x3C
  if c.store.le a 4 = 1 ∧ ¬ (old.relQ.contains rec) ∧ (old.relRun.map (·.idx)) ≠ some rec then
    { c with relQ := c.relQ ++ [rec] }
  else c

/-- The relief records whose GO word a run of bytes touches, in ascending index (R346). -/
def goRecords (off n : Nat) : List Nat :=
  (rangeFrom 0 64).filter (fun r =>
    let a := 0x67F000 + 64 * r + 0x3C
    decide (off < a + 4) && decide (a < off + n))

/-- Land bytes in a cluster store; GO words written 1 queue their relief commands. -/
def Cluster.write (off : Nat) (bs : List Byte) (c : Cluster) : Cluster :=
  let c' := { c with store := Memory.write off bs c.store }
  (goRecords off bs.length).foldl (fun d r => Cluster.goScan c r d) c'

/-- Land bytes in an instruction store; bundles written become supplied (DEDUCED from R218). -/
def Core.istoreWrite (off : Nat) (bs : List Byte) (c : Core) : Core :=
  { c with istore := Memory.write off bs c.istore,
           supplied := (rangeFrom (off / 32) ((bs.length + 31) / 32)).foldl (fun t b => Tbl.set false b true t) c.supplied }

/-- Land bytes in a cluster store; a command queued there while the engine is idle starts no earlier than the next cycle
(R346). -/
def State.cluWrite (s : State) (clus off : Nat) (bs : List Byte) : State :=
  let s := s.evK clus 0x02 1
  let c := s.clu clus
  let d := Cluster.write off bs c
  s.setClu clus (if c.relQ.isEmpty ∧ c.relRun.isNone ∧ !d.relQ.isEmpty then { d with relReady := max d.relReady (s.now + 1) }
    else d)

/-- Write one byte of the MPA space; `bank` tells, per core, whether a load-window byte goes to bank 1. -/
def State.mpaSetByte (bank : Nat → Bool) (s : State) (a : Nat) (b : Byte) : State :=
  match s.loc a with
  | .hbm _ => { s with mpa := s.mpa.setByte a b }
  | .plinth _ _ => { s with mpa := s.mpa.setByte a b }
  | .cstore key o => s.updCore key (fun c => { c with cstore := c.cstore.setByte o b })
  | .clstore c o => s.cluWrite c o [b]
  | .istore key o => s.updCore key (Core.istoreWrite o [b])
  | .sfuwin key o => s.updCore key (fun c => c.sfuByte (bank key) o b)
  | _ => s

/-- Write bytes at rising MPAs. -/
def State.mpaWrite (bank : Nat → Bool) (a : Nat) : List Byte → State → State
  | [], s => s
  | b :: bs, s => State.mpaWrite bank (a + 1) bs (State.mpaSetByte bank s a b)

/-- Bytes written in one cycle to a cluster store land before GO words are examined, so a run within one cluster store
goes through `Cluster.write` whole. -/
def State.mpaWriteRun (bank : Nat → Bool) (a : Nat) (bs : List Byte) (s : State) : State :=
  match s.loc a, s.loc (a + bs.length - 1) with
  | .clstore c o, .clstore _ _ => s.cluWrite c o bs
  | .cstore key o, .cstore _ _ => s.updCore key (fun c => { c with cstore := Memory.write o bs c.cstore })
  | .istore key o, .istore _ _ => s.updCore key (Core.istoreWrite o bs)
  | _, _ => State.mpaWrite bank a bs s

/-! ## Poison marks (R399, R401) -/

def State.poisoned (s : State) (a : Nat) : Bool := Tbl.get false s.poison (a / 64)

def State.setPoison (s : State) (seg : Nat) (v : Bool) : State := { s with poison := Tbl.set false seg v s.poison }

/-- The 64-byte segments a run of bytes touches. -/
def segments (a n : Nat) : List Nat := if n = 0 then [] else rangeFrom (a / 64) ((a + n - 1) / 64 + 1 - a / 64)

/-- Does a run cover a segment whole? -/
def coversSeg (a n seg : Nat) : Bool := decide (a ≤ 64 * seg) && decide (64 * seg + 64 ≤ a + n)

/-- Is any segment of a run of plinth memory or HBM3 poisoned? -/
def State.anyPoison (s : State) (a n : Nat) : Bool :=
  (segments a n).any (fun g => (s.loc (64 * g)).carriesPoison && s.poisoned (64 * g))

/-- Clean data clears the mark of a segment it covers whole (R399). -/
def State.clearPoison (a n : Nat) (s : State) : State :=
  (segments a n).foldl (fun s g => if coversSeg a n g then s.setPoison g false else s) s

/-- Mark the segments of a run that carry marks. -/
def State.markPoison (a n : Nat) (s : State) : State :=
  (segments a n).foldl (fun s g => if (s.loc (64 * g)).carriesPoison then s.setPoison g true else s) s

/-- HBM3 write segments are counted on their pedestal (source 0x0D). -/
def State.evHbmWrite (a n : Nat) (s : State) : State :=
  match s.loc a with
  | .hbm k => s.evP k 0x0D (segments a n).length
  | _ => s

/-- A clean write of bytes to the MPA space. -/
def State.mpaStore (a : Nat) (bs : List Byte) (s : State) : State :=
  State.clearPoison a bs.length ((s.evHbmWrite a bs.length).mpaWriteRun (fun k => !(s.core k).active) a bs)

/-! ## MSI-X and the event ring (R580, R585 to R587) -/

/-- May a function send messages now? In D3hot interrupts stay pending (Table 14.1). -/
def Hif.canSend (h : Hif) (vec : Nat) : Bool :=
  h.linkUp && !h.d3 && h.bme && h.msixEn && !h.msixMaskAll && Tbl.get false h.unmasked vec

/-- Send a vector, or leave it pending. -/
def State.msix (f : Bool) (vec : Nat) (s : State) : State :=
  let h := s.hif f
  if h.canSend vec then s.send (.msix f vec)
  else s.setHif f { h with pba := Tbl.set false vec true h.pba }

/-- Messages that became sendable leave, one per vector (R580). -/
def State.flushMsix (f : Bool) (s : State) : State :=
  (s.hif f).pba.foldl (fun s kv =>
    if kv.2 && (s.hif f).canSend kv.1 then
      (s.updHif f (fun h => { h with pba := Tbl.set false kv.1 false h.pba })).send (.msix f kv.1)
    else s) s

def evSize (h : Hif) : Nat := bits h.evcfg.toNat 3 0

/-- Room in the event ring (R587). -/
def Hif.evRoom (h : Hif) : Bool :=
  evSize h ≠ 0 && h.linkUp && decide ((h.evtail - h.evhead).toNat < 2 ^ evSize h - 1)

/-- Write one event entry (R585). -/
def State.writeEvent (f : Bool) (type info0 info1 : Nat) (s : State) : State :=
  let h := s.hif f
  let idx := h.evtail.toNat % 2 ^ evSize h
  let bs := [BitVec.ofNat 8 type, if h.evphase then 1 else 0, 0, 0] ++ leBytes info0 4 ++ leBytes info1 8
  let s := s.setHif f { h with
    mem := Memory.write (h.evbase.toNat + 16 * idx) bs h.mem, evtail := h.evtail + 1,
    evphase := if idx + 1 = 2 ^ evSize h then !h.evphase else h.evphase }
  if bitAt h.evcfg.toNat 31 then s.msix f (bits h.evcfg.toNat 26 16) else s

/-- BAR0 offset of HIF_EVLOST. -/
def evlostOff : Nat := 0x34

/-- Post an event, or count it as lost (R587). -/
def State.postEvent (f : Bool) (type info0 info1 : Nat) (s : State) : State :=
  let h := s.hif f
  if h.evRoom then s.writeEvent f type info0 info1
  else if h.evlost = 0xFFFFFFFF then s
  else (s.setHif f { h with evlost := h.evlost + 1 }).markRc (fnReg f evlostOff)

/-- TAKEN is held until it can be posted (Table 14.6, R587). -/
def State.postTaken (f : Bool) (mask : BitVec 32) (s : State) : State :=
  let h := s.hif f
  let m := match h.taken with | none => mask | some m => m ||| mask
  if h.evRoom then (s.setHif f { h with taken := none }).writeEvent f 0x04 m.toNat 0
  else s.setHif f { h with taken := some m }

/-! ## Error records (R650 to R653) -/

/-- FT in sixteenths of a CK_A, as LTH_FT reads (R636). -/
def State.ft (s : State) : Nat :=
  match s.ftOff with
  | none => 0
  | some o => (16 * (s.now : Int) + o).toNat

def Rec.base (det sev code : Nat) (ped niche : Option Nat) : Rec :=
  ⟨det, sev, code, ped, 0, 0, 0, 0, 0, 0, niche, none⟩

def optByte (o : Option Nat) : Nat := match o with | none => 0 | some v => 0x80 + v % 32

/-- The 64 bytes of a record. -/
def Rec.bytes (r : Rec) (index time count synd : Nat) : List Byte :=
  leBytes index 4 ++ leBytes r.det 1 ++ leBytes r.sev 1 ++ leBytes (if r.sev = 1 then r.code else 0) 1 ++
  leBytes (optByte r.ped) 1 ++ leBytes time 8 ++ leBytes (r.addr % 2 ^ 48 + r.aspace * 2 ^ 48) 8 ++
  leBytes r.source 2 ++ leBytes r.flow 2 ++ leBytes r.seq 4 ++ leBytes r.unit 1 ++ leBytes (optByte r.niche) 1 ++
  leBytes (min count 0xFFFF) 2 ++ leBytes synd 4 ++ List.replicate 24 0

/-- The functions that receive the ERROR event of a record (R653). -/
def State.errorTo (s : State) (r : Rec) : List Bool :=
  if r.sev = 0 then []
  else if r.sev ≤ 2 then
    match r.niche.bind (fun n => (s.niche n).owner) with
    | some f => [f]
    | none => [false, true]
  else [false, true]

/-- SMB_ALERT_N is low while an event is unsent and a receiver is set (R778). -/
def State.smbAlertN (s : State) : Bool := s.mgt.events.isEmpty || s.mgt.recv.isNone

/-- With a receiver set, SMB_ALERT_N falls, the held events are sent, oldest first, and it rises (R728, R778). -/
def State.sendEvents (s : State) : State :=
  if s.smbAlertN then s
  else
    let s := s.mgt.events.foldl (fun s e => s.send (.pldmEvent e.1 e.2.1 e.2.2)) (s.send (.smbAlert false))
    State.send { s with mgt := { s.mgt with events := [] } } (.smbAlert true)

/-- R728. An event is held, of more than 32 the oldest is dropped, and it is sent once a receiver is set. -/
def State.pldmEvent (cls sensor : Nat) (data : List Nat) (s : State) : State :=
  let ev := s.mgt.events ++ [(cls, sensor, data)]
  State.sendEvents (if ev.length ≤ 32 then { s with mgt := { s.mgt with events := ev } }
    else { s with mgt := { s.mgt with events := ev.drop 1,
                                      evlost := if s.mgt.evlost = 0xFFFF then 0xFFFF else s.mgt.evlost + 1 } })

/-- Write a record to the ring and report it (R650, R651, R653, R728). -/
def State.record (r : Rec) (count : Nat) (s : State) : State :=
  let idx := s.ras.logtail.toNat
  let (synd, s) := match r.synd with
    | some v => (v, s)
    | none => let (v, s) := s.drawFree; (v.toNat % 2 ^ 32, s)
  let bs := r.bytes idx s.ft count synd
  let s := { s with ras := { s.ras with ring := Memory.write (idx % 1024 * 64) bs s.ras.ring,
                                        logtail := s.ras.logtail + 1 } }
  let s := (s.errorTo r).foldl (fun s f => s.postEvent f 0x05 idx 0) s
  let s := if r.sev = 3 then s.send (.uart 1 idx) else s
  if r.sev = 0 then s else s.pldmEvent 1 r.det [idx, r.det, r.sev]

def satInc (v : BitVec 32) : BitVec 32 := if v = 0xFFFFFFFF then v else v + 1

/-- An uncorrectable error: count and record (R650). -/
def State.errUE (r : Rec) (s : State) : State :=
  ({ s with ras := { s.ras with uecnt := Tbl.upd 0 r.det satInc s.ras.uecnt } }).record r 1

/-- The aligned second of fabric time (R652). -/
def State.ftSecond (s : State) : Nat := s.ft / 16 / 3600000000

/-- A corrected error: count, and a record unless the second's allowance is spent (R645, R652). -/
def State.errCE (r : Rec) (s : State) : State :=
  let s : State := match r.ped with
    | some p => s.evP p 0x0B 1
    | none => s
  let cecnt := Tbl.upd 0 r.det satInc s.ras.cecnt
  let ras : Ras := { s.ras with cecnt := cecnt }
  let ras := if ras.second = s.ftSecond then ras else { ras with second := s.ftSecond, ceWritten := [] }
  let w := Tbl.get 0 ras.ceWritten r.det
  if w < bits ras.logcfg.toNat 7 0 then
    let n := Tbl.get 0 ras.ceHidden r.det
    ({ s with ras := { ras with ceWritten := Tbl.set 0 r.det (w + 1) ras.ceWritten,
                                ceHidden := Tbl.set 0 r.det 0 ras.ceHidden } }).record r (n + 1)
  else { s with ras := { ras with ceHidden := Tbl.upd 0 r.det (· + 1) ras.ceHidden } }

end Sys2Proof.Machine
end

