-- ==== Sys2Proof/Machine/Flags.lean ====
section
/-! DEFINITION. The sticky arithmetic flags of a core (R85 to R93) and the compares that write predicates. -/
namespace Sys2Proof.Machine
open Sys2Proof

/-- Flags set by an operation combine by OR (R87, R90). -/
def Core.setFlags (f : AFlags) (c : Core) : Core := { c with aflags := c.aflags ||| f }

/-- Flags cleared by FCLR or by a write of 1 to CSQ_AFLAGS (R87, R312). -/
def Core.clearFlags (mask : AFlags) (c : Core) : Core := { c with aflags := c.aflags &&& ~~~mask }

/-- All flags of a list of lane results. -/
def orFlags {α : Type} (rs : List (α × AFlags)) : AFlags := rs.foldl (fun f r => f ||| r.2) Flag.none

/-- SCMP (Table 07.8a); none for a reserved code. -/
def scalarCmp (cc : Nat) (a b : BitVec 64) : Option Bool :=
  match cc with
  | 0 => some (a == b)
  | 1 => some (a != b)
  | 2 => some (a.slt b)
  | 3 => some (a.sle b)
  | 4 => some (a.ult b)
  | 5 => some (a.ule b)
  | _ => none

/-- FA32 compare of two lanes (R301): a NaN operand gives 0 and INV. -/
def floatCmp (op : Dy → Dy → Bool) (a b : Nat) : Bool × AFlags :=
  match readFloat .fa32 a, readFloat .fa32 b with
  | .num x, .num y => (op x y, Flag.none)
  | _, _ => (false, Flag.inv)

/-- VCMP of one lane (Table 07.8a). -/
def laneCmp (cc : Nat) (a b : BitVec 32) : Bool × AFlags :=
  match cc with
  | 0 => floatCmp Dy.eq a.toNat b.toNat
  | 1 => floatCmp (fun x y => !Dy.eq x y) a.toNat b.toNat
  | 2 => floatCmp Dy.lt a.toNat b.toNat
  | 3 => floatCmp Dy.le a.toNat b.toNat
  | 4 => (a == b, Flag.none)
  | 5 => (a != b, Flag.none)
  | 6 => (a.slt b, Flag.none)
  | _ => (a.sle b, Flag.none)

end Sys2Proof.Machine
end

