-- ==== Sys2Proof/Machine/Transc.lean ====
section
/-! DEFINITION. The native functions of Table 05.1 as exact values: enclosures by fixed-point series with growing
precision, then the rounding of R174 or the neighbour choice of R175. -/
namespace Sys2Proof

namespace Fx

/-! Fixed point: an integer `v` at precision `w` stands for `v / 2^w`. -/

def one (w : Nat) : Int := 2 ^ w
def mul (w : Nat) (a b : Int) : Int := Int.fdiv (a * b) (2 ^ w)
def div (w : Nat) (a b : Int) : Int := Int.fdiv (a * 2 ^ w) b

/-- The exact value as fixed point, rounded down. -/
def ofDy (w : Nat) (d : Dy) : Int :=
  let sh := d.e + w
  if sh ≥ 0 then d.m * 2 ^ sh.toNat else Int.fdiv d.m (2 ^ (-sh).toNat)

/-- Σ z^(2i+1) / (2i+1) with sign `s` per step (1: atanh, −1: atan), `p` the running power. -/
def atanSeries (w : Nat) (s : Int) (z2 : Int) : Nat → Nat → Int → Int → Int
  | 0, _, _, acc => acc
  | fuel + 1, i, p, acc =>
    if p = 0 then acc
    else atanSeries w s z2 fuel (i + 1) (s * mul w p z2) (acc + Int.fdiv p (2 * (i : Int) + 1))

def atanInv (w n : Nat) : Int :=
  let z := Int.fdiv (one w) n
  atanSeries w (-1) (mul w z z) w 0 z 0

/-- π by Machin's formula. -/
def pi (w : Nat) : Int :=
  let w' := w + 32
  Int.fdiv (16 * atanInv w' 5 - 4 * atanInv w' 239) (2 ^ 32)

/-- ln 2 = 2 atanh (1/3). -/
def ln2 (w : Nat) : Int :=
  let w' := w + 32
  let z := Int.fdiv (one w') 3
  Int.fdiv (2 * atanSeries w' 1 (mul w' z z) w' 0 z 0) (2 ^ 32)

/-- Taylor sum of terms t, t·r/n, … -/
def expSeries (w : Nat) (r : Int) : Nat → Nat → Int → Int → Int
  | 0, _, _, acc => acc
  | fuel + 1, n, t, acc =>
    if t = 0 then acc else expSeries w r fuel (n + 1) (Int.fdiv (mul w t r) n) (acc + t)

/-- e^r for a fixed-point r of small magnitude. -/
def exp (w : Nat) (r : Int) : Int := expSeries w r (w + 16) 1 (one w) 0

/-- ln y for y in [1, 2]. -/
def ln (w : Nat) (y : Int) : Int :=
  let z := div w (y - one w) (y + one w)
  2 * atanSeries w 1 (mul w z z) w 0 z 0

/-- Alternating Taylor sums of sine (k = 1, t = r) and cosine (k = 0, t = 1). -/
def trigSeries (w : Nat) (r2 : Int) : Nat → Nat → Int → Int → Int
  | 0, _, _, acc => acc
  | fuel + 1, k, t, acc =>
    if t = 0 ∨ t = -1 then acc
    else trigSeries w r2 fuel (k + 2) (-(Int.fdiv (mul w t r2) ((k + 1) * (k + 2)))) (acc + t)

def sin (w : Nat) (r : Int) : Int := trigSeries w (mul w r r) w 1 r 0
def cos (w : Nat) (r : Int) : Int := trigSeries w (mul w r r) w 0 (one w) 0

/-- Σ t_n, t_0 = y, t_(n+1) = t_n · c·y² / (2n+3): the positive series of the error function. -/
def erfSeries (w : Nat) (cy2 : Int) : Nat → Nat → Int → Int → Int
  | 0, _, _, acc => acc
  | fuel + 1, n, t, acc =>
    if t = 0 then acc else erfSeries w cy2 fuel (n + 1) (Int.fdiv (mul w t cy2) (2 * (n : Int) + 3)) (acc + t)

/-- Integer square root by Newton steps from above. -/
def isqrtGo (n : Nat) : Nat → Nat → Nat
  | 0, g => g
  | fuel + 1, g => let g' := (g + n / g) / 2; if g' < g then isqrtGo n fuel g' else g

def isqrt (n : Nat) : Nat :=
  if n = 0 then 0 else isqrtGo n (bitlen n + 8) (2 ^ ((bitlen n + 1) / 2))

end Fx

/-- An enclosure of an exact value; `lo = hi` only where the value is that number. -/
structure Encl where
  lo : Dy
  hi : Dy
  deriving DecidableEq, Repr

def Encl.exact (d : Dy) : Encl := ⟨d, d⟩

/-- Fixed-point value times 2^n, with the error margin of the series. -/
def Encl.ofFx (w : Nat) (v : Int) (n : Int) : Encl := ⟨⟨v - 2 ^ 24, n - w⟩, ⟨v + 2 ^ 24, n - w⟩⟩

/-- Strictly between 0 and every positive value of a format. -/
def Encl.tiny (neg : Bool) : Encl :=
  if neg then ⟨⟨-1, -400⟩, ⟨-1, -500⟩⟩ else ⟨⟨1, -500⟩, ⟨1, -400⟩⟩

/-- Just below (`up` false) or above an exact value, in magnitude. -/
def Encl.near (d : Dy) (up : Bool) : Encl :=
  let t (k : Int) : Dy := ⟨d.m, d.e - k⟩
  let a := if up then Dy.add d (t 90) else Dy.sub d (t 90)
  let b := if up then Dy.add d (t 300) else Dy.sub d (t 300)
  if Dy.le a b then ⟨a, b⟩ else ⟨b, a⟩

def Encl.huge : Encl := Encl.exact ⟨1, 1000⟩

/-- e^x as 2^n · v, |x| moderate. -/
def expParts (w : Nat) (x : Dy) : Int × Int :=
  let l2 := Fx.ln2 (w + 16)
  let n := Int.fdiv (Fx.ofDy (w + 16) x) l2
  let r := Fx.ofDy w x - Int.fdiv (n * l2) (2 ^ 16)
  (Fx.exp w r, n)

/-- Fixed-point e^x at absolute precision w. -/
def expAbs (w : Nat) (x : Dy) : Int :=
  let (v, n) := expParts (w + 400) x
  let v := if n ≥ 0 then v * 2 ^ n.toNat else Int.fdiv v (2 ^ (-n).toNat)
  Int.fdiv v (2 ^ 400)

def absGt (x : Dy) (k : Nat) : Bool := Dy.lt ⟨k, 0⟩ x.abs

def expEncl (w : Nat) (x : Dy) : Encl :=
  if x.m = 0 then .exact ⟨1, 0⟩
  else if absGt x 256 then (if x.m > 0 then .huge else .tiny false)
  else let (v, n) := expParts w x; .ofFx w v n

/-- floor(x) and the exact remainder. -/
def floorFrac (x : Dy) : Int × Dy :=
  if x.e ≥ 0 then (x.m * 2 ^ x.e.toNat, Dy.zero)
  else let d : Int := 2 ^ (-x.e).toNat; (Int.fdiv x.m d, ⟨Int.fmod x.m d, x.e⟩)

def exp2Encl (w : Nat) (x : Dy) : Encl :=
  if absGt x 512 then (if x.m > 0 then .huge else .tiny false)
  else
    let (n, r) := floorFrac x
    if r.m = 0 then .exact ⟨1, n⟩
    else .ofFx w (Fx.exp w (Fx.mul w (Fx.ofDy w r) (Fx.ln2 w))) n

/-- x > 0 as 2^n · y, y in [1, 2) at precision w. -/
def lnParts (w : Nat) (x : Dy) : Int × Int := (x.expo, Fx.ofDy w ⟨x.m, x.e - x.expo⟩)

def isPow2 (m : Nat) : Bool := m == 2 ^ Nat.log2 m

def lnEncl (w : Nat) (x : Dy) : Encl :=
  if Dy.eq x ⟨1, 0⟩ then .exact Dy.zero
  else let (n, y) := lnParts w x; .ofFx w (Fx.ln w y + n * Fx.ln2 w) 0

def log2Encl (w : Nat) (x : Dy) : Encl :=
  if isPow2 x.m.natAbs then .exact (Dy.ofInt x.expo)
  else
    let (n, y) := lnParts w x
    .ofFx w (Fx.div w (Fx.ln w y) (Fx.ln2 w) + n * Fx.one w) 0

/-- An integer `s = floor v` at exponent e, exact or strictly between s and s + 1. -/
def Encl.floorAt (s : Nat) (e : Int) (exact : Bool) : Encl :=
  if exact then .exact ⟨s, e⟩ else ⟨⟨4 * s + 1, e - 2⟩, ⟨4 * s + 3, e - 2⟩⟩

/-- 1 / x, x ≠ 0. -/
def recipEncl (x : Dy) : Encl :=
  let m := x.m.natAbs
  let k := bitlen m + 64
  let e := Encl.floorAt (2 ^ k / m) (-x.e - k) (decide (2 ^ k % m = 0))
  if x.m < 0 then ⟨e.hi.neg, e.lo.neg⟩ else e

/-- √x, x > 0. -/
def sqrtEncl (x : Dy) : Encl :=
  let odd := x.e % 2 = 1
  let m := (if odd then 2 * x.m.natAbs else x.m.natAbs) * 2 ^ 128
  let e := (if odd then x.e - 1 else x.e) - 128
  let s := Fx.isqrt m
  .floorAt s (e / 2) (decide (s * s = m))

/-- 1 / √x, x > 0. -/
def rsqrtEncl (x : Dy) : Encl :=
  let odd := x.e % 2 = 1
  let m := if odd then 2 * x.m.natAbs else x.m.natAbs
  let e := if odd then x.e - 1 else x.e
  let k := bitlen m + 64
  let s := Fx.isqrt (2 ^ (2 * k) / m)
  .floorAt s (-(e / 2) - k) (decide (s * s * m = 2 ^ (2 * k)))

def tanhEncl (w : Nat) (x : Dy) : Encl :=
  if x.m = 0 then .exact Dy.zero
  else if absGt x 64 then .near ⟨if x.m < 0 then -1 else 1, 0⟩ false
  else
    let t := expAbs w (Dy.scale2 x 1)
    .ofFx w (Fx.div w (t - Fx.one w) (t + Fx.one w)) 0

def sigmoidEncl (w : Nat) (x : Dy) : Encl :=
  if x.m = 0 then .exact ⟨1, -1⟩
  else if absGt x 128 then (if x.m > 0 then .near ⟨1, 0⟩ false else .tiny false)
  else .ofFx w (Fx.div w (Fx.one w) (Fx.one w + expAbs w x.neg)) 0

def erfEncl (w : Nat) (x : Dy) : Encl :=
  if x.m = 0 then .exact Dy.zero
  else if absGt x 8 then .near ⟨if x.m < 0 then -1 else 1, 0⟩ false
  else
    let w' := w + 200
    let x2 := Dy.mul x x
    let g := Fx.erfSeries w' (2 * Fx.ofDy w' x2) (w' + 400) 0 (Fx.ofDy w' x) 0
    let rp : Int := Fx.isqrt (Fx.pi w' * 2 ^ w').toNat
    let v := Fx.div w' (2 * Fx.mul w' (expAbs w' x2.neg) g) rp
    .ofFx w (Int.fdiv v (2 ^ 200)) 0

def geluEncl (w : Nat) (x : Dy) : Encl :=
  if x.m = 0 then .exact Dy.zero
  else if absGt x 16 then (if x.m > 0 then .near x false else .tiny true)
  else
    let w' := w + 500
    let x2 := Dy.mul x x
    let fx := Fx.ofDy w' x
    let g := Fx.erfSeries w' (Fx.ofDy w' x2) (w' + 800) 0 fx 0
    let rp : Int := Fx.isqrt (2 * Fx.pi w' * 2 ^ w').toNat
    let ph := Fx.div w' (Fx.mul w' (expAbs w' (Dy.scale2 x2 (-1)).neg) g) rp
    let v := Fx.mul w' fx (Fx.one (w' - 1) + ph)
    .ofFx w (Int.fdiv v (2 ^ 500)) 0

def softplusEncl (w : Nat) (x : Dy) : Encl :=
  if absGt x 256 then (if x.m > 0 then .near x true else .tiny false)
  else if x.m ≤ 0 then .ofFx w (Fx.ln w (Fx.one w + expAbs w x)) 0
  else .ofFx w (Fx.ofDy w x + Fx.ln w (Fx.one w + expAbs w x.neg)) 0

/-- x = n · π/2 + r, |r| ≤ π/4: the quotient and the remainder at precision w (R177). -/
def trigReduce (w : Nat) (x : Dy) : Int × Int :=
  let big := w + 16 + (max 0 x.expo).toNat
  let hp := Fx.pi big
  let fx := Fx.ofDy big x * 2
  let n := Int.fdiv (2 * fx + hp) (2 * hp)
  (n, Int.fdiv (fx - n * hp) (2 ^ (big - w + 1)))

/-- Value of sine (`q` = 0) or cosine (`q` = 1) from the quadrant. -/
def trigEncl (w : Nat) (q : Int) (x : Dy) : Encl :=
  if x.m = 0 then .exact ⟨q, 0⟩
  else
    let (n, r) := trigReduce w x
    let v := if (n + q) % 2 = 0 then Fx.sin w r else Fx.cos w r
    .ofFx w (if (n + q) % 4 < 2 then v else -v) 0

/-- The enclosure of native function `fn` (Table 05.1) at an argument inside its domain. -/
def nativeEncl (fn : Nat) (w : Nat) (x : Dy) : Encl :=
  match fn with
  | 0x00 => expEncl w x
  | 0x01 => exp2Encl w x
  | 0x02 => lnEncl w x
  | 0x03 => log2Encl w x
  | 0x04 => recipEncl x
  | 0x05 => if x.m = 0 then .exact Dy.zero else sqrtEncl x
  | 0x06 => rsqrtEncl x
  | 0x07 => tanhEncl w x
  | 0x08 => sigmoidEncl w x
  | 0x09 => erfEncl w x
  | 0x0A => geluEncl w x
  | 0x0B => softplusEncl w x
  | 0x0C => trigEncl w 0 x
  | _ => trigEncl w 1 x

/-- Round both ends; the answer when they agree. -/
def Encl.round (f : Fmt) (e : Encl) : Option (Nat × AFlags) :=
  let a := roundFloat f e.lo
  if e.lo = e.hi then some a else if a = roundFloat f e.hi then some a else none

/-- The FA32 grid step and the integer below `d` on it, with the exponent range unbounded above. -/
def gridFloor (d : Dy) : Int × Int :=
  let q := (if d.m = 0 then -126 else max d.expo (-126)) - 23
  (if d.e ≥ q then d.m * 2 ^ (d.e - q).toNat else Int.fdiv d.m (2 ^ (q - d.e).toNat), q)

/-- The interval of monotony that holds `x`, and whether the function rises there (R176). -/
def monoPiece (fn : Nat) (x : Dy) : Int × Bool :=
  match fn with
  | 0x04 => (if x.m < 0 then 0 else 1, false)
  | 0x06 => (0, false)
  | 0x0A =>
    -- the minimum of GELU, −0.75179152469356445746
    if Dy.lt x ⟨-13868387889371180034, -64⟩ then (0, false) else (1, true)
  | 0x0C =>
    let n := (trigReduce 256 (Dy.scale2 x (-1))).1
    (n, decide (n % 2 = 0))
  | 0x0D =>
    let big := 256 + 16 + (max 0 x.expo).toNat
    let n := Int.fdiv (Fx.ofDy big x) (Fx.pi big)
    (n, decide (n % 2 = 1))
  | _ => (0, true)

/-- Deliver the chosen neighbour of the gap (R175). -/
def nativePick (fn : Nat) (x : Dy) (k q : Int) : Nat × AFlags :=
  let (piece, rising) := monoPiece fn x
  let t := Config.nativeThr fn piece k q
  let up := if rising then Dy.le ⟨t.1, t.2⟩ x else Dy.le x ⟨t.1, t.2⟩
  let v := if up then k + 1 else k
  if v = 0 then (0, Flag.unf) else packFloat Fmt.fa32.consts (decide (v < 0)) v.natAbs q

/-- The gap an enclosure lies in. A negative value just below a power of two changes its step, so both ends must agree. -/
def Encl.native (fn : Nat) (x : Dy) (e : Encl) : Option (Nat × AFlags) :=
  if e.lo = e.hi then
    let (k, q) := gridFloor e.lo
    if Dy.eq ⟨k, q⟩ e.lo then some (roundFloat .fa32 e.lo) else some (nativePick fn x k q)
  else
    let a := gridFloor e.lo
    if a = gridFloor e.hi ∧ ¬ Dy.eq ⟨a.1, a.2⟩ e.lo then some (nativePick fn x a.1 a.2) else none

/-- The working precisions tried in turn; the last exceeds what any FA32 argument needs. -/
def precisions : List Nat := [128, 320, 768, 1600]

/-- Try precisions until the enclosure decides; the last answer stands for the value rounded at its lower end. -/
def resolve (dec : Encl → Option (Nat × AFlags)) (enc : Nat → Encl) (last : Encl → Nat × AFlags) :
    List Nat → Nat × AFlags
  | [] => last (enc 1600)
  | w :: ws => match dec (enc w) with
    | some r => r
    | none => resolve dec enc last ws

/-- Edge arguments of Table 05.2 that have no value: poles and arguments outside the domain. -/
def nativeEdge (fn : Nat) (tf : Fmt) (x : Dy) : Option (Nat × AFlags) :=
  let big := tf.consts.maxmag
  let sgn := 2 ^ (tf.consts.w - 1)
  if (fn = 0x02 ∨ fn = 0x03) ∧ x.m = 0 then some (sgn + big, Flag.ovf)
  else if (fn = 0x04 ∨ fn = 0x06) ∧ x.m = 0 then some (big, Flag.ovf)
  else if (fn = 0x02 ∨ fn = 0x03 ∨ fn = 0x05 ∨ fn = 0x06) ∧ x.m < 0 then some (tf.nan, Flag.inv)
  else none

/-- The first row and the RECIP row of Table 05.2: a value beyond the largest finite value sets OVF, also where it
rounds to that value. -/
def overMax (fn : Nat) (tf : Fmt) (x : Dy) (r : Nat × AFlags) : Nat × AFlags :=
  let mx := tf.consts.maxmag
  if (fn = 0x00 ∨ fn = 0x01 ∨ fn = 0x04 ∨ fn = 0x0B) ∧ r.1 % 2 ^ (tf.consts.w - 1) = mx then
    let e := nativeEncl fn 320 x
    if Dy.lt (floatValue tf mx) e.lo || Dy.lt e.hi (floatValue tf mx).neg then (r.1, Flag.ovf) else r
  else r

/-- f(x) rounded once to a format (R60). -/
def nearestNative (fn : Nat) (tf : Fmt) (x : Dy) : Nat × AFlags :=
  resolve (Encl.round tf) (fun w => nativeEncl fn w x) (fun e => roundFloat tf e.lo) precisions

/-- An FA32 result of the native ROM (R175). Table 05.2 fixes it where f(x) rounds to zero with UNF, and where TANH or ERF rounds
to ±1; elsewhere the ROM picks the neighbour. -/
def nativeFa32 (fn : Nat) (x : Dy) : Nat × AFlags :=
  let r := nearestNative fn .fa32 x
  let toZero := (fn ≤ 0x01 || fn == 0x08 || fn == 0x0A || fn == 0x0B || fn == 0x04) && r.1 == 0
  let toOne := (fn == 0x07 || fn == 0x09) && Dy.eq (floatValue .fa32 r.1).abs ⟨1, 0⟩
  if toZero || toOne then r
  else resolve (Encl.native fn x) (fun w => nativeEncl fn w x) (fun e => roundFloat .fa32 e.lo) precisions

/-- Functions for which Table 05.2 gives no flag at any finite argument. -/
def flagless (fn : Nat) : Bool := fn == 0x07 || fn == 0x09 || fn == 0x0C || fn == 0x0D

/-- A native function of an exact source value (R174, R175, R179). -/
def nativeFn (fn : Nat) (tf : Fmt) (x : Dy) : Nat × AFlags :=
  match nativeEdge fn tf x with
  | some r => r
  | none =>
    let r := overMax fn tf x (if tf = .fa32 then nativeFa32 fn x else nearestNative fn tf x)
    if flagless fn then (r.1, Flag.none) else r

/-- The native functions on a source element (R178). -/
def nativeSfu (fn : Nat) (tf : Fmt) (v : Val) : Nat × AFlags :=
  match v with
  | .nan => (tf.nan, Flag.inv)
  | .num x => nativeFn fn tf x

/-- native_exp_fa32 of R185. -/
def nativeExpFa32 (x : Dy) : Nat := (nativeFn 0x00 .fa32 x).1

/-- Correctly rounded FA32 value, for comparison: native results are one of its neighbours. -/
def nearestFa32 (fn : Nat) (x : Dy) : Nat × AFlags :=
  match nativeEdge fn .fa32 x with
  | some r => r
  | none => nearestNative fn .fa32 x

end Sys2Proof
end

