-- ==== Sys2Proof/Machine/RowOps.lean ====
section
/-! DEFINITION. Row operations of the vector engine: soft maximum (R185), normalisation (R188, R189), box decoding
(R355), overlap suppression (R356 to R359), the generator (R379). -/
namespace Sys2Proof

/-- Sequence two flagged results. -/
def andThen {α β : Type} (a : α × AFlags) (f : α → β × AFlags) : β × AFlags :=
  let b := f a.1
  (b.1, a.2 ||| b.2)

/-- Pairwise sums of neighbours (one level of the tree of R185). -/
def pairSums : List Nat → List Nat
  | a :: b :: rest => (fadd a b).1 :: pairSums rest
  | xs => xs

/-- The fixed pairwise tree over 64 lanes. -/
def treeSum (v : List Nat) : Nat :=
  (pairSums (pairSums (pairSums (pairSums (pairSums (pairSums v)))))).getD 0 0

/-- Chunks of 64, the last filled with zeros. -/
def chunks64 : Nat → List Nat → List (List Nat)
  | 0, _ => []
  | fuel + 1, xs =>
    if xs.isEmpty then []
    else (let c := xs.take 64; c ++ List.replicate (64 - c.length) 0) :: chunks64 fuel (xs.drop 64)

/-- The exact values of a row with no NaN. -/
def allNum : List Val → Option (List Dy)
  | [] => some []
  | .nan :: _ => none
  | .num d :: vs => (allNum vs).map (d :: ·)

/-- softmax_row of R185. -/
def softmaxRow (tf : Fmt) (xs : List Val) : List Nat × AFlags :=
  match allNum xs with
  | none => (xs.map (fun _ => tf.nan), Flag.inv)
  | some ds =>
    let m := ds.foldl (fun a d => if Dy.lt a d then d else a) (ds.headD Dy.zero)
    let es := ds.map (fun d => nativeExpFa32 (Dy.sub d m))
    let s := (chunks64 (es.length + 1) es).foldl (fun a c => (fadd a (treeSum c)).1) 0
    let ys := es.map (fun e => (e, (divRound tf (floatValue .fa32 e) (floatValue .fa32 s)).1))
    (ys.map (·.2), ys.foldl (fun f p => if p.1 ≠ 0 ∧ p.2 = 0 then f ||| Flag.unf else f) Flag.none)

/-- An exact count as an FA32 code. -/
def natFa32 (n : Nat) : Nat := (roundFloat .fa32 ⟨n, 0⟩).1

/-- One lane of the running mean and variance: count, mean, sum of squares (FA32 codes). -/
structure Welford where
  n : Nat
  mu : Nat
  m2 : Nat
  deriving DecidableEq, Repr

def Welford.zero : Welford := ⟨0, 0, 0⟩

/-- One element into its lane (R188). -/
def Welford.take (w : Welford) (x : Nat) : Welford × AFlags :=
  andThen (fsub x w.mu) fun d =>
  andThen (fdiv d (natFa32 (w.n + 1))) fun q =>
  andThen (fadd w.mu q) fun mu =>
  andThen (fsub x mu) fun d2 =>
  andThen (ffma d d2 w.m2) fun m2 => (⟨w.n + 1, mu, m2⟩, Flag.none)

/-- Merge lane `b` into lane `a` (R188). -/
def Welford.merge (a b : Welford) : Welford × AFlags :=
  if b.n = 0 then (a, Flag.none)
  else
    let nt := a.n + b.n
    andThen (fsub b.mu a.mu) fun d =>
    andThen (fdiv (natFa32 b.n) (natFa32 nt)) fun q =>
    andThen (ffma d q a.mu) fun mu =>
    andThen (fmul d d) fun dd =>
    andThen (fdiv (natFa32 (a.n * b.n)) (natFa32 nt)) fun r =>
    andThen (fadd a.m2 b.m2) fun s =>
    andThen (ffma dd r s) fun m2 => (⟨nt, mu, m2⟩, Flag.none)

/-- One chunk of elements into the lanes; lanes past the chunk keep their values. -/
def welfordChunk : List Welford → List Nat → List Welford × AFlags
  | w :: ws, x :: xs => andThen (w.take x) fun w' => let r := welfordChunk ws xs; (w' :: r.1, r.2)
  | ws, _ => (ws, Flag.none)

def welfordRow : Nat → List Nat → List Welford → List Welford × AFlags
  | 0, _, ws => (ws, Flag.none)
  | fuel + 1, xs, ws =>
    if xs.isEmpty then (ws, Flag.none)
    else andThen (welfordChunk ws (xs.take 64)) fun ws' => welfordRow fuel (xs.drop 64) ws'

def mergeLanes : List Welford → List Welford → List Welford × AFlags
  | a :: as, b :: bs => andThen (a.merge b) fun c => let r := mergeLanes as bs; (c :: r.1, r.2)
  | _, _ => ([], Flag.none)

/-- The merge tree: 64 lanes to 32, 16, …, 1. -/
def mergeTree : Nat → List Welford → List Welford × AFlags
  | 0, ws => (ws, Flag.none)
  | fuel + 1, ws =>
    if ws.length ≤ 1 then (ws, Flag.none)
    else andThen (mergeLanes (ws.take (ws.length / 2)) (ws.drop (ws.length / 2))) (mergeTree fuel)

/-- Mean and variance (R188). -/
def welford (xs : List Nat) : (Nat × Nat) × AFlags :=
  andThen (welfordRow (xs.length + 1) xs (List.replicate 64 Welford.zero)) fun ws =>
  andThen (mergeTree 6 ws) fun ls =>
  let w := ls.headD Welford.zero
  andThen (fdiv w.m2 (natFa32 xs.length)) fun var => ((w.mu, var), Flag.none)

/-- The outputs of R189. -/
def normOut (tf : Fmt) (mean r : Nat) : List Nat → List Nat → List Nat → List Nat × AFlags
  | x :: xs, g :: gs, b :: bs =>
    andThen (fsub x mean) fun d =>
    andThen (fmul d r) fun t =>
    andThen (ffmaTo tf t g b) fun y => let q := normOut tf mean r xs gs bs; (y :: q.1, q.2)
  | _, _, _ => ([], Flag.none)

/-- VNORM of one row of FA32-valued elements (R188 to R190, R793). -/
def normRow (tf : Fmt) (xs : List Val) (eps : Nat) (gs bs : List Nat) : List Nat × AFlags :=
  match allNum xs with
  | none => (xs.map (fun _ => tf.nan), Flag.inv)
  | some ds =>
    if isNaN .fa32 eps || (gs ++ bs).any (isNaN .fa32) then (xs.map (fun _ => tf.nan), Flag.inv)
    else
      let cs := ds.map (fun d => (roundFloat .fa32 d).1)
      andThen (welford cs) fun mv =>
      andThen (fadd mv.2 eps) fun ve =>
      andThen (nativeSfu 0x06 .fa32 (readFloat .fa32 ve)) fun r =>
      normOut tf mv.1 r cs gs bs

/-- Half an FA32 one, and FA32 zero. -/
def fa32Half : Nat := 0x3F000000

/-- The parameters of VBOXD (R354). -/
structure BoxParam where
  vx : Nat
  vy : Nat
  vw : Nat
  vh : Nat
  clamp : Nat
  iw : Nat
  ih : Nat
  clip : Bool
  deriving DecidableEq, Repr

def nativeExpF (c : Nat) : Nat × AFlags := nativeSfu 0x00 .fa32 (readFloat .fa32 c)

/-- cx2 or cy2 of R355. -/
def boxCentre (c d v w : Nat) : Nat × AFlags :=
  andThen (fmul d v) fun a => andThen (fmul a w) fun b => fadd c b

/-- hw or hh of R355. -/
def boxHalf (w d v clamp : Nat) : Nat × AFlags :=
  andThen (fmul d v) fun a =>
  andThen (fmin a clamp) fun b =>
  andThen (nativeExpF b) fun e =>
  andThen (fmul w e) fun h => fmul h fa32Half

def boxClip (p : BoxParam) (x lim : Nat) : Nat × AFlags :=
  if p.clip then andThen (fmax x 0) fun a => fmin a lim else (x, Flag.none)

/-- One box (R355): cx cy w h dx dy dw dh to x0 y0 x1 y1. -/
def boxDecode (p : BoxParam) (b : List Nat) : List Nat × AFlags :=
  if (b ++ [p.vx, p.vy, p.vw, p.vh, p.clamp, p.iw, p.ih]).any (isNaN .fa32) then
    (List.replicate 4 0xFFFFFFFF, Flag.inv)
  else
    let g := fun i => b.getD i 0
    andThen (boxCentre (g 0) (g 4) p.vx (g 2)) fun cx =>
    andThen (boxCentre (g 1) (g 5) p.vy (g 3)) fun cy =>
    andThen (boxHalf (g 2) (g 6) p.vw p.clamp) fun hw =>
    andThen (boxHalf (g 3) (g 7) p.vh p.clamp) fun hh =>
    andThen (andThen (fsub cx hw) fun v => boxClip p v p.iw) fun x0 =>
    andThen (andThen (fsub cy hh) fun v => boxClip p v p.ih) fun y0 =>
    andThen (andThen (fadd cx hw) fun v => boxClip p v p.iw) fun x1 =>
    andThen (andThen (fadd cy hh) fun v => boxClip p v p.ih) fun y1 =>
    ([x0, y0, x1, y1], Flag.none)

/-- A box of VNMS: index, corners, score, class (R356). -/
structure NBox where
  i : Nat
  x0 : Nat
  y0 : Nat
  x1 : Nat
  y1 : Nat
  score : Nat
  cls : Nat
  deriving DecidableEq, Repr

def NBox.isNaN (b : NBox) : Bool := [b.x0, b.y0, b.x1, b.y1, b.score].any (Sys2Proof.isNaN .fa32)

/-- Insert by score, highest first, equal scores in ascending index (R357). -/
def rankInsert (b : NBox) : List NBox → List NBox
  | [] => [b]
  | c :: cs =>
    if Dy.lt (floatValue .fa32 c.score) (floatValue .fa32 b.score) then b :: c :: cs else c :: rankInsert b cs

/-- Side length clipped at zero. -/
def sideLen (hi lo : Nat) : Nat × AFlags := andThen (fsub hi lo) fun d => fmax d 0

def boxArea (b : NBox) : Nat × AFlags :=
  andThen (sideLen b.x1 b.x0) fun w => andThen (sideLen b.y1 b.y0) fun h => fmul w h

/-- Does candidate `b` overlap kept box `a` (R357, R358)? A NaN threshold decides nothing and sets INV. -/
def overlaps (t : Nat) (a b : NBox) : Bool × AFlags :=
  andThen (fmin a.x1 b.x1) fun xr => andThen (fmax a.x0 b.x0) fun xl =>
  andThen (sideLen xr xl) fun iw =>
  andThen (fmin a.y1 b.y1) fun yr => andThen (fmax a.y0 b.y0) fun yl =>
  andThen (sideLen yr yl) fun ih =>
  andThen (fmul iw ih) fun inter =>
  andThen (boxArea a) fun aa => andThen (boxArea b) fun ab =>
  andThen (fadd aa ab) fun s => andThen (fsub s inter) fun uni =>
  match readFloat .fa32 t, readFloat .fa32 inter, readFloat .fa32 uni with
  | .num tv, .num iv, .num uv => (Dy.lt (Dy.mul tv uv) iv, Flag.none)
  | _, _, _ => (false, Flag.inv)

/-- Is a candidate suppressed by a kept box, looked up in rank order? -/
def suppressed (t : Nat) (ca : Bool) (b : NBox) : List NBox → Bool × AFlags
  | [] => (false, Flag.none)
  | a :: as =>
    if ca && a.cls != b.cls then suppressed t ca b as
    else andThen (overlaps t a b) fun o => if o then (true, Flag.none) else suppressed t ca b as

/-- Take boxes in rank order until `maxout` are kept (R357); `kept` in rank order. -/
def takeBoxes (t : Nat) (ca : Bool) (maxout : Nat) : List NBox → List NBox → List NBox × AFlags
  | [], kept => (kept, Flag.none)
  | b :: bs, kept =>
    if kept.length ≥ maxout then (kept, Flag.none)
    else andThen (suppressed t ca b kept) fun o => takeBoxes t ca maxout bs (if o then kept else kept ++ [b])

/-- VNMS (R356 to R359): the N + 1 output words. -/
def nmsRow (t st maxout : Nat) (ca : Bool) (bs : List NBox) : List Nat × AFlags :=
  let nanB := bs.filter (·.isNaN)
  let ok := bs.filter (fun b => !b.isNaN)
  let f0 := if nanB.isEmpty then Flag.none else Flag.inv
  let (ok, f1) := match readFloat .fa32 st with
    | .nan => (ok, if ok.isEmpty then Flag.none else Flag.inv)
    | .num sv => (ok.filter (fun b => !Dy.lt (floatValue .fa32 b.score) sv), Flag.none)
  let ranked := ok.foldl (fun acc b => rankInsert b acc) []
  let (kept, f2) := takeBoxes t ca (if maxout = 0 then bs.length else maxout) ranked []
  ((kept.length :: kept.map (·.i)) ++ List.replicate (bs.length - kept.length) 0xFFFFFFFF, f0 ||| f1 ||| f2)

/-! The generator of R379. -/

def genRound (k : Nat → BitVec 32) (r : Nat) (x : BitVec 32 × BitVec 32 × BitVec 32 × BitVec 32) :
    BitVec 32 × BitVec 32 × BitVec 32 × BitVec 32 :=
  let (x0, x1, x2, x3) := x
  let x0 := x0 + k (r % 4) + BitVec.ofNat 32 r
  let x1 := x1 + k ((r + 1) % 4)
  let x0 := x0 + x1
  let x3 := (x3 ^^^ x0).rotateLeft 13
  let x2 := x2 + x3
  let x1 := (x1 ^^^ x2).rotateLeft 9
  let x0 := x0 + x1
  let x3 := (x3 ^^^ x0).rotateLeft 11
  let x2 := x2 + x3
  let x1 := (x1 ^^^ x2).rotateLeft 5
  (x1, x2, x3, x0)

/-- Draw `i` of stream `s` (R379). -/
def genDraw (seed : BitVec 128) (s i : Nat) : Nat :=
  let k := fun j => seed.extractLsb' (32 * j) 32
  let x := (BitVec.ofNat 32 i, BitVec.ofNat 32 (i / 2 ^ 32), BitVec.ofNat 32 s, 0x4B524C42#32)
  let (x0, x1, x2, x3) := (rangeFrom 0 10).foldl (fun x r => genRound k r x) x
  (x0 + k 0).toNat + 2 ^ 32 * (x1 + k 1).toNat + 2 ^ 64 * (x2 + k 2).toNat + 2 ^ 96 * (x3 + k 3).toNat

end Sys2Proof
end

