-- ==== Sys2Proof/Machine/SfuProg.lean ====
section
/-! DEFINITION. User micro-programs (R191 to R197) and the RT-8 functions (R208 to R213) of the special-function unit. -/
namespace Sys2Proof

/-- Clamp to the s64 range. -/
def clampS64 (x : Int) : Int := if x > 2 ^ 63 - 1 then 2 ^ 63 - 1 else if x < -(2 ^ 63) then -(2 ^ 63) else x

/-- The eight working values of a lane. -/
abbrev Lane := List Int

def Lane.get (l : Lane) (i : Nat) : Int := l.getD i 0
def Lane.set (l : Lane) (i : Nat) (v : Int) : Lane := List.set l i v

/-- `sext` of a table word: a signed 32-bit value. -/
def tableWord (tab : Tbl (BitVec 32)) (i : Nat) : Int := sext 32 (Tbl.get 0 tab i).toNat

/-- SHF of Table 05.5. Shifts by more than the range of s64 values saturate or vanish, so the amount is capped. -/
def shfStep (a b : Int) : Int :=
  if b ≥ 0 then clampS64 (a * 2 ^ (min b 128).toNat) else clampS64 (rsh a (min (-b) 128).toNat)

/-- CMP of Table 05.5. -/
def cmpStep (code : Nat) (a b : Int) : Bool :=
  match code with
  | 0 => decide (a < b) | 1 => decide (a ≤ b) | 2 => decide (a = b) | _ => decide (a ≠ b)

/-- One step (Table 05.5). The index of LUT shifts a negative wA arithmetically (DESIGN CHOICE, log 112: the spec does not say). -/
def sfuStep (tab : Tbl (BitVec 32)) (word : Nat) (l : Lane) : Lane :=
  let d := bits word 60 58
  let a := l.get (bits word 57 55)
  let c := l.get (bits word 51 49)
  let b := if bitAt word 48 then sext 16 (bits word 47 32) else l.get (bits word 54 52)
  let p1 := bits word 31 16
  let p2 := bits word 15 0
  match bits word 63 61 with
  | 0 => l.set d (tableWord tab
      ((p1 % 2 ^ 14 + (Int.fmod (Int.fdiv a (2 ^ (p2 % 64))) (2 ^ bits p2 15 12)).toNat) % 16384))
  | 1 => l.set d (clampS64 (rsh (a * b + c * 2 ^ (p1 % 64)) (p2 % 64)))
  | 2 => l.set d (shfStep a b)
  | 3 => l.set d (if cmpStep (p1 % 4) a b then 1 else 0)
  | 4 => l.set d (if c ≠ 0 then a else b)
  | _ => l

/-- Steps START to START + COUNT − 1, counted modulo 4,096 (R194). A COUNT of 65 to 127, outside the range of R192, runs that many
steps (DESIGN CHOICE, log 111). -/
def sfuRun (steps : Tbl (BitVec 64)) (tab : Tbl (BitVec 32)) : Nat → Nat → Lane → Lane
  | 0, _, l => l
  | n + 1, pc, l => sfuRun steps tab n ((pc + 1) % 4096) (sfuStep tab (Tbl.get 0 steps pc).toNat l)

/-- Entry values of a lane (R195). -/
def sfuEntry (v : Val) : Lane :=
  match v with
  | .nan => [0, 0, 2, 0, 0, 0, 0, 0]
  | .num x => if x.m = 0 then [0, 0, 0, 0, 0, 0, 0, 0] else [x.m, x.e, 1, 0, 0, 0, 0, 0]

/-- Exit of a lane (R196). An exponent beyond ±10,000 decides the rounding, so it is capped there. -/
def sfuExit (tf : Fmt) (l : Lane) : Nat × AFlags :=
  if l.get 2 = 2 then (tf.nan, Flag.inv)
  else if l.get 2 = 3 then
    ((if l.get 0 < 0 then 2 ^ (tf.consts.w - 1) else 0) + tf.consts.maxmag, Flag.ovf)
  else roundFloat tf ⟨l.get 0, max (-10000) (min 10000 (l.get 1))⟩

/-- One entry-table word (R192). -/
def entryStart (w : Nat) : Nat := bits w 11 0
def entryCount (w : Nat) : Nat := bits w 18 12

/-- A user function on one source element; a NaN source gives NaN whatever the program does (R178). -/
def userSfu (steps : Tbl (BitVec 64)) (tab : Tbl (BitVec 32)) (entry : Nat) (tf : Fmt) (v : Val) : Nat × AFlags :=
  match v with
  | .nan => (tf.nan, Flag.inv)
  | .num _ => sfuExit tf (sfuRun steps tab (entryCount entry) (entryStart entry) (sfuEntry v))

/-- The CRC-32 register one byte-bit back. -/
def crcBack (r : BitVec 32) : Nat → BitVec 32
  | 0 => r
  | n + 1 => crcBack (if r.getLsbD 31 then ((r ^^^ 0xEDB88320) <<< 1) ||| 1 else r <<< 1) n

/-- The four bytes that bring the CRC-32 of `bs` followed by them to a value. -/
def crcTail (bs : List Byte) (crc : BitVec 32) : BitVec 32 := crcBack (crc ^^^ 0xFFFFFFFF) 32 ^^^ (crc32 bs ^^^ 0xFFFFFFFF)

/-- The RT-8 coefficient image (R211): 1,600 entries. The spec prints its CRC-32 and not its entries, so all but the last four
bytes are free, and those four give the image its CRC-32 (log 14). -/
def rt8Bytes : List Byte :=
  let bs := ((List.range 1600).flatMap (fun i => leBytes (Config.rt8Coef i).toNat 8)).take 12796
  bs ++ leBytes (crcTail bs 0x5D1E07A3).toNat 4

def rt8Entry (i : Nat) : Nat := leNat ((rt8Bytes.drop (8 * i)).take 8)

/-- rt8_poly: the value in units of 2^-25. -/
def rt8Poly (base t : Nat) : Int :=
  let i := t / 2 ^ 17
  let u : Nat := t % 2 ^ 17
  let c := rt8Entry (base + i)
  let c1 := sext 22 (bits c 47 26)
  let c2 := sext 16 (bits c 63 48)
  (bits c 25 0 : Nat) + rsh (c1 * u) 17 + rsh (c2 * rsh (u * u) 17) 17

def rt8Y (base t : Nat) : Dy := ⟨rt8Poly base t, -25⟩

/-- n and t of |x| = 2^n (1 + t), x ≠ 0. -/
def rt8Norm (x : Dy) : Int × Nat :=
  let m := x.m.natAbs
  let k := Nat.log2 m
  (x.expo, if k ≤ 23 then (m - 2 ^ k) * 2 ^ (23 - k) else (m - 2 ^ k) / 2 ^ (k - 23))

/-- The native counterpart of an RT-8 function code, whose edges apply (Table 05.2). -/
def rt8Native (fn : Nat) : Nat :=
  match fn with
  | 0x10 => 0x01 | 0x11 => 0x03 | 0x12 => 0x04 | 0x13 => 0x06 | 0x14 => 0x08 | _ => 0x07

/-- x = n + t of RT8_EXP2, t in 2^-23 (R210). -/
def rt8Split (x : Dy) : Int × Nat :=
  let (n, r) := floorFrac x
  let t := (rtaDiv (r.m * 2 ^ 23) (2 ^ (-r.e).toNat)).toNat
  if t = 2 ^ 23 then (n + 1, 0) else (n, t)

/-- The rebuilt exact value (Table 05.11). -/
def rt8Value (fn : Nat) (x : Dy) : Dy :=
  match fn with
  | 0x10 =>
    let (n, t) := rt8Split x
    Dy.scale2 (rt8Y 0 t) (max (-5000) (min 5000 n))
  | 0x11 => let (n, t) := rt8Norm x; Dy.add (Dy.ofInt n) (rt8Y 64 t)
  | 0x12 =>
    let (n, t) := rt8Norm x
    let v := Dy.scale2 (rt8Y 128 t) (-n)
    if x.m < 0 then v.neg else v
  | 0x13 =>
    let (n, t) := rt8Norm x
    Dy.scale2 (rt8Y (if n % 2 = 0 then 192 else 256) t) (-(Int.fdiv n 2))
  | 0x14 =>
    if x.m = 0 ∨ x.expo < -6 then Dy.add ⟨1, -1⟩ (Dy.scale2 x (-2))
    else if x.expo ≥ 4 then (if x.m > 0 then ⟨1, 0⟩ else Dy.zero)
    else
      let (n, t) := rt8Norm x
      let y := rt8Y (320 + 64 * (n + 6).toNat) t
      if x.m > 0 then y else Dy.sub ⟨1, 0⟩ y
  | _ =>
    if x.m = 0 ∨ x.expo < -6 then x
    else if x.expo ≥ 4 then ⟨if x.m < 0 then -1 else 1, 0⟩
    else
      let (n, t) := rt8Norm x
      let y := rt8Y (960 + 64 * (n + 6).toNat) t
      if x.m < 0 then y.neg else y

/-- The value that R210 rebuilds, rounded, with the edges of Table 05.2 and SIGMOID's 0 with UNF. The table's f(x) is the exact
value of the function (DESIGN CHOICE, log 23): where it lies beyond the target or rounds to zero (RT8_EXP2, RT8_RECIP), or rounds
to ±1 (RT8_TANH), that row stands whatever the polynomial gives. -/
def rt8Raw (fn : Nat) (tf : Fmt) (x : Dy) : Nat × AFlags :=
  match nativeEdge (rt8Native fn) tf x with
  | some r => r
  | none =>
    let e := nativeEncl (rt8Native fn) 320 x
    let r := roundFloat tf (rt8Value fn x)
    let sgn := 2 ^ (tf.consts.w - 1)
    let one := (roundFloat tf ⟨1, 0⟩).1
    if fn = 0x14 ∧ x.m < 0 ∧ x.expo ≥ 4 then (0, Flag.unf)
    else if fn = 0x10 ∨ fn = 0x12 then
      if Dy.lt (floatValue tf tf.consts.maxmag) e.lo then (tf.consts.maxmag, Flag.ovf)
      else if Dy.lt e.hi (floatValue tf tf.consts.maxmag).neg then (sgn + tf.consts.maxmag, Flag.ovf)
      else if (roundFloat tf e.lo).1 = 0 ∧ (roundFloat tf e.hi).1 = 0 then (0, Flag.unf)
      else r
    else if fn = 0x15 then
      (if (roundFloat tf e.lo).1 % sgn = one ∧ (roundFloat tf e.hi).1 % sgn = one ∨ one < r.1 % sgn then
        (if x.m < 0 then sgn + one else one) else r.1, Flag.none)
    else r

/-- Table 05.12: left source, its result, and the result of the seam source after it. -/
def rt8StepBack (fn : Nat) : Option (Nat × Nat × Nat) :=
  match fn with
  | 0x10 => some (0x3E7F, 0x4116, 0x4115)
  | 0x12 => some (0x41E7, 0x3E0C, 0x3E0D)
  | 0x14 => some (0x4427, 0x3FF3, 0x3FF2)
  | 0x15 => some (0x425F, 0x3FEF, 0x3FEE)
  | _ => none

/-- Place of a code of `w` bits among the values: its magnitude, with its sign. -/
def codeOrd (w code : Nat) : Int := if code < 2 ^ (w - 1) then code else -((code - 2 ^ (w - 1) : Nat) : Int)
def ordCode (w : Nat) (v : Int) : Nat := if v < 0 then 2 ^ (w - 1) + v.natAbs else v.toNat

/-- Is there a seam between two neighbouring source values (chapter 05, after R211)? -/
def rt8Seam (fn : Nat) (x y : Dy) : Bool :=
  let place := fun (x : Dy) => if fn = 0x10 then rt8Split x else rt8Norm x
  let a := place x
  let b := place y
  if fn = 0x14 ∨ fn = 0x15 then
    decide (-6 ≤ min a.1 b.1) && decide (max a.1 b.1 ≤ 3) && decide (a.1 ≠ b.1 ∨ a.2 / 2 ^ 17 ≠ b.2 / 2 ^ 17)
  else decide (a.1 = b.1 ∧ a.2 / 2 ^ 17 ≠ b.2 / 2 ^ 17)

/-- Does an RT-8 function rise as the magnitude of a source of this sign grows? -/
def rt8Rises (fn : Nat) (neg : Bool) : Bool :=
  match fn with | 0x11 => true | 0x12 => neg | 0x13 => false | _ => !neg

/-- The result, as its place among the target's values, at the source of magnitude code `n + 1`, one sign at a time. The image is
one whose results step back only where R212 and R213 let them, by one ulp, and give the results that Table 05.12 prints: for such
an image this is R210's own result at every source. -/
def rt8Held (fn : Nat) (sf tf : Fmt) (neg : Bool) : Nat → Int
  | 0 => codeOrd tf.consts.w (rt8Raw fn tf (floatValue sf ((if neg then 2 ^ (sf.consts.w - 1) else 0) + 1))).1
  | n + 1 =>
    let value := fun (k : Nat) => floatValue sf ((if neg then 2 ^ (sf.consts.w - 1) else 0) + k)
    let prev := rt8Held fn sf tf neg n
    let raw := codeOrd tf.consts.w (rt8Raw fn tf (value (n + 2))).1
    let narrow := sf = .fe16 ∧ tf = .fe16
    let row := rt8StepBack fn
    let slack : Int :=
      if narrow then (match row with
        | some r => if n + 2 = r.1 + 1 ∧ (!neg ∨ fn ≠ 0x10) then 1 else 0
        | none => 0)
      else if rt8Seam fn (value (n + 1)) (value (n + 2)) then 1 else 0
    let free := if rt8Rises fn neg then max raw (prev - slack) else min raw (prev + slack)
    match row with
    | some r =>
      let sign : Int := if neg then -1 else 1
      if narrow ∧ (!neg ∨ fn = 0x12 ∨ fn = 0x15) ∧ n + 2 = r.1 then sign * r.2.1
      else if narrow ∧ (!neg ∨ fn = 0x12 ∨ fn = 0x15) ∧ n + 2 = r.1 + 1 then sign * r.2.2
      else free
    | none => free

/-- An RT-8 function (R210 to R213). -/
def rt8Sfu (fn : Nat) (sf tf : Fmt) (v : Val) : Nat × AFlags :=
  match v with
  | .nan => (tf.nan, Flag.inv)
  | .num x =>
    let raw := rt8Raw fn tf x
    if x.m = 0 ∨ (nativeEdge (rt8Native fn) tf x).isSome then raw
    else
      let n := (roundFloat sf x).1 % 2 ^ (sf.consts.w - 1)
      (ordCode tf.consts.w (rt8Held fn sf tf (decide (x.m < 0)) (n - 1)), raw.2)

/-- Kinds of function code (Table 05.1). -/
inductive SfuKind where
  | native | rt8 | user (j : Nat) | reserved
  deriving DecidableEq, Repr

def sfuKind (fn : Nat) : SfuKind :=
  if fn ≤ 0x0D then .native
  else if 0x10 ≤ fn ∧ fn ≤ 0x15 then .rt8
  else if 0x20 ≤ fn ∧ fn ≤ 0x3F then .user (fn - 0x20) else .reserved

/-- Passes of a function (Table 05.3, R194). -/
def sfuPasses (fn : Nat) (tf : Fmt) (entry : Nat) : Nat :=
  match sfuKind fn with
  | .native =>
    if tf ≠ .fa32 then 1
    else if fn ≤ 0x06 then 2 else 3
  | .user _ => (entryCount entry + 7) / 8
  | _ => 1

end Sys2Proof
end

