-- ==== Sys2Proof/Machine/Operands.lean ====
section
/-! DEFINITION. Operands of slot instructions: registers, lanes and predicates (R268 to R274), operand words and rows
(R278 to R280), local addresses (R276, R277), and the faults they raise. -/
namespace Sys2Proof.Machine
open Sys2Proof

def Core.s (c : Core) (r : BitVec 5) : BitVec 64 := Tbl.get 0 c.sreg r.toNat
def Core.pr (c : Core) (r : BitVec 3) : BitVec 64 := Tbl.get 0 c.preg r.toNat
def Core.lane (c : Core) (r : BitVec 5) (l : Nat) : BitVec 32 := Tbl.get 0 c.vreg (64 * r.toNat + l)
def Core.tileElem (c : Core) (t m n : Nat) : BitVec 48 := Tbl.get 0 c.tile (1024 * t + 32 * m + n)
def Core.tileFi48 (c : Core) (t : Nat) : Bool := Tbl.get false c.tkind t
def Core.statE (c : Core) (slot entry : Nat) : BitVec 32 := Tbl.get 0 c.stat (64 * slot + entry)
def Core.errE (c : Core) (slot entry : Nat) : ErrEntry := Tbl.get ErrEntry.zero c.err (64 * slot + entry)
def Core.bank (c : Core) : SfuBank := if c.active then c.bank1 else c.bank0

/-- The 64 lanes, numbered. -/
def lanes64 : List Nat := rangeFrom 0 64

/-- Is lane `l` active under PR (R272)? -/
def Core.activeLane (c : Core) (pr : BitVec 4) (l : Nat) : Bool :=
  if pr.getLsbD 3 then (c.pr (pr.setWidth 3)).getLsbD l else true

/-- The active lanes. -/
def Core.actives (c : Core) (pr : BitVec 4) : List Nat := lanes64.filter (c.activeLane pr)

/-- The predicate register that PR reads. -/
def prReg (pr : BitVec 4) : List Reg := if pr.getLsbD 3 then [.p (pr.setWidth 3).toNat] else []

/-- The bits of a lane that hold an element of format `f` (R269, R270). -/
def laneCode (f : Fmt) (v : BitVec 32) : Nat :=
  match f with
  | .fq8 => v.toNat % 256 | .fe8 => v.toNat % 256 | .fq16 => v.toNat % 65536 | .fe16 => v.toNat % 65536
  | _ => v.toNat

/-- An operand word (R278). -/
structure OpWord where
  addr : Nat
  stride : Nat
  deriving DecidableEq, Repr

def opWord (v : BitVec 64) : OpWord := ⟨bits v.toNat 23 0, bits v.toNat 55 32⟩

/-- Bytes of the core store. -/
def coreStoreSize : Nat := 0x200000

/-- Fault codes of Table 07.11. -/
def fLatency : Nat := 0x01
def fRange : Nat := 0x02
def fIllegal : Nat := 0x03
def fFormat : Nat := 0x04
def fKind : Nat := 0x05
def fMisaligned : Nat := 0x06
def fStore : Nat := 0x07
def fQuant : Nat := 0x08
def fScrim : Nat := 0x09
def fSfuEntry : Nat := 0x0A
def fRowLen : Nat := 0x0B
def fSync : Nat := 0x0C
def fRoute : Nat := 0x0D
def fDmaSeq : Nat := 0x0E

def faultIf (b : Bool) (code : Nat) : List Nat := if b then [code] else []

/-- Rows of an operand in the core store: `rows` rows of `len` bytes, elements of `sz` bytes (R279, R280). -/
def rowFaults (w : OpWord) (sz rows len : Nat) : List Nat :=
  faultIf (w.addr % sz != 0 || w.stride % sz != 0) fMisaligned ++
  faultIf (decide (w.addr + (rows - 1) * w.stride + len > coreStoreSize)) fStore

/-- The byte spans of the rows. -/
def rowSpans (w : OpWord) (rows len : Nat) : List (Nat × Nat) :=
  (rangeFrom 0 rows).map (fun i => (w.addr + i * w.stride, len))

/-- A record area: 8-byte aligned, STRIDE ignored; `lo` and `n` give the bytes used (R280, Table 07.9). -/
def areaFaults (w : OpWord) (lo n : Nat) : List Nat :=
  faultIf (w.addr % 8 != 0) fMisaligned ++ faultIf (decide (w.addr + lo + n > coreStoreSize)) fStore

/-- One row parameter record in the core store (Table 02.5). -/
def Core.recAt (c : Core) (a : Nat) : RowParam := RowParam.ofDouble (c.cstore.le a 8)

/-- Code of the element of format `f` at address `a`. -/
def Core.codeAt (c : Core) (f : Fmt) (a : Nat) : Nat :=
  match f with
  | .fi48 => c.cstore.le a 8 % 2 ^ 48
  | _ => c.cstore.le a f.size

/-- Codes of a row of `n` elements. -/
def Core.rowCodes (c : Core) (f : Fmt) (a n : Nat) : List Nat :=
  (rangeFrom 0 n).map (fun i => c.codeAt f (a + i * f.size))

/-- Bytes in which an element is stored (R64, R76). -/
def elemBytes (f : Fmt) (code : Nat) : List Byte :=
  match f with
  | .fi48 => leBytes (if bitAt code 47 then code % 2 ^ 48 + 0xFFFF000000000000 else code % 2 ^ 48) 8
  | _ => leBytes code f.size

def rowBytes (f : Fmt) (codes : List Nat) : List Byte := codes.flatMap (elemBytes f)

/-- Where a local address lies (Table 07.3). -/
inductive LocalPlace where
  | core (a : Nat)
  | cluster (off : Nat)
  | bad
  deriving DecidableEq, Repr

/-- A local access of `n` bytes (R226, R276, R277). -/
def localPlace (a n : Nat) : LocalPlace :=
  if a + n ≤ 0x200000 then .core a
  else if 0x800000 ≤ a ∧ a + n ≤ 0xE80000 then .cluster (a - 0x800000)
  else .bad

/-- Address of an M-slot load or store: scalar plus signed offset, modulo 2^64 (R290, R299). -/
def Core.memAddr (c : Core) (sa : BitVec 5) (off : BitVec 20) : Nat := (c.s sa + off.signExtend 64).toNat

/-- Does a format need a record in a conversion (Table 07.9)? -/
def needsRec (f : Fmt) : Bool := f.isFq || f == .fi48

end Sys2Proof.Machine

namespace Sys2Proof
open Sys2Proof.Machine

/-- The ConvF bits that R139 and Table 04.1 use. -/
def ConvF.quantFault (f : ConvF) (sf tf : Fmt) : List Nat :=
  faultIf (quantCtlFault sf tf f.qmode f.scrim.toNat) fQuant

/-- R150: is a row length no multiple of the scrim block? -/
def ConvF.scrimFault (f : ConvF) (len : Nat) : List Nat :=
  match scrimLog f.scrim.toNat with
  | some j => faultIf (j != 0 && len % 2 ^ j != 0) fScrim
  | none => []

/-- j of Table 07.10. -/
def ConvF.j (f : ConvF) : Nat := (scrimLog f.scrim.toNat).getD 0
def ConvF.qn (f : ConvF) : Nat := if f.qmode then 1 else 0

/-- The controls of a conversion, with the sign bits of draw DIAG of stream 0 (R151). -/
def ConvF.ctl (f : ConvF) (seed : BitVec 128) : ConvCtl :=
  ⟨f.qmode, f.scrim.toNat, f.fold, genDraw seed 0 f.diag.toNat⟩

/-- Statistics writes of one converted row (R95, R160). -/
def ConvF.statWrites (f : ConvF) (entry : Nat) (r : RowOut) : List Wr :=
  Wr.stat f.st.toNat entry (BitVec.ofNat 32 r.runmax) f.acc ::
  (match r.err with
   | some (sse, n) => [Wr.err f.st.toNat entry f.acc sse n]
   | none => [])

/-- Slots that a conversion to `tf` updates, as registers. -/
def ConvF.statRegs (f : ConvF) (tf : Fmt) : List Reg :=
  .st f.st.toNat :: (if tf.isFq then [.ms f.st.toNat] else [])

end Sys2Proof
end

