-- ==== Sys2Proof/Machine/Plan.lean ====
section
/-! DEFINITION. What one slot of a bundle will do, worked out from the state in its issue cycle: the faults it meets, the
registers and bytes it reads and writes, its engine, its results in flight, its action on the sequencer. The bundle's
issue (Issue.lean) checks the plans against each other and carries them out. -/
namespace Sys2Proof.Machine
open Sys2Proof

/-- What a slot does besides landing results. -/
inductive Act where
  | none
  | branch (tgt : Nat)
  | signal (ctr inc : Nat)
  | wait (w : WaitRec)
  | yield
  | halt
  | fclr (mask : AFlags)
  | dmaq (q : Nat) (sd : Nat) (addr : Nat)
  | dwait (q seq : Nat)
  | asend (route slots src dst : Nat) (ctr : Option Nat)
  | sfswap
  deriving DecidableEq, Repr

/-- One result: landing latency, writes, flags. -/
structure Res where
  lat : Nat
  wr : List Wr
  flags : AFlags
  deriving DecidableEq, Repr

structure Plan where
  /-- codes of Table 07.11 that the slot meets -/
  faults : List Nat
  /-- source registers, read in the issue cycle -/
  srcs : List Reg
  /-- destination registers with their landing latency -/
  dsts : List (Reg × Nat)
  /-- engines it occupies, with the occupancy (Table 07.10) -/
  occ : List (Engine × Nat)
  /-- core-store bytes of a T-slot or V-slot instruction: all it reads or writes, and those it writes (R296) -/
  spans : List (Nat × Nat)
  dstSpans : List (Nat × Nat)
  /-- occupancy and landing of that instruction -/
  memOcc : Nat
  memLat : Nat
  /-- core-store bytes an M-slot instruction reads -/
  loads : List (Nat × Nat)
  /-- core-store bytes an M-slot store writes, with its latency -/
  stores : List (Nat × Nat)
  storeLat : Nat
  /-- stores read, for injected errors: core store, cluster store, SFU targets (Table 05.10) -/
  rdCore : Bool
  rdClus : Bool
  rdSfu : List Nat
  res : List Res
  act : Act
  deriving DecidableEq, Repr

/-- The plan of a no-operation (R282). -/
def Plan.nop : Plan :=
  { faults := [], srcs := [], dsts := [], occ := [], spans := [], dstSpans := [], memOcc := 0, memLat := 0, loads := [],
    stores := [], storeLat := 0, rdCore := false, rdClus := false, rdSfu := [], res := [], act := .none }

/-- A plan that only faults; what the slot would read, write and occupy still meets the obligations of Table 06.2 (R219,
R323). -/
def Plan.fault (codes : List Nat) (srcs : List Reg) (dsts : List (Reg × Nat)) (occ : List Engine) : Plan :=
  { Plan.nop with faults := codes, srcs := srcs, dsts := dsts, occ := occ.map (fun e => (e, 0)) }

/-- A result in lanes of one vector register: lane, value, flags. -/
def vecRes (vd : BitVec 5) (lat : Nat) (lanes : List (Nat × Nat × AFlags)) : List Res :=
  [⟨lat, [.vreg vd.toNat (lanes.map (fun l => (l.1, BitVec.ofNat 32 l.2.1)))],
    lanes.foldl (fun f l => f ||| l.2.2) Flag.none⟩]

def sReg (r : BitVec 5) : Reg := .s r.toNat
def vReg (r : BitVec 5) : Reg := .v r.toNat
def pReg (r : BitVec 3) : Reg := .p r.toNat

end Sys2Proof.Machine
end

