-- ==== Sys2Proof/Machine/Tensor.lean ====
section
/-! DEFINITION. Plans of the T-slot instructions (Table 07.4): TMMA (chapter 03), TLD, TST, TCVT. -/
namespace Sys2Proof.Machine
open Sys2Proof

/-- An operand of TMMA read as codes less the row's zero point (R117). -/
def Core.intRow (c : Core) (f : Fmt) (w : OpWord) (k recBase i : Nat) : List Int :=
  let z := (c.recAt (recBase + 8 * i)).zpFor f
  (c.rowCodes f (w.addr + i * w.stride) k).map (fun code => codeInt f code - z)

def Core.floatRow (c : Core) (f : Fmt) (w : OpWord) (k i : Nat) : List Val :=
  (c.rowCodes f (w.addr + i * w.stride) k).map (readFloat f)

/-- All pairs (m, n) with the index of their element. -/
def gridOf {α β γ : Type} (as : List α) (bs : List β) (f : Nat → α → β → γ) : List γ :=
  (numbered as).flatMap (fun a => (numbered bs).map (fun b => f (32 * a.1 + b.1) a.2 b.2))

/-- Elements of the tile after the reduction (R101, R109, R110): index, code, flags. -/
def Core.tmmaElems (c : Core) (td : Nat) (init int : Bool) (fa fb : Fmt) (mr nr k passes : Nat)
    (wa wb wp : OpWord) : List (Nat × BitVec 48 × AFlags) :=
  let start := fun i => if init then (0 : BitVec 48) else Tbl.get 0 c.tile (1024 * td + i)
  if int then
    gridOf ((rangeFrom 0 mr).map (c.intRow fa wa k wp.addr)) ((rangeFrom 0 nr).map (c.intRow fb wb k (wp.addr + 256)))
      (fun i a b =>
        let r := dotInt (a.zip b) (start i).toInt
        (i, BitVec.ofInt 48 r.1, r.2))
  else
    gridOf ((rangeFrom 0 mr).map (c.floatRow fa wa k)) ((rangeFrom 0 nr).map (c.floatRow fb wb k))
      (fun i a b =>
        let r := dotFloat fa passes (a.zip b) ((start i).toNat % 2 ^ 32)
        (i, BitVec.ofNat 48 r.1, r.2))

/-- TMMA (R101 to R136, R285). -/
def planTmma (c : Core) (td : BitVec 3) (init : Bool) (pp : BitVec 2) (fa fb : BitVec 3) (mr nr : BitVec 5)
    (km : BitVec 12) (sa sb sp : BitVec 5) : Plan :=
  match Fmt.ofCode fa.toNat, Fmt.ofCode fb.toNat with
  | some fA, some fB =>
    match pairKind fA fB, passesOf fA pp.toNat with
    | some int, some passes =>
      let m := mr.toNat + 1
      let n := nr.toNat + 1
      let k := km.toNat + 1
      let wa := opWord (c.s sa)
      let wb := opWord (c.s sb)
      let wp := opWord (c.s sp)
      let t := td.toNat
      let faults := rowFaults wa fA.size m (k * fA.size) ++ rowFaults wb fB.size n (k * fB.size) ++
        (if int then areaFaults wp 0 (8 * m) ++ areaFaults wp 256 (8 * n) else []) ++
        faultIf (!init && c.tileFi48 t != int) fKind
      let spans := rowSpans wa m (k * fA.size) ++ rowSpans wb n (k * fB.size) ++
        (if int then [(wp.addr, 8 * m), (wp.addr + 256, 8 * n)] else [])
      let lat := passes * k + 14
      let els := c.tmmaElems t init int fA fB m n k passes wa wb wp
      { Plan.nop with
        faults := faults
        srcs := [sReg sa, sReg sb] ++ (if int then [sReg sp] else []) ++ (if init then [] else [.t t])
        dsts := [(.t t, lat)]
        occ := [(.tensor, passes * k)]
        spans := spans, memOcc := passes * k, memLat := lat, rdCore := true
        res := if faults.isEmpty then
            [⟨lat, (if init then [.tkind t int] else []) ++ [.tile t init (els.map (fun e => (e.1, e.2.1)))],
              els.foldl (fun f e => f ||| e.2.2) Flag.none⟩]
          else [] }
    | _, _ =>
      { Plan.fault [fFormat] ([sReg sa, sReg sb] ++ (if init then [] else [.t td.toNat])) [] [.tensor] with
        spans := rowSpans (opWord (c.s sa)) (mr.toNat + 1) ((km.toNat + 1) * fA.size) ++
          rowSpans (opWord (c.s sb)) (nr.toNat + 1) ((km.toNat + 1) * fB.size) }
  | _, _ => .fault [fFormat] ([sReg sa, sReg sb] ++ (if init then [] else [.t td.toNat])) [] [.tensor]

/-- A tile element read from memory: FA32 codes as words, FI48 from doubles (R76, R286). -/
def planTld (c : Core) (td fmt : BitVec 3) (sa : BitVec 5) : Plan :=
  match Fmt.ofCode fmt.toNat with
  | some f =>
    if f = .fa32 ∨ f = .fi48 then
      let w := opWord (c.s sa)
      let faults := rowFaults w f.size 32 (32 * f.size)
      let t := td.toNat
      { Plan.nop with
        faults := faults, srcs := [sReg sa], dsts := [(.t t, 40)], occ := [(.tensor, 32)]
        spans := rowSpans w 32 (32 * f.size), memOcc := 32, memLat := 40, rdCore := true
        res := if faults.isEmpty then
            [⟨40, [.tkind t (f == .fi48), .tile t true
              ((rangeFrom 0 32).flatMap (fun m =>
                (numbered (c.rowCodes f (w.addr + m * w.stride) 32)).map
                  (fun e => (32 * m + e.1, BitVec.ofNat 48 e.2))))], Flag.none⟩]
          else [] }
    else
      { Plan.fault [fFormat] [sReg sa] [(.t td.toNat, 40)] [.tensor] with
        spans := rowSpans (opWord (c.s sa)) 32 (32 * f.size), memOcc := 32, memLat := 40 }
  | none => .fault [fFormat] [sReg sa] [(.t td.toNat, 40)] [.tensor]

/-- TST (R287): 32 rows in the tile's kind. -/
def planTst (c : Core) (ts : BitVec 3) (sa : BitVec 5) : Plan :=
  let t := ts.toNat
  let f : Fmt := if c.tileFi48 t then .fi48 else .fa32
  let w := opWord (c.s sa)
  let faults := rowFaults w f.size 32 (32 * f.size)
  { Plan.nop with
    faults := faults, srcs := [sReg sa, .t t], occ := [(.tensor, 32)]
    spans := rowSpans w 32 (32 * f.size), dstSpans := rowSpans w 32 (32 * f.size), memOcc := 32, memLat := 36
    res := if faults.isEmpty then
        [⟨36, (rangeFrom 0 32).map (fun m =>
          .cstore (w.addr + m * w.stride)
            (rowBytes f ((rangeFrom 0 32).map (fun n =>
              let e := (c.tileElem t m n).toNat
              if f = .fi48 then e else e % 2 ^ 32)))), Flag.none⟩]
      else [] }

/-- The exact value of tile element (m, n) in a conversion (R78, R121, R122). A product of the scales that is not zero but
rounds to zero in FA32 sets UNF by R81, though Table 02.6 lists OVF alone for FI48 to FA32 (DESIGN CHOICE, log 101). -/
def Core.tileVal (c : Core) (t m n : Nat) (fi48 : Bool) (sA sB : RowParam) : Val :=
  let e := (c.tileElem t m n)
  if fi48 then
    if scaleValid sA.scale && scaleValid sB.scale then
      .num (Dy.mul (Dy.mul ⟨e.toInt, 0⟩ (floatValue .fa32 sA.scale)) (floatValue .fa32 sB.scale))
    else .nan
  else readFloat .fa32 (e.toNat % 2 ^ 32)

/-- One converted row of TCVT. -/
def Core.tcvtRow (c : Core) (seed : BitVec 128) (t : Nat) (fi48 : Bool) (tf : Fmt) (cv : ConvF) (nr recs m : Nat) :
    RowOut :=
  let sA := c.recAt (recs + 8 * m)
  let vs := (rangeFrom 0 nr).map (fun n => c.tileVal t m n fi48 sA (c.recAt (recs + 256 + 8 * n)))
  let p := if needsRec tf then c.recAt (recs + 512 + 8 * m) else RowParam.one
  convertRow false tf p (cv.ctl seed) vs

/-- TCVT (R121, R288, R306). -/
def planTcvt (c : Core) (seed : BitVec 128) (ts tf : BitVec 3) (cv : ConvF) (mr nr sd sr : BitVec 5) : Plan :=
  match Fmt.ofCode tf.toNat with
  | none =>
    .fault [fFormat] ([sReg sd, .t ts.toNat] ++ (if c.tileFi48 ts.toNat then [sReg sr] else []))
      [(.st cv.st.toNat, (mr.toNat + 1) * (1 + cv.qn + cv.j) + 8)] [.tensor]
  | some f =>
    let t := ts.toNat
    let fi48 := c.tileFi48 t
    let m := mr.toNat + 1
    let n := nr.toNat + 1
    let wd := opWord (c.s sd)
    let wr := opWord (c.s sr)
    let src : Fmt := if fi48 then .fi48 else .fa32
    let useRec := fi48 || needsRec f
    let dyn := f.isFq && cv.qmode
    let faults := cv.quantFault src f ++ cv.scrimFault n ++ rowFaults wd f.size m (n * f.size) ++
      (if fi48 then areaFaults wr 0 (8 * m) ++ areaFaults wr 256 (8 * n) else []) ++
      (if needsRec f then areaFaults wr 512 (8 * m) else [])
    let occ := m * (1 + cv.qn + cv.j)
    let lat := occ + 8
    let recSpan := if needsRec f then [(wr.addr + 512, 8 * m)] else []
    let rows := (rangeFrom 0 m).map (fun i => (i, c.tcvtRow seed t fi48 f cv n wr.addr i))
    { Plan.nop with
      faults := faults
      srcs := [sReg sd, .t t] ++ (if useRec then [sReg sr] else [])
      dsts := (cv.statRegs f).map (fun r => (r, lat))
      occ := [(.tensor, occ)]
      spans := rowSpans wd m (n * f.size) ++ (if fi48 then [(wr.addr, 8 * m), (wr.addr + 256, 8 * n)] else []) ++ recSpan
      dstSpans := rowSpans wd m (n * f.size) ++ (if dyn then recSpan else [])
      memOcc := occ, memLat := lat, rdCore := useRec
      res := if faults.isEmpty then
          [⟨lat, rows.flatMap (fun ir =>
              [Wr.cstore (wd.addr + ir.1 * wd.stride) (rowBytes f ir.2.codes)] ++
              (match ir.2.record with
               | some p => [Wr.cstore (wr.addr + 512 + 8 * ir.1) (leBytes p.toDouble 8)]
               | none => []) ++ cv.statWrites ir.1 ir.2),
            rows.foldl (fun fl ir => fl ||| ir.2.flags) Flag.none⟩]
        else [] }

/-- The plan of a T slot. -/
def planT (c : Core) (seed : BitVec 128) : TSlot → Plan
  | .nop => .nop
  | .tmma td init pp fa fb mr nr km sa sb sp => planTmma c td init pp fa fb mr nr km sa sb sp
  | .tld td fmt sa => planTld c td fmt sa
  | .tst ts sa => planTst c ts sa
  | .tcvt ts tf cv mr nr sd sr => planTcvt c seed ts tf cv mr nr sd sr

end Sys2Proof.Machine
end

