-- ==== Sys2Proof/Machine/Context.lean ====
section
/-! DEFINITION. The register context of one core as bytes (R255, Table 06.8) and its place in the cluster's save area. The
items stand in the order of the table; the order within the item of 256 bytes is the model's (DESIGN CHOICE, log 34). -/
namespace Sys2Proof.Machine
open Sys2Proof

/-- Offsets of the items of Table 06.8. -/
def ctxVec : Nat := 0x100
def ctxPred : Nat := 0x2100
def ctxTile : Nat := 0x2140
def ctxMisc : Nat := 0x12140
def ctxStat : Nat := 0x12240
def ctxErr : Nat := 0x13240
def ctxSize : Nat := 0x15240

/-- CSQ_STEP of a core (R260). -/
def Core.step (c : Core) (now : Nat) : BitVec 64 :=
  match c.stepFrom with
  | some t => BitVec.ofNat 64 (now - t)
  | none => c.stepHeld

/-- The items of the context of a core in cycle `now`: offset and bytes of what is not zero. A pending branch takes 16 bytes:
its issue index, its target, and a byte 1. -/
def Core.contextItems (now : Nat) (c : Core) : List (Nat × List Byte) :=
  List.map (fun e => (8 * e.1, leBytes e.2.toNat 8)) c.sreg ++
  List.map (fun e => (ctxVec + 4 * e.1, leBytes e.2.toNat 4)) c.vreg ++
  List.map (fun e => (ctxPred + 8 * e.1, leBytes e.2.toNat 8)) c.preg ++
  List.map (fun e => (ctxTile + 8 * e.1, leBytes e.2.toNat 8)) c.tile ++
  List.map (fun e => (ctxMisc + e.1, [if e.2 then 1 else 0])) c.tkind ++
  [(ctxMisc + 8, leBytes c.aflags.toNat 1), (ctxMisc + 10, leBytes c.pc 2), (ctxMisc + 12, leBytes c.ycount.toNat 2),
   (ctxMisc + 16, leBytes (c.step now).toNat 8), (ctxMisc + 24, leBytes c.issued.toNat 8)] ++
  (numbered c.brq).map (fun e => (ctxMisc + 32 + 16 * e.1, leBytes e.2.1 8 ++ leBytes e.2.2 2 ++ [0, 0, 0, 0, 0, 1])) ++
  List.map (fun e => (ctxStat + 4 * e.1, leBytes e.2.toNat 4)) c.stat ++
  List.map (fun e => (ctxErr + 8 * e.1, leBytes e.2.mse.toNat 4 ++ leBytes e.2.count.toNat 4)) c.err

/-- The context of a core in cycle `now`. -/
def Core.context (now : Nat) (c : Core) : Memory :=
  (c.contextItems now).foldl (fun m e => Memory.write e.1 e.2 m) []

/-- Put one byte of a saved context back into its register. -/
def Core.contextByte (c : Core) (o : Nat) (b : Byte) : Core :=
  if o < ctxVec then { c with sreg := Tbl.upd 0 (o / 8) (fun w => setByteOf w (o % 8) b) c.sreg }
  else if o < ctxPred then { c with vreg := Tbl.upd 0 ((o - ctxVec) / 4) (fun w => setByteOf w ((o - ctxVec) % 4) b) c.vreg }
  else if o < ctxTile then { c with preg := Tbl.upd 0 ((o - ctxPred) / 8) (fun w => setByteOf w ((o - ctxPred) % 8) b) c.preg }
  else if o < ctxMisc then { c with tile := Tbl.upd 0 ((o - ctxTile) / 8) (fun w => setByteOf w ((o - ctxTile) % 8) b) c.tile }
  else if o < ctxMisc + 8 then { c with tkind := Tbl.set false (o - ctxMisc) (b != 0) c.tkind }
  else if o < ctxStat then c
  else if o < ctxErr then { c with stat := Tbl.upd 0 ((o - ctxStat) / 4) (fun w => setByteOf w ((o - ctxStat) % 4) b) c.stat }
  else if o < ctxSize then
    { c with err := Tbl.upd ErrEntry.zero ((o - ctxErr) / 8) (fun e =>
        if (o - ctxErr) % 8 < 4 then { e with mse := setByteOf e.mse ((o - ctxErr) % 8) b }
        else { e with count := setByteOf e.count ((o - ctxErr) % 8 - 4) b }) c.err }
  else c

/-- A core with the registers, flags, counts and branches of a saved context. -/
def Core.withContext (m : Memory) (c : Core) : Core :=
  let f := fun o n => m.le (ctxMisc + o) n
  let c : Core := { c with
    sreg := [], vreg := [], preg := [], tile := [], tkind := [], stat := [], err := [], aflags := BitVec.ofNat 4 (f 8 1)
    pc := f 10 2, ycount := BitVec.ofNat 16 (f 12 2), stepHeld := BitVec.ofNat 64 (f 16 8), issued := BitVec.ofNat 64 (f 24 8)
    brq := ((rangeFrom 0 13).filter (fun i => f (47 + 16 * i) 1 == 1)).map (fun i => (f (32 + 16 * i) 8, f (40 + 16 * i) 2)) }
  m.foldl (fun c e => c.contextByte e.1 e.2) c

/-- Offset in the cluster store of the save area of logical core `i` (R255). -/
def saveBase (i : Nat) : Nat := 0x680000 + i * 0x18000

/-- A cluster store with a context in the save area of logical core `i`. -/
def saveContext (i : Nat) (m store : Memory) : Memory :=
  Tbl.keep (fun k _ => decide (k < saveBase i)) store ++
    List.map (fun e => (e.1 + saveBase i, e.2)) (Tbl.keep (fun k _ => decide (k < 0x18000)) m) ++
    Tbl.keep (fun k _ => decide (saveBase i + 0x18000 ≤ k)) store

/-- The context that lies in the save area of logical core `i`. -/
def savedContext (i : Nat) (store : Memory) : Memory :=
  List.map (fun e => (e.1 - saveBase i, e.2))
    (Tbl.keep (fun k _ => decide (saveBase i ≤ k) && decide (k < saveBase i + 0x18000)) store)

/-- The context of a core of a suspended job: in the plinth save region, else in its cluster's save area (R255, R257). -/
def State.contextOf (s : State) (v : SavedCore) : Memory :=
  match v.ctx with
  | some m => m
  | none => savedContext (v.key % 16) (s.clu (v.key / 16)).store

end Sys2Proof.Machine
end

