-- ==== Sys2Proof/Machine/Armature.lean ====
section
/-! DEFINITION. The armature: the mesh (R24), slot tables and the paths of static slots (R37 to R45, R594 to R596). -/
namespace Sys2Proof.Machine
open Sys2Proof

/-- Links between two pedestals along the row, then the column (R43). -/
def hops (a b : Nat) : Nat :=
  (if a % 5 < b % 5 then b % 5 - a % 5 else a % 5 - b % 5) + (if a / 5 < b / 5 then b / 5 - a / 5 else a / 5 - b / 5)

/-- The neighbour of pedestal `p` on output `o` (0 north, 1 south, 2 west, 3 east). -/
def neighbour (p o : Nat) : Option Nat :=
  match o with
  | 0 => if p < 5 then none else some (p - 5)
  | 1 => if p < 15 then some (p + 5) else none
  | 2 => if p % 5 = 0 then none else some (p - 1)
  | 3 => if p % 5 = 4 then none else some (p + 1)
  | _ => none

/-- The SRC code by which a neighbour receives what output `o` drives: the opposite link. -/
def arrivalSrc (o : Nat) : Nat :=
  match o with
  | 0 => 2 | 1 => 1 | 2 => 4 | _ => 3

/-- A slot image as a function of the byte offset of a half. -/
def imageHalf (img : Option Memory) (off : Nat) : Nat :=
  match img with
  | some m => m.le off 2
  | none => (Config.defaultSlotHalf (off / 2)).toNat

def fwdHalf (img : Option Memory) (p k o : Nat) : Nat := imageHalf img (((p * 4096 + k) * 5 + o) * 2)
def injHalf (img : Option Memory) (p k : Nat) : Nat := imageHalf img (0xC8000 + (p * 4096 + k) * 2)

/-- What a path turns out to be: the links crossed, the pedestal reached and the niches its entries name. -/
structure Path where
  links : Nat
  dest : Nat
  niches : List Nat
  deriving DecidableEq, Repr

/-- Outputs of switch `p` in slot `k` whose source is `src`. -/
def outputsFrom (img : Option Memory) (p k src : Nat) : List Nat :=
  (rangeFrom 0 5).filter (fun o => bits (fwdHalf img p k o) 2 0 == src)

/-- Follow one slot from switch `p`, slot `k`, entered from source `src` (R595); none when R596 refuses the path. -/
def tracePath (img : Option Memory) (d : Nat) : Nat → Nat → Nat → Nat → Nat → List Nat → Option Path
  | 0, _, _, _, _, _ => none
  | fuel + 1, p, k, src, links, ns =>
    match outputsFrom img p k src with
    | [o] =>
      let e := fwdHalf img p k o
      let ns := bits e 12 8 :: ns
      if k < d ∨ !bitAt e 15 then none
      else if o = 4 then some ⟨links, p, ns⟩
      else match neighbour p o with
        | none => none
        | some q => tracePath img d fuel q ((k + 3) % 4096) (arrivalSrc o) (links + 1) ns
    | _ => none

/-- The path of slot `k` of pedestal `p`; at most 16 links. -/
def slotPath (img : Option Memory) (d p k : Nat) : Option Path := tracePath img d 17 p k 5 0 []

/-- Is slot `k` of pedestal `p` a slot of `route` from cluster `c` (R595)? -/
def isRouteSlot (img : Option Memory) (d p c route k : Nat) : Bool :=
  let e := injHalf img p k
  decide (d ≤ k) && bitAt e 15 && bits e 11 0 == route && bits e 14 12 == c

/-- The slots of a route in one frame, ascending (R316). -/
def routeSlots (img : Option Memory) (d p c route : Nat) : List Nat :=
  (rangeFrom d (4096 - d)).filter (isRouteSlot img d p c route)

/-- Does niche `n` own the route (R42, R595)? -/
def routeOwned (img : Option Memory) (d p c route n : Nat) : Bool :=
  let ks := routeSlots img d p c route
  !ks.isEmpty && ks.all (fun k =>
    match slotPath img d p k with
    | some path => path.niches.all (· == n)
    | none => false)

/-- The links of a route's slot. -/
def routeLinks (img : Option Memory) (d p k : Nat) : Nat :=
  match slotPath img d p k with
  | some path => path.links
  | none => 0

/-- The outputs that carry a static slot: pedestal and output, along its path. -/
def pathOuts (img : Option Memory) : Nat → Nat → Nat → Nat → List (Nat × Nat)
  | 0, _, _, _ => []
  | fuel + 1, p, k, src =>
    match outputsFrom img p k src with
    | [o] => (p, o) :: (match neighbour p o with
      | some q => if o = 4 then [] else pathOuts img fuel q ((k + 3) % 4096) (arrivalSrc o)
      | none => [])
    | _ => []

/-- The outputs that carry a slot of the dynamic share from `a` to `b`: along the row, then the column, then local (R43). -/
def dynOuts : Nat → Nat → Nat → List (Nat × Nat)
  | 0, _, _ => []
  | fuel + 1, a, b =>
    if a % 5 < b % 5 then (a, 3) :: dynOuts fuel (a + 1) b
    else if b % 5 < a % 5 then (a, 2) :: dynOuts fuel (a - 1) b
    else if a / 5 < b / 5 then (a, 1) :: dynOuts fuel (a + 5) b
    else if b / 5 < a / 5 then (a, 0) :: dynOuts fuel (a - 5) b
    else [(b, 4)]

/-- A slot carried over these outputs meets the first armed AMT_INJ_SLOT among them (R649): whether it is lost, and the
state after. -/
def State.slotFails (outs : List (Nat × Nat)) (s : State) : Bool × State :=
  match outs.find? (fun x => s.arm (amtBlock x.1) x.2 != 0) with
  | none => (false, s)
  | some (p, o) =>
    let a := s.arm (amtBlock p) o
    let s := s.disarm (amtBlock p) o
    if a = 1 then (false, s.errCE (Rec.base 0x0D 0 0 (some p) none)) else (true, s)

end Sys2Proof.Machine
end

