-- ==== Sys2Proof/Machine/Vector.lean ====
section
/-! DEFINITION. Plans of the V-slot instructions (Table 07.5). -/
namespace Sys2Proof.Machine
open Sys2Proof

/-- A lane operation on one vector engine cycle (Table 07.10). -/
def lanePlan (c : Core) (vd : BitVec 5) (srcs : List Reg) (pr : BitVec 4) (lat : Nat) (f : Nat → Nat × AFlags) : Plan :=
  { Plan.nop with
    srcs := srcs ++ prReg pr, dsts := [(vReg vd, lat)], occ := [(.vector, 1)]
    res := vecRes vd lat ((c.actives pr).map (fun l => (l, f l))) }

/-- FA32 lane arithmetic (R170, R171, R300). -/
def FOp.eval (op : FOp) (a b c : Nat) : Nat × AFlags :=
  match op with
  | .add => fadd a b
  | .sub => fsub a b
  | .mul => fmul a b
  | .div => fdiv a b
  | .fma => ffma a b c
  | .min => fmin a b
  | .max => fmax a b

/-- VADD to VMAX. -/
def planFarith (c : Core) (op : FOp) (vd va vb vc : BitVec 5) (pr : BitVec 4) : Plan :=
  let srcs := [vReg va, vReg vb] ++ (if op = .fma then [vReg vc] else [])
  let p := lanePlan c vd srcs pr (if op = .div then 12 else 4)
    (fun l => FOp.eval op (c.lane va l).toNat (c.lane vb l).toNat (c.lane vc l).toNat)
  if op ≠ .fma ∧ vc ≠ 0 then { p with faults := [fIllegal], res := [] } else p

/-- 32-bit integer lane operations (R302). -/
def IOp.eval (op : IOp) (a b : BitVec 32) : BitVec 32 :=
  match op with
  | .add => a + b
  | .sub => a - b
  | .mul => a * b
  | .and => a &&& b
  | .or => a ||| b
  | .xor => a ^^^ b
  | .shl => a <<< (b.toNat % 32)
  | .shr => a >>> (b.toNat % 32)
  | .sar => a.sshiftRight (b.toNat % 32)
  | .min => if a.slt b then a else b
  | .max => if a.slt b then b else a

def planIarith (c : Core) (op : IOp) (vd va vb : BitVec 5) (pr : BitVec 4) : Plan :=
  lanePlan c vd [vReg va, vReg vb] pr 2 (fun l => ((IOp.eval op (c.lane va l) (c.lane vb l)).toNat, Flag.none))

/-- The 64 bits whose bit l is `f l`. -/
def laneBits (f : Nat → Bool) : BitVec 64 :=
  BitVec.ofNat 64 (lanes64.foldl (fun v l => if f l then v + 2 ^ l else v) 0)

/-- VCMP (R301): inactive lanes' bits are written 0. -/
def planCmp (c : Core) (pd : BitVec 3) (va vb : BitVec 5) (cc : BitVec 3) (pr : BitVec 4) : Plan :=
  let r := fun l => if c.activeLane pr l then laneCmp cc.toNat (c.lane va l) (c.lane vb l) else (false, Flag.none)
  { Plan.nop with
    srcs := [vReg va, vReg vb] ++ prReg pr, dsts := [(pReg pd, 2)], occ := [(.vector, 1)]
    res := [⟨2, [.preg pd.toNat (laneBits (fun l => (r l).1))], orFlags (lanes64.map r)⟩] }

/-- VSEL. -/
def planSel (c : Core) (vd va vb : BitVec 5) (pr : BitVec 4) : Plan :=
  { Plan.nop with
    srcs := [vReg va, vReg vb] ++ prReg pr, dsts := [(vReg vd, 2)], occ := [(.vector, 1)]
    res := vecRes vd 2 (lanes64.map (fun l => (l, (if c.activeLane pr l then c.lane va l else c.lane vb l).toNat,
      Flag.none))) }

/-- VBCAST. -/
def planBcast (c : Core) (vd sa : BitVec 5) : Plan :=
  { Plan.nop with
    srcs := [sReg sa], dsts := [(vReg vd, 2)], occ := [(.vector, 1)]
    res := vecRes vd 2 (lanes64.map (fun l => (l, (c.s sa).toNat % 2 ^ 32, Flag.none))) }

/-- VEXT. -/
def planExt (c : Core) (sd va : BitVec 5) (lane : BitVec 6) : Plan :=
  { Plan.nop with
    srcs := [vReg va], dsts := [(sReg sd, 2)], occ := [(.vector, 1)]
    res := [⟨2, [.sreg sd.toNat ((c.lane va lane.toNat).setWidth 64)], Flag.none⟩] }

/-- VIPSUM (R303). -/
def planIpsum (c : Core) (vd va : BitVec 5) (pr : BitVec 4) : Plan :=
  lanePlan c vd [vReg va] pr 4 (fun l =>
    (((c.actives pr).foldl (fun (s : BitVec 32) i => if i ≤ l then s + c.lane va i else s) 0).toNat, Flag.none))

/-- VCVT (R304). -/
def planCvt (c : Core) (seed : BitVec 128) (vd vs : BitVec 5) (sf tf : BitVec 3) (e : BitVec 6) (cv : ConvF)
    (sr : BitVec 5) : Plan :=
  let lat := 6 + 2 * cv.qn + cv.j
  match Fmt.ofCode sf.toNat, Fmt.ofCode tf.toNat with
  | some fs, some ft =>
    let dyn := ft.isFq && cv.qmode
    let reads := (fs.isFq || ft.isFq) && !dyn
    let faults := faultIf (fs == .fi48 || ft == .fi48 || (fs.isFq && ft.isFq)) fFormat ++ cv.quantFault fs ft ++
      cv.scrimFault 64
    let rec0 := RowParam.ofDouble (c.s sr).toNat
    let vals := lanes64.map (fun l => elemVal fs rec0 (laneCode fs (c.lane vs l)))
    let out := convertRow fs.isFq ft rec0 (cv.ctl seed) vals
    { Plan.nop with
      faults := faults
      srcs := [vReg vs] ++ (if reads then [sReg sr] else [])
      dsts := [(vReg vd, lat)] ++ (cv.statRegs ft).map (fun r => (r, lat)) ++ (if dyn then [(sReg sr, lat)] else [])
      occ := [(.vector, 1 + cv.qn)]
      res := if faults.isEmpty then
          [⟨lat, [Wr.vreg vd.toNat ((numbered out.codes).map (fun x => (x.1, BitVec.ofNat 32 x.2)))] ++
            (match out.record with
             | some p => [Wr.sreg sr.toNat (BitVec.ofNat 64 p.toDouble)]
             | none => []) ++ cv.statWrites e.toNat out, out.flags⟩]
        else [] }
  | _, _ => .fault [fFormat] [vReg vs] [(vReg vd, lat), (.st cv.st.toNat, lat)] [.vector]

/-- One row of VCVTR (R305 to R307). -/
def Core.cvtrRow (c : Core) (seed : BitVec 128) (fs ft : Fmt) (cv : ConvF) (norec : Bool) (ws : OpWord) (recs len r : Nat) :
    RowOut :=
  let pin := if needsRec fs && !norec then c.recAt (recs + 8 * r) else RowParam.one
  let pout := if needsRec ft && !norec then c.recAt (recs + 512 + 8 * r) else RowParam.one
  convertRow fs.isFq ft pout (cv.ctl seed) ((c.rowCodes fs (ws.addr + r * ws.stride) len).map (elemVal fs pin))

/-- VCVTR (R305 to R307). Every fault that the operands meet is listed, whatever L and ROWS are (R323). Rows land in order,
each row's codes before its record: that order shows only where a record area lies over code rows (DESIGN CHOICE, log 102). -/
def planCvtr (c : Core) (seed : BitVec 128) (sf tf : BitVec 3) (cv : ConvF) (norec : Bool) (ss sd sr sh : BitVec 5) : Plan :=
  match Fmt.ofCode sf.toNat, Fmt.ofCode tf.toNat with
  | some fs, some ft =>
    let len := bits (c.s sh).toNat 13 0
    let rows := bits (c.s sh).toNat 22 16
    let ws := opWord (c.s ss)
    let wd := opWord (c.s sd)
    let wr := opWord (c.s sr)
    let inRec := needsRec fs && !norec
    let outRec := needsRec ft && !norec
    let dyn := ft.isFq && cv.qmode
    let okLen := decide (1 ≤ len) && decide (len ≤ 8192) && decide (1 ≤ rows) && decide (rows ≤ 64)
    let faults := faultIf (norec && (fs.isFq || ft.isFq)) fIllegal ++ cv.quantFault fs ft ++
      faultIf (!okLen) fRowLen ++ cv.scrimFault len ++ rowFaults ws fs.size rows (len * fs.size) ++
      rowFaults wd ft.size rows (len * ft.size) ++ (if inRec then areaFaults wr 0 (8 * rows) else []) ++
      (if outRec then areaFaults wr 512 (8 * rows) else [])
    let occ := rows * ((len + 63) / 64 * (1 + cv.qn) + cv.j)
    let lat := occ + 8
    let inSpan := if inRec then [(wr.addr, 8 * rows)] else []
    let outSpan := if outRec then [(wr.addr + 512, 8 * rows)] else []
    let outs := (rangeFrom 0 rows).map (fun r => (r, c.cvtrRow seed fs ft cv norec ws wr.addr len r))
    { Plan.nop with
      faults := faults
      srcs := [sReg ss, sReg sd, sReg sh] ++ (if inRec || outRec then [sReg sr] else [])
      dsts := (cv.statRegs ft).map (fun r => (r, lat))
      occ := [(.vector, occ)]
      spans := rowSpans ws rows (len * fs.size) ++ rowSpans wd rows (len * ft.size) ++ inSpan ++ outSpan
      dstSpans := rowSpans wd rows (len * ft.size) ++ (if dyn then outSpan else [])
      memOcc := occ, memLat := lat, rdCore := true
      res := if faults.isEmpty then
          [⟨lat, outs.flatMap (fun ir =>
              [Wr.cstore (wd.addr + ir.1 * wd.stride) (rowBytes ft ir.2.codes)] ++
              (match ir.2.record with
               | some p => [Wr.cstore (wr.addr + 512 + 8 * ir.1) (leBytes p.toDouble 8)]
               | none => []) ++ cv.statWrites ir.1 ir.2),
            outs.foldl (fun fl ir => fl ||| ir.2.flags) Flag.none⟩]
        else [] }
  | a, b => .fault (fFormat :: faultIf (norec && ((a.map Fmt.isFq).getD false || (b.map Fmt.isFq).getD false)) fIllegal)
      [sReg ss, sReg sd, sReg sh] [] [.vector]

/-- Formats that an SFU function allows (R173, R208). -/
def sfuFormats (k : SfuKind) (fs ft : Fmt) : Bool :=
  match k with
  | .native => fs.isFloat && ft.isFloat
  | .user _ => fs.isFloat && ft.isFloat
  | .rt8 => fs.isFloat && ft.isFloat && fs != .fe8 && ft != .fe8
  | .reserved => false

/-- Which stores an SFU function reads (Table 05.10): 0 steps and entries, 1 tables, 2 ROM. -/
def sfuTargets (b : SfuBank) (k : SfuKind) : List Nat :=
  match k with
  | .user j =>
    let w := (Tbl.get 0 b.entries j).toNat
    0 :: (if (rangeFrom (entryStart w) (entryCount w)).any (fun i => bits (Tbl.get 0 b.steps (i % 4096)).toNat 63 61 = 0)
      then [1] else [])
  | _ => [2]

/-- VSFU (R172 to R183, R193 to R196, R201). -/
def planSfu (c : Core) (fn : BitVec 6) (vd vs : BitVec 5) (sf tf : BitVec 3) (pr : BitVec 4) : Plan :=
  match Fmt.ofCode sf.toNat, Fmt.ofCode tf.toNat with
  | some fs, some ft =>
    let k := sfuKind fn.toNat
    let b := c.bank
    let entry := match k with | .user j => (Tbl.get 0 b.entries j).toNat | _ => 0
    let empty := match k with | .user _ => entryCount entry == 0 | _ => false
    let faults := faultIf (!sfuFormats k fs ft) fFormat ++ faultIf empty fSfuEntry
    let passes := sfuPasses fn.toNat ft entry
    let lat := 8 * passes + 10
    let f := fun (v : Val) => match k with
      | .user _ => userSfu b.steps b.table entry ft v
      | .rt8 => rt8Sfu fn.toNat fs ft v
      | _ => nativeSfu fn.toNat ft v
    { Plan.nop with
      faults := faults, srcs := vReg vs :: prReg pr, dsts := [(vReg vd, lat)], occ := [(.sfu, 8 * passes)]
      rdSfu := sfuTargets b k
      res := if faults.isEmpty then
          vecRes vd lat ((c.actives pr).map (fun l => (l, f (readFloat fs (laneCode fs (c.lane vs l))))))
        else [] }
  | _, _ => .fault [fFormat] (vReg vs :: prReg pr) [] [.sfu]

/-- D of Table 07.10. -/
def depthOf (ft : Fmt) : Nat := if ft = .fa32 then 4 else 2

/-- What VSMAX and VNORM share: one row of `len` elements in, one out (R184, R187, R308). -/
def rowPlan (fs ft : Fmt) (ws wd : OpWord) (len base tail : Nat) (srcs : List Reg)
    (gf : List Nat) (gs : List (Nat × Nat)) (out : List Nat × AFlags) : Plan :=
  let okLen := decide (1 ≤ len) && decide (len ≤ 8192)
  let faults := faultIf (!(fs.isFloat && ft.isFloat)) fFormat ++ faultIf (!okLen) fRowLen ++
    rowFaults ws fs.size 1 (len * fs.size) ++ rowFaults wd ft.size 1 (len * ft.size) ++ gf
  let occ := (len + 63) / 64 * (base + depthOf ft) + tail
  { Plan.nop with
    faults := faults, srcs := srcs, occ := [(.vector, occ), (.sfu, occ)]
    spans := [(ws.addr, len * fs.size), (wd.addr, len * ft.size)] ++ gs, dstSpans := [(wd.addr, len * ft.size)]
    memOcc := occ, memLat := occ + 10, rdCore := true, rdSfu := [2]
    res := if faults.isEmpty then [⟨occ + 10, [.cstore wd.addr (rowBytes ft out.1)], out.2⟩] else [] }

/-- VSMAX (R184 to R187). -/
def planSmax (c : Core) (sf tf : BitVec 3) (ss sd sh : BitVec 5) : Plan :=
  match Fmt.ofCode sf.toNat, Fmt.ofCode tf.toNat with
  | some fs, some ft =>
    let len := bits (c.s sh).toNat 13 0
    let ws := opWord (c.s ss)
    rowPlan fs ft ws (opWord (c.s sd)) len 18 12 [sReg ss, sReg sd, sReg sh] [] []
      (softmaxRow ft ((c.rowCodes fs ws.addr len).map (readFloat fs)))
  | _, _ => .fault [fFormat] [sReg ss, sReg sd, sReg sh] [] [.vector, .sfu]

/-- VNORM (R188 to R190, R308, R793). -/
def planNorm (c : Core) (sf tf : BitVec 3) (ss sd sh se : BitVec 5) (gb : Bool) (sg : BitVec 5) : Plan :=
  match Fmt.ofCode sf.toNat, Fmt.ofCode tf.toNat with
  | some fs, some ft =>
    let len := bits (c.s sh).toNat 13 0
    let ws := opWord (c.s ss)
    let ga := bits (c.s sg).toNat 23 0
    let gs := if gb then c.rowCodes .fa32 ga len else List.replicate len 0x3F800000
    let bs := if gb then c.rowCodes .fa32 (ga + 4 * len) len else List.replicate len 0
    rowPlan fs ft ws (opWord (c.s sd)) len 10 40
      ([sReg ss, sReg sd, sReg sh, sReg se] ++ (if gb then [sReg sg] else []))
      (if gb then rowFaults (opWord (c.s sg)) 4 1 (8 * len) else [])
      (if gb then [(ga, 8 * len)] else [])
      (normRow ft ((c.rowCodes fs ws.addr len).map (readFloat fs)) ((c.s se).toNat % 2 ^ 32) gs bs)
  | _, _ => .fault [fFormat] ([sReg ss, sReg sd, sReg sh, sReg se] ++ (if gb then [sReg sg] else [])) [] [.vector, .sfu]

/-- SFSWAP (R199, R200): the exchange, once no write to the shadow bank is outstanding. -/
def planSfswap : Plan := { Plan.nop with occ := [(.sfu, 1)], act := .sfswap }

/-- What VBOXD and VNMS share (R309). The parameter area is an operand of FA32 words, so R279 asks for multiples of 4 in ADDR
and STRIDE (DEDUCED, log 103). -/
def boxPlan (n rowOut outLen : Nat) (ws wd wp : OpWord) (paLen rowIn occ : Nat) (srcs : List Reg)
    (out : List (Nat × List Nat)) (flags : AFlags) (rom : List Nat) : Plan :=
  let okN := decide (1 ≤ n) && decide (n ≤ 8192)
  let faults := faultIf (!okN) fRowLen ++ rowFaults ws 4 n rowIn ++ rowFaults wd 4 rowOut outLen ++ rowFaults wp 4 1 paLen
  { Plan.nop with
    faults := faults, srcs := srcs, occ := [(.vector, occ)]
    spans := rowSpans ws n rowIn ++ rowSpans wd rowOut outLen ++ [(wp.addr, paLen)], dstSpans := rowSpans wd rowOut outLen
    memOcc := occ, memLat := occ + 10, rdCore := true, rdSfu := rom
    res := if faults.isEmpty then
        [⟨occ + 10, out.map (fun r => Wr.cstore (wd.addr + r.1 * wd.stride) (rowBytes .fa32 r.2)), flags⟩]
      else [] }

/-- VBOXD (R354, R355). -/
def planBoxd (c : Core) (ss sd sh sp : BitVec 5) : Plan :=
  let n := bits (c.s sh).toNat 13 0
  let ws := opWord (c.s ss)
  let pa := bits (c.s sp).toNat 23 0
  let w := fun i => c.cstore.le (pa + 4 * i) 4
  let p : BoxParam := ⟨w 0, w 1, w 2, w 3, w 4, w 5, w 6, w 7 % 2 == 1⟩
  let outs := (rangeFrom 0 n).map (fun i => (i, boxDecode p (c.rowCodes .fa32 (ws.addr + i * ws.stride) 8)))
  boxPlan n n 16 ws (opWord (c.s sd)) (opWord (c.s sp)) 32 32 ((n + 63) / 64 * 8 + 8) [sReg ss, sReg sd, sReg sh, sReg sp]
    (outs.map (fun o => (o.1, o.2.1))) (outs.foldl (fun f o => f ||| o.2.2) Flag.none) [2]

/-- VNMS (R356 to R359). -/
def planNms (c : Core) (ss sd sh sp : BitVec 5) : Plan :=
  let n := bits (c.s sh).toNat 13 0
  let ws := opWord (c.s ss)
  let pa := bits (c.s sp).toNat 23 0
  let w := fun i => c.cstore.le (pa + 4 * i) 4
  let box := fun i =>
    let g := fun j => c.cstore.le (ws.addr + i * ws.stride + 4 * j) 4
    (⟨i, g 0, g 1, g 2, g 3, g 4, g 5⟩ : NBox)
  let out := nmsRow (w 0) (w 1) (w 2) (w 3 % 2 == 1) ((rangeFrom 0 n).map box)
  boxPlan n 1 (4 * (n + 1)) ws (opWord (c.s sd)) (opWord (c.s sp)) 16 24 ((n + 63) / 64 * n + 24) [sReg ss, sReg sd, sReg sh, sReg sp]
    [(0, out.1)] out.2 []

/-- VRNG (R310, R379). -/
def planRng (c : Core) (seed : BitVec 128) (vd si : BitVec 5) (stream : BitVec 4) : Plan :=
  { Plan.nop with
    srcs := [sReg si], dsts := [(vReg vd, 6)], occ := [(.vector, 1)]
    res := vecRes vd 6 ((rangeFrom 0 16).flatMap (fun q =>
      let d := genDraw seed stream.toNat (((c.s si).toNat + q) % 2 ^ 64)
      (rangeFrom 0 4).map (fun w => (4 * q + w, d / 2 ^ (32 * w) % 2 ^ 32, Flag.none)))) }

/-- The value that SEL chooses (R311). -/
def Core.statSel (c : Core) (sel slot entry : Nat) : BitVec 32 :=
  match sel with
  | 0 => c.statE slot entry
  | 1 => (c.errE slot entry).mse
  | _ => (c.errE slot entry).count

def selReg (sel slot : Nat) : Reg := if sel = 0 then .st slot else .ms slot

/-- VGETST (R311); SEL 0b11 is reserved. -/
def planGetst (c : Core) (vd : BitVec 5) (sel : BitVec 2) (slot : BitVec 4) : Plan :=
  if sel = 3 then .fault [fIllegal] [] [(vReg vd, 6)] [.vector]
  else
    { Plan.nop with
      srcs := [selReg sel.toNat slot.toNat], dsts := [(vReg vd, 6)], occ := [(.vector, 1)]
      res := vecRes vd 6 (lanes64.map (fun l => (l, (c.statSel sel.toNat slot.toNat l).toNat, Flag.none))) }

/-- The plan of a V slot. -/
def planV (c : Core) (seed : BitVec 128) : VSlot → Plan
  | .nop => .nop
  | .farith op vd va vb vc pr => planFarith c op vd va vb vc pr
  | .cmp pd va vb cc pr => planCmp c pd va vb cc pr
  | .sel vd va vb pr => planSel c vd va vb pr
  | .bcast vd sa => planBcast c vd sa
  | .ext sd va lane => planExt c sd va lane
  | .iarith op vd va vb pr => planIarith c op vd va vb pr
  | .ipsum vd va pr => planIpsum c vd va pr
  | .cvt vd vs sf tf e cv sr => planCvt c seed vd vs sf tf e cv sr
  | .cvtr sf tf cv norec ss sd sr sh => planCvtr c seed sf tf cv norec ss sd sr sh
  | .sfu fn vd vs sf tf pr => planSfu c fn vd vs sf tf pr
  | .smax sf tf ss sd sh => planSmax c sf tf ss sd sh
  | .norm sf tf ss sd sh se gb sg => planNorm c sf tf ss sd sh se gb sg
  | .sfswap => planSfswap
  | .boxd ss sd sh sp => planBoxd c ss sd sh sp
  | .nms ss sd sh sp => planNms c ss sd sh sp
  | .rng vd si stream => planRng c seed vd si stream
  | .getst vd sel slot => planGetst c vd sel slot

end Sys2Proof.Machine
end

