-- ==== Sys2Proof/Machine/MemSlot.lean ====
section
/-! DEFINITION. Plans of the M-slot instructions (Table 07.6) and the C-slot instructions (Table 07.7). -/
namespace Sys2Proof.Machine
open Sys2Proof

/-- An access of `n` bytes of elements of `sz` bytes at a local address: its place and its faults (R277, R290). -/
def accessFaults (a n sz : Nat) : List Nat := faultIf (a % sz != 0) fMisaligned ++ faultIf (localPlace a n == .bad) fStore

/-- Bytes that a load of core `key` reads (R294). -/
def State.localBytes (s : State) (key a n : Nat) : List Byte :=
  match localPlace a n with
  | .core a => (s.core key).cstore.bytes a n
  | .cluster o => (s.clu (clusOfCore key)).store.bytes o n
  | .bad => []

/-- Landing latency of a load and of a store, by place (Table 07.10). -/
def loadLat (a n : Nat) : Nat := match localPlace a n with | .cluster _ => 14 | _ => 6
def storeLat (a n : Nat) : Nat := match localPlace a n with | .cluster _ => 6 | _ => 2

/-- The core-store span of an access. -/
def coreSpan (a n : Nat) : List (Nat × Nat) := match localPlace a n with | .core a => [(a, n)] | _ => []

/-- The bytes of a store as a write. -/
def localWr (a : Nat) (bs : List Byte) : List Wr :=
  match localPlace a bs.length with
  | .core a => [.cstore a bs]
  | .cluster o => [.clstore o bs]
  | .bad => []

/-- A load of `n` bytes into a register. -/
def loadPlan (key a n sz : Nat) (sa : BitVec 5) (dst : Reg) (wr : List Byte → Wr) (s : State) : Plan :=
  let faults := accessFaults a n sz
  let lat := loadLat a n
  { Plan.nop with
    faults := faults, srcs := [sReg sa], dsts := [(dst, lat)], occ := [(.mport, 1)]
    loads := coreSpan a n, rdCore := !(coreSpan a n).isEmpty, rdClus := localPlace a n != .bad && (coreSpan a n).isEmpty
    res := if faults.isEmpty then [⟨lat, [wr (s.localBytes key a n)], Flag.none⟩] else [] }

/-- SLD. -/
def planSld (s : State) (key : Nat) (sd sa : BitVec 5) (off : BitVec 20) : Plan :=
  loadPlan key ((s.core key).memAddr sa off) 8 8 sa (sReg sd) (fun bs => .sreg sd.toNat (BitVec.ofNat 64 (leNat bs))) s

/-- SST. -/
def planSst (c : Core) (ss sa : BitVec 5) (off : BitVec 20) : Plan :=
  let a := c.memAddr sa off
  let faults := accessFaults a 8 8
  { Plan.nop with
    faults := faults, srcs := [sReg sa, sReg ss], occ := [(.mport, 1)], stores := coreSpan a 8, storeLat := storeLat a 8
    res := if faults.isEmpty then [⟨storeLat a 8, localWr a (leBytes (c.s ss).toNat 8), Flag.none⟩] else [] }

/-- A format of VLD and VST (R271, R275). -/
def lanesFormat (fmt : BitVec 3) : Option Fmt :=
  match Fmt.ofCode fmt.toNat with
  | some f => if f = .fi48 then none else some f
  | none => none

/-- Elements of a byte list, `sz` bytes each. -/
def elemsOf (sz : Nat) : Nat → List Byte → List Nat
  | 0, _ => []
  | n + 1, bs => leNat (bs.take sz) :: elemsOf sz n (bs.drop sz)

/-- VLD. -/
def planVld (s : State) (key : Nat) (vd : BitVec 5) (fmt : BitVec 3) (sa : BitVec 5) (off : BitVec 20) : Plan :=
  match lanesFormat fmt with
  | none => .fault [fFormat] [sReg sa] [(vReg vd, loadLat ((s.core key).memAddr sa off) 1)] [.mport]
  | some f =>
    loadPlan key ((s.core key).memAddr sa off) (64 * f.size) f.size sa (vReg vd)
      (fun bs => .vreg vd.toNat ((numbered (elemsOf f.size 64 bs)).map (fun e => (e.1, BitVec.ofNat 32 e.2)))) s

/-- VST (R273): only active lanes touch memory. An address of 2^24 or more is a fault even with no lane active (R277). -/
def planVst (c : Core) (vs : BitVec 5) (fmt : BitVec 3) (sa : BitVec 5) (off : BitVec 20) (pr : BitVec 4) : Plan :=
  match lanesFormat fmt with
  | none => .fault [fFormat] ([sReg sa, vReg vs] ++ prReg pr) [] [.mport]
  | some f =>
    let a := c.memAddr sa off
    let ls := c.actives pr
    let faults := faultIf (a % f.size != 0) fMisaligned ++
      faultIf (decide (2 ^ 24 ≤ a) || ls.any (fun l => localPlace (a + l * f.size) f.size == .bad)) fStore
    let lat := storeLat (a + (ls.headD 0) * f.size) f.size
    { Plan.nop with
      faults := faults, srcs := [sReg sa, vReg vs] ++ prReg pr, occ := [(.mport, 1)]
      stores := ls.flatMap (fun l => coreSpan (a + l * f.size) f.size), storeLat := lat
      res := if faults.isEmpty then
          [⟨lat, ls.flatMap (fun l => localWr (a + l * f.size) (leBytes (laneCode f (c.lane vs l)) f.size)), Flag.none⟩]
        else [] }

/-- The DMA queue `q` of a core. -/
def Core.dq (c : Core) (q : Nat) : DQueue :=
  match q with
  | 0 => c.q0
  | 1 => c.q1
  | 2 => c.q2
  | _ => c.q3

def Core.setDq (c : Core) (q : Nat) (d : DQueue) : Core :=
  match q with
  | 0 => { c with q0 := d }
  | 1 => { c with q1 := d }
  | 2 => { c with q2 := d }
  | _ => { c with q3 := d }

/-- Is sequence number `n` outstanding in a queue? -/
def DQueue.outstanding (d : DQueue) (n : Nat) : Bool := d.entries.any (fun e => e.seq == n)

/-- DMAQ (R314): the descriptor lies in the core store, 64-byte aligned. -/
def planDmaq (c : Core) (q : BitVec 2) (sd sa : BitVec 5) : Plan :=
  let a := (c.s sa).toNat
  let faults := faultIf (a % 64 != 0) fMisaligned ++ faultIf (decide (a + 64 > coreStoreSize)) fStore
  { Plan.nop with
    faults := faults, srcs := [sReg sa], dsts := [(sReg sd, 2)], occ := [(.mport, 1)]
    loads := [(a, 64)], rdCore := true, act := .dmaq q.toNat sd.toNat a }

/-- DWAIT (R315). -/
def planDwait (c : Core) (q : BitVec 2) (sa : BitVec 5) : Plan :=
  let n := (c.s sa).setWidth 32
  { Plan.nop with
    faults := faultIf (decide ((n - (c.dq q.toNat).next).toNat < 2 ^ 31)) fDmaSeq
    srcs := [sReg sa], occ := [(.mport, 1)], act := .dwait q.toNat n.toNat }

/-- Faults of naming a counter: no such pedestal, or outside the niche (R227, R228). -/
def State.ctrFaults (s : State) (niche id : Nat) : List Nat :=
  faultIf (decide (id / 1024 > 19) || !(s.niche niche).ownsCtr id) fSync

/-- ASEND (R316 to R319, R42). -/
def planAsend (s : State) (key niche : Nat) (route : BitVec 12) (ns : BitVec 8) (ss sd : BitVec 5) (cen : Bool)
    (sc : BitVec 5) : Plan :=
  let c := s.core key
  let src := (c.s ss).toNat
  let dst := (c.s sd).toNat
  let n := (ns.toNat + 1) * 1024
  let ctr := (c.s sc).toNat % 2 ^ 15
  let faults := faultIf (src % 64 != 0) fMisaligned ++
    faultIf (localPlace src n == .bad || !(decide (0x800000 ≤ dst) && decide (dst + n ≤ 0xE80000))) fStore ++
    (if cen then s.ctrFaults niche ctr else []) ++
    faultIf (!routeOwned s.slots s.dshare (pedOfCore key) (clusOfCore key % 8) route.toNat niche) fRoute
  { Plan.nop with
    faults := faults, srcs := [sReg ss, sReg sd] ++ (if cen then [sReg sc] else []), occ := [(.send, 0)]
    loads := coreSpan src n, rdCore := !(coreSpan src n).isEmpty, rdClus := (coreSpan src n).isEmpty
    act := .asend route.toNat (ns.toNat + 1) src dst (if cen then some ctr else none) }

/-- The plan of an M slot. -/
def planM (s : State) (key niche : Nat) : MSlot → Plan
  | .nop => .nop
  | .sld sd sa off => planSld s key sd sa off
  | .sst ss sa off => planSst (s.core key) ss sa off
  | .vld vd fmt sa off => planVld s key vd fmt sa off
  | .vst vs fmt sa off pr => planVst (s.core key) vs fmt sa off pr
  | .dmaq q sd sa => planDmaq (s.core key) q sd sa
  | .dwait q sa => planDwait (s.core key) q sa
  | .asend route ns ss sd cen sc => planAsend s key niche route ns ss sd cen sc

/-! ## C slot -/

/-- A scalar result. -/
def scalPlan (sd : BitVec 5) (srcs : List Reg) (lat : Nat) (v : BitVec 64) : Plan :=
  { Plan.nop with srcs := srcs, dsts := [(sReg sd, lat)], res := [⟨lat, [.sreg sd.toNat v], Flag.none⟩] }

/-- A predicate result. -/
def predPlan (pd : BitVec 3) (srcs : List Reg) (v : BitVec 64) : Plan :=
  { Plan.nop with srcs := srcs, dsts := [(pReg pd, 1)], res := [⟨1, [.preg pd.toNat v], Flag.none⟩] }

/-- 64-bit scalar operations (R299). -/
def SOp.eval (op : SOp) (a b : BitVec 64) : BitVec 64 :=
  match op with
  | .add => a + b
  | .sub => a - b
  | .mul => a * b
  | .and => a &&& b
  | .or => a ||| b
  | .xor => a ^^^ b
  | .shl => a <<< (b.toNat % 64)
  | .shr => a >>> (b.toNat % 64)
  | .sar => a.sshiftRight (b.toNat % 64)

def POp.eval (op : POp) (a b : BitVec 64) : BitVec 64 :=
  match op with
  | .and => a &&& b
  | .or => a ||| b
  | .xor => a ^^^ b

/-- A condition as 64 equal bits (R274). -/
def condBits (b : Bool) : BitVec 64 := if b then 0xFFFFFFFFFFFFFFFF else 0

/-- BR (R292, Table 07.8b). -/
def planBr (c : Core) (cond : BitVec 2) (pn : BitVec 3) (tgt : BitVec 12) : Plan :=
  let b := (c.pr pn).getLsbD 0
  match cond.toNat with
  | 0 => { Plan.nop with act := .branch tgt.toNat }
  | 1 => { Plan.nop with srcs := [pReg pn], act := if b then .branch tgt.toNat else .none }
  | 2 => { Plan.nop with srcs := [pReg pn], act := if b then .none else .branch tgt.toNat }
  | _ => .fault [fIllegal] [pReg pn] [] []

/-- SWAIT (R230 to R233). Its predicate is written when the wait ends (R231), before the next bundle issues; for obligations
2 and 3 it lands with a latency of 1, the earliest (DEDUCED, log 104). -/
def planSwait (s : State) (key niche : Nat) (pd : BitVec 3) (consume tmode : Bool) (sc st : BitVec 5)
    (timeout : BitVec 24) : Plan :=
  let c := s.core key
  let id := (c.s sc).toNat % 2 ^ 15
  { Plan.nop with
    faults := faultIf (!(s.ctrFaults niche id).isEmpty || id / 1024 != pedOfCore key) fSync
    srcs := [sReg sc, sReg st], dsts := [(pReg pd, 1)]
    act := .wait ⟨id, (c.s st).setWidth 32, timeout.toNat, pd.toNat, consume, tmode, 0, none⟩ }

/-- The plan of a C slot; `step` is CSQ_STEP of the issue cycle (R313). -/
def planC (s : State) (key niche : Nat) (step : BitVec 64) (i : CSlot) : Plan :=
  let c := s.core key
  match i with
  | .nop => .nop
  | .alu op sd sa sb => scalPlan sd [sReg sa, sReg sb] (if op = .mul then 2 else 1) (SOp.eval op (c.s sa) (c.s sb))
  | .addi sd sa imm => scalPlan sd [sReg sa] 1 (c.s sa + imm.signExtend 64)
  | .movi sd imm => scalPlan sd [] 1 (imm.signExtend 64)
  | .movhi sd imm => scalPlan sd [sReg sd] 1 (imm ++ (c.s sd).setWidth 32)
  | .scmp pd sa sb cc =>
    match scalarCmp cc.toNat (c.s sa) (c.s sb) with
    | some b => predPlan pd [sReg sa, sReg sb] (condBits b)
    | none => .fault [fIllegal] [sReg sa, sReg sb] [(pReg pd, 1)] []
  | .palu op pd pa pb => predPlan pd [pReg pa, pReg pb] (POp.eval op (c.pr pa) (c.pr pb))
  | .pnot pd pa => predPlan pd [pReg pa] (~~~ (c.pr pa))
  | .pmov pd sa => predPlan pd [sReg sa] (c.s sa)
  | .smovp sd pa => scalPlan sd [pReg pa] 1 (c.pr pa)
  | .br cond pn tgt => planBr c cond pn tgt
  | .ssig sc inc =>
    let id := (c.s sc).toNat % 2 ^ 15
    { Plan.nop with faults := s.ctrFaults niche id, srcs := [sReg sc], act := .signal id inc.toNat }
  | .swait pd consume tmode sc st timeout => planSwait s key niche pd consume tmode sc st timeout
  | .yield => { Plan.nop with act := .yield }
  | .halt => { Plan.nop with act := .halt }
  | .fclr mask => { Plan.nop with act := .fclr mask }
  | .sgetst sd sel slot entry =>
    if sel = 3 then .fault [fIllegal] [] [(sReg sd, 2)] []
    else
      { Plan.nop with
        srcs := [selReg sel.toNat slot.toNat], dsts := [(sReg sd, 2)]
        res := [⟨2, [.sreg sd.toNat ((c.statSel sel.toNat slot.toNat entry.toNat).setWidth 64)], Flag.none⟩] }
  | .sstep sd => scalPlan sd [] 2 step

end Sys2Proof.Machine
end

