-- ==== Sys2Proof/Machine/Land.lean ====
section
/-! DEFINITION. What lands in a cycle: results, signals, ASEND slots, the ends of waits, and the stop of a job (R221, R225,
R229 to R241, R293 to R295, R317, R319). Time.lean says when. -/
namespace Sys2Proof.Machine
open Sys2Proof

/-! ## Stopping a job (R221, R789) -/

/-- Clusters of a job, as keys. -/
def Job.clus (j : Job) : List Nat := j.cast.clus

/-- Cores of a job, ascending. -/
def State.jobCores (s : State) (j : Nat) : List Nat := (s.cores.filter (fun kv => kv.2.job == some j)).map (·.1)

/-- A core that stops issuing: it waits and holds no more. -/
def Core.stopAs (st : CoreSt) (c : Core) : Core := { c with st := st, wait := none, hold := none }

/-- Does a core of a job still issue, wait or hold? -/
def CoreSt.active (st : CoreSt) : Bool := st == .run || st == .wait || st == .hold

/-- Cores that show the state of job `j` after it was suspended: those that served it, serve no job now and belong to no
other suspended job (R789). -/
def State.leftCores (s : State) (j : Nat) (jb : Job) : List Nat :=
  (jb.saved.filterMap (fun v =>
    if s.jobs.any (fun kv => kv.1 != j && (match kv.2 with
        | some o => o.st == .suspended && o.saved.any (fun w => w.key == v.key)
        | none => false)) then none
    else s.physOf (v.key / 16) (v.key % 16))).filter (fun k => (s.core k).job.isNone)

/-- Stop a job with a code; `cause` is the core that caused it, if one did (R221, R789). The first reason stands. -/
def State.stopJob (j code : Nat) (cause : Option Nat) (s : State) : State :=
  match s.job j with
  | none => s
  | some jb =>
    if jb.st = .stopping then s
    else
      let left := if jb.st = .suspended then s.leftCores j jb else []
      let s := s.setJob j (some { jb with st := .stopping, stopCode := code, stopIdx := none })
      (s.jobCores j ++ left).foldl (fun s k => s.updCore k (fun c =>
        if cause = some k then c.stopAs .fault
        else if c.st.active || c.st == .suspended then c.stopAs .halted else c)) s

/-- An uncorrectable error that a core operation read: recorded, and the job stops (R646). -/
def State.coreUncorr (det key : Nat) (s : State) : State :=
  let c := s.core key
  let n := (s.coreJob key).map (·.niche)
  let s := s.errUE { Rec.base det 1 cUncorrectable (some (pedOfCore key)) n with unit := key % 128 }
  match c.job with
  | some j => s.stopJob j cUncorrectable (some key)
  | none => s

def State.coreCorr (det key : Nat) (s : State) : State :=
  s.errCE { Rec.base det 0 0 (some (pedOfCore key)) ((s.coreJob key).map (·.niche)) with unit := key % 128 }

/-! ## Sync counters -/

def State.ctrVal (s : State) (id : Nat) : BitVec 32 := Tbl.get 0 (s.ped (id / 1024)).counters (id % 1024)

/-- Store a counter value; a value written whole ends the mark of R241. -/
def State.ctrPut (id : Nat) (v : BitVec 32) (s : State) : State :=
  s.updPed (id / 1024) (fun p => { p with counters := Tbl.set 0 (id % 1024) v p.counters })

def State.ctrUnmark (id : Nat) (s : State) : State :=
  s.updPed (id / 1024) (fun p => { p with ctrBad := Tbl.set false (id % 1024) false p.ctrBad })

/-- Set sticky bits of SYC_STAT (Table 06.22). -/
def State.sycFlag (p : Nat) (b : BitVec 3) (s : State) : State := 
  (s.updPed p (fun x => { x with sycStat := x.sycStat ||| b })).mark (pedBase p + 0x2C4000) b.toNat

/-- Cores waiting on a counter, in ascending cluster and logical core (Table 06.4). -/
def State.waiters (s : State) (id : Nat) : List Nat :=
  (sortBy (fun kv : Nat × Core => kv.1 / 16 * 16 + kv.2.lcore)
    (s.cores.filter (fun kv => kv.2.st == .wait && (kv.2.wait.map (·.counter)) == some id))).map (·.1)

/-- Let the SWAITs on a counter compare in this cycle, whether or not a signal arrives. -/
def State.rewait (id : Nat) (s : State) : State :=
  (s.waiters id).foldl (fun s k => s.updCore k (fun c => { c with wait := c.wait.map (fun w => { w with cmp := some s.now }) })) s

/-- The end of a wait in cycle `cyc` (R231, R233, R274). -/
def Core.waitEnd (ok : Bool) (pd cyc : Nat) (c : Core) : Core :=
  { c with wait := none, st := if c.hold.isSome then .hold else .run, ready := cyc + 1,
           preg := Tbl.set 0 pd (condBits ok) c.preg }

/-- One waiting core compares (R231, R232, R234). -/
def State.serveWait (cyc id key : Nat) (s : State) : State :=
  match (s.core key).wait with
  | none => s
  | some w =>
    let v := s.ctrVal id
    if w.target.toNat ≤ v.toNat then
      let s := if w.consume then s.ctrPut id (v - w.target) else s
      s.updCore key (Core.waitEnd true w.pd cyc)
    else s.updCore key (fun c => { c with wait := some { w with cmp := none } })

/-- What the compares find when the counter's ECC fails (R241): every waiting job stops. -/
def State.ctrUncorr (id : Nat) (s : State) : State :=
  let ws := s.waiters id
  let n := (ws.head?.bind s.coreJob).map (·.niche)
  let s := (s.sycFlag (id / 1024) 4).errUE
    { Rec.base 0x08 1 cUncorrectable (some (id / 1024)) n with synd := some (id % 1024) }
  let s := s.updPed (id / 1024) (fun p => { p with ctrBad := Tbl.set false (id % 1024) true p.ctrBad })
  ws.foldl (fun s k => match (s.core k).job with
    | some j => s.stopJob j cUncorrectable (some k)
    | none => s) s

/-- Step 3 of Table 06.4 for one counter in cycle `cyc`. -/
def State.serveWaits (cyc id : Nat) (s : State) : State :=
  if (s.waiters id).isEmpty then s
  else
    let off := sycBlock (id / 1024) + 0x4004
    let a := s.arm off (id % 1024)
    let bad := Tbl.get false (s.ped (id / 1024)).ctrBad (id % 1024)
    if bad ∨ a = 2 then (s.disarm off (id % 1024)).ctrUncorr id
    else
      let s := if a = 1 then
          (((s.disarm off (id % 1024)).sycFlag (id / 1024) 2).errCE
            { Rec.base 0x08 0 0 (some (id / 1024)) none with synd := some (id % 1024) })
        else s
      (s.waiters id).foldl (fun s k => State.serveWait cyc id k s) s

/-- Are signals to a counter discarded: its pedestal in reset (R660), or its counters out of service (R686)? -/
def State.ctrDeaf (s : State) (id : Nat) : Bool :=
  s.ras.rsts.any (fun r => r.scope == 4 && r.ped == id / 1024) || s.badWithPlinth (id / 1024) hSync

/-- Step 2 of Table 06.4: the summed signals of one cycle (R229). -/
def State.applySum (id inc : Nat) (s : State) : State :=
  if s.ctrDeaf id then s
  else
    let v := (s.ctrVal id).toNat + inc
    if v ≤ 0xFFFFFFFF then s.ctrPut id (BitVec.ofNat 32 v)
    else
      ((s.ctrPut id 0xFFFFFFFF).sycFlag (id / 1024) 1).record
        { Rec.base 0x08 2 0 (some (id / 1024)) (s.ctrNiche id) with synd := some (id % 1024) } 1

/-- Step 1 of Table 06.4: a host write of SYC_SET. The value written whole ends the mark of R241. -/
def State.applySet (id : Nat) (v : BitVec 32) (s : State) : State :=
  if s.ctrDeaf id then s else (s.ctrPut id v).ctrUnmark id

/-- A signal or host write that reaches a counter in this cycle (R240); it is taken when the cycle's events are. -/
def State.arrive1 (id inc : Nat) (set : Bool) (s : State) : State :=
  { s with sigs := s.sigs ++ [⟨id, inc, set, s.now, none, 0, 0, 0, false, s.order⟩], order := s.order + 1 }

/-- Signals that reach a counter outside the fixed schedules: DMA completions, Lath arrivals, engines, SYC_ADD (R240). -/
def State.signalNow (id inc : Nat) (s : State) : State := s.arrive1 id inc false

/-- First CK_M cycle owned by cluster `c` from `k` on (R237). -/
def ownedFrom (c k : Nat) : Nat := k + (c + 8 - k % 8) % 8

/-- Assign entry cycles to the signals of one cluster that have not entered (R238, R239). -/
def laneSchedule (c : Nat) : Nat → Nat → List Sig → List Sig
  | 0, _, _ => []
  | fuel + 1, k, sigs =>
    match sigs with
    | [] => []
    | g :: gs =>
      let k := max k ((gs.map (·.want)).foldl min g.want)
      let ready := sigs.filter (fun x => decide (x.want ≤ k))
      match sortBy (fun x => x.lcore * 2 ^ 64 + x.order) ready with
      | [] => []
      | b :: _ =>
        { b with due := 2 * (k + 6 + 3 * b.hops) } ::
          laneSchedule c fuel (k + 8) (sigs.filter (fun x => x.order != b.order))

/-- The CK_M cycle in which a remote signal enters. -/
def Sig.enters (g : Sig) : Nat := g.due / 2 - 6 - 3 * g.hops

/-- An SSIG issued in cycle `t` (R235, R238, R239). The remote signals of its cluster that have not entered share the owned
cycles still to come. -/
def State.issueSignal (key id inc t : Nat) (s : State) : State :=
  let p := pedOfCore key
  let clus := clusOfCore key
  let s1 := { s with order := s.order + 1 }
  if id / 1024 = p then
    { s1 with sigs := s.sigs ++ [⟨id, inc, false, t + 4, some clus, (s.core key).lcore, 0, 0, false, s.order⟩] }
  else
    let want := ownedFrom (clus % 8) ((t + 3) / 2)
    let g : Sig := ⟨id, inc, false, 0, some clus, (s.core key).lcore, want, hops p (id / 1024), true, s.order⟩
    let mine := fun (x : Sig) => x.remote && x.clus == some clus && decide (t < 2 * x.enters)
    let waiting := s.sigs.filter mine
    { s1 with sigs := s.sigs.filter (fun x => !mine x) ++
        laneSchedule (clus % 8) (waiting.length + 1) (ownedFrom (clus % 8) (t / 2 + 1)) (waiting ++ [g]) }

/-! ## Landing results -/

def Wr.isReg : Wr → Bool
  | .cstore _ _ => false
  | .clstore _ _ => false
  | _ => true

/-- The register a write lands on (Table 06.2). -/
def Wr.reg : Wr → Option Reg
  | .sreg n _ => some (.s n)
  | .preg n _ => some (.p n)
  | .vreg n _ => some (.v n)
  | .tile n _ _ => some (.t n)
  | .tkind n _ => some (.t n)
  | .stat n _ _ _ => some (.st n)
  | .err n _ _ _ _ => some (.ms n)
  | _ => none

/-- Two conversions that update one entry in one cycle: the larger of their maxima (R99). -/
def joinStat (slot entry : Nat) (m : BitVec 32) (acc : Bool) : List Wr → BitVec 32 × Bool × List Wr
  | [] => (m, acc, [])
  | .stat sl e m' acc' :: ws =>
    if sl = slot ∧ e = entry then joinStat slot entry (maxCode m m') (acc && acc') ws
    else let r := joinStat slot entry m acc ws; (r.1, r.2.1, .stat sl e m' acc' :: r.2.2)
  | w :: ws => let r := joinStat slot entry m acc ws; (r.1, r.2.1, w :: r.2.2)

/-- Clear the elements of a tile. -/
def clearTile (n : Nat) (t : Tbl (BitVec 48)) : Tbl (BitVec 48) := Tbl.keep (fun k _ => k / 1024 != n) t

/-- Land one register write. -/
def Core.landReg (c : Core) : Wr → Core
  | .sreg n v => { c with sreg := Tbl.set 0 n v c.sreg }
  | .preg n v => { c with preg := Tbl.set 0 n v c.preg }
  | .vreg n ls => { c with vreg := ls.foldl (fun t l => Tbl.set 0 (64 * n + l.1) l.2 t) c.vreg }
  | .tile n clear es =>
    { c with tile := es.foldl (fun t e => Tbl.set 0 (1024 * n + e.1) e.2 t) (if clear then clearTile n c.tile else c.tile) }
  | .tkind n k => { c with tkind := Tbl.set false n k c.tkind }
  | .stat sl e m acc => { c with stat := Tbl.upd 0 (64 * sl + e) (fun old => if acc then maxCode old m else m) c.stat }
  | _ => c

/-- Land the register writes of one core in one cycle, in slot order. Two conversions of the V slot that update one error entry
in one cycle are taken in issue order, for R165 orders only T before V (DESIGN CHOICE, log 100). -/
def State.landRegs (key : Nat) : Nat → List Wr → State → State
  | 0, _, s => s
  | _, [], s => s
  | fuel + 1, .stat sl e m acc :: ws, s =>
    let r := joinStat sl e m acc ws
    State.landRegs key fuel r.2.2 (s.updCore key (fun c => c.landReg (.stat sl e r.1 r.2.1)))
  | fuel + 1, .err sl e acc sse n :: ws, s =>
    State.landRegs key fuel ws (s.updCore key (fun c =>
      { c with err := Tbl.upd ErrEntry.zero (64 * sl + e) (ErrEntry.update acc sse n) c.err }))
  | fuel + 1, w :: ws, s => State.landRegs key fuel ws (s.updCore key (fun c => c.landReg w))

/-- Land one memory write of a core. -/
def State.landMem (key : Nat) (s : State) : Wr → State
  | .cstore a bs => s.updCore key (fun c => { c with cstore := Memory.write a bs c.cstore })
  | .clstore o bs => s.cluWrite (clusOfCore key) o bs
  | _ => s

/-- Cores in the order of cluster, then logical core (R225). -/
def State.coresInOrder (s : State) (p : Core → Bool) : List Nat :=
  (sortBy (fun kv : Nat × Core => kv.1 / 16 * 16 + kv.2.lcore) (s.cores.filter (fun kv => p kv.2))).map (·.1)

/-- Register writes due in cycle `d`. -/
def State.fireRegs (d key : Nat) (s : State) : State :=
  let c := s.core key
  let fs := sortBy (fun f : Flight => f.slot) (c.flights.filter (fun f => f.due == d))
  let ws := fs.flatMap (fun f => f.wr.filter Wr.isReg)
  let s := s.updCore key (fun c => { c with flights := c.flights.map (fun f =>
    if f.due = d then { f with wr := f.wr.filter (fun w => !w.isReg) } else f) })
  State.landRegs key (ws.length + 1) ws s

/-- Memory writes and flags due in cycle `d` (R295, R225, R89). -/
def State.fireMem (d key : Nat) (s : State) : State :=
  let c := s.core key
  let fs := sortBy (fun f : Flight => f.slot) (c.flights.filter (fun f => f.due == d))
  let s := s.updCore key (fun c => { c with flights := c.flights.filter (fun f => f.due != d) })
  let s := (fs.flatMap (·.wr)).foldl (fun s w => State.landMem key s w) s
  let new := fs.foldl (fun a f => a ||| f.flags) Flag.none
  let fresh := new &&& ~~~(s.core key).aflags
  ((s.updCore key (Core.setFlags new)).mark (corePage key + 0x100) new.toNat).evC key 0x0A ((List.range 4).filter (fun i => fresh.getLsbD i)).length

/-- Cluster that a route names (R595). -/
def SendRec.dest (r : SendRec) : Nat := r.route / 128 * 8 + r.route / 16 % 8

/-- The slots of an ASEND from the CK_M cycles in which they enter: 1,024 bytes each, to consecutive destination bytes (R316,
R317). -/
def sendSlots (links : Nat → Nat) : List Nat → Nat → List Byte → List SendSlot
  | [], _, _ => []
  | k :: ks, dst, bs =>
    ⟨k, 2 * (k + 6 + 3 * links k), dst, bs.take 1024⟩ :: sendSlots links ks (dst + 1024) (bs.drop 1024)

/-- One slot of a send of core `key` lands (R316, R317). When its protection fails it delivers nothing, and the receiving job
stops (R649). -/
def State.landSlot (key : Nat) (r : SendRec) (x : SendSlot) (s : State) : State :=
  let p := pedOfCore key
  let (lost, s) := s.slotFails (pathOuts s.slots 18 p (x.enter % 4096) 5)
  if lost then
    let n := s.clusNiche r.dest
    let s := s.errUE (Rec.base 0x0D 1 cUncorrectable (some (r.route / 128)) n)
    (s.coresInOrder (fun _ => true)).foldl (fun s k =>
      if clusOfCore k = r.dest then match (s.core k).job with
        | some j => s.stopJob j cUncorrectable none
        | none => s
      else s) s
  else (s.cluWrite r.dest (x.dst - 0x800000) x.bytes).evP p 0x01 1

/-- Slots of a core's sends due in cycle `d`; with its last slot a send signals its counter (R319). -/
def State.fireSends (d key : Nat) (s : State) : State :=
  let rs := (s.core key).sends
  let s := rs.foldl (fun s r => (r.slots.filter (fun x => x.due == d)).foldl (fun s x => s.landSlot key r x) s) s
  let cut := fun (r : SendRec) => { r with slots := r.slots.filter (fun x => x.due != d) }
  let s := rs.foldl (fun s r => match r.ctr with
    | some id => if !r.slots.isEmpty && (cut r).slots.isEmpty then s.signalNow id 1 else s
    | none => s) s
  s.updCore key (fun c => { c with sends := (c.sends.map cut).filter (fun r => !r.slots.isEmpty) })

/-- A wait that times out in cycle `d` (R233, step 4 of Table 06.4). -/
def State.fireTimeout (d key : Nat) (s : State) : State :=
  match (s.core key).wait with
  | none => s
  | some w =>
    if w.timeout ≠ 0 ∧ w.issued + w.timeout = d then
      if w.tmode then
        match (s.core key).job with
        | some j => s.stopJob j cTimeout (some key)
        | none => s
      else s.updCore key (Core.waitEnd false w.pd d)
    else s

/-! ## Counters in one cycle -/

/-- The sum of the signals that reach a counter in cycle `d`. -/
def sumSigs (d id : Nat) (sigs : List Sig) : Nat :=
  (sigs.filter (fun g => g.due == d && g.ctr == id && !g.set)).foldl (fun n g => n + g.inc) 0

/-- Counters at which something happens in cycle `d`: a host write or signal arrives, or a SWAIT compares for the first time. -/
def State.dueCtrs (s : State) (d : Nat) : List Nat :=
  ((s.sigs.filter (fun g => g.due == d)).map (·.ctr) ++
    s.cores.filterMap (fun kv => kv.2.wait.bind (fun w => if w.cmp = some d then some w.counter else none))).foldl
      (fun l id => if l.contains id then l else l ++ [id]) []

/-- Table 06.4 at one counter in cycle `d`, up to step 3. -/
def State.counterStep (d id : Nat) (s : State) : State :=
  let here := s.sigs.filter (fun g => g.due == d && g.ctr == id)
  let s := { s with sigs := s.sigs.filter (fun g => !(g.due == d && g.ctr == id)) }
  let s := (here.filter (·.set)).foldl (fun s g => s.applySet id (BitVec.ofNat 32 g.inc)) s
  let s := if here.any (fun g => !g.set) then s.applySum id (sumSigs d id here) else s
  s.serveWaits d id

/-- All counters, then the timeouts of the waits that still stand (step 4). -/
def State.fireCounters (d : Nat) (s : State) : State :=
  let s := (s.dueCtrs d).foldl (fun s id => s.counterStep d id) s
  (s.coresInOrder (fun c => c.wait.isSome)).foldl (fun s k => s.fireTimeout d k) s

end Sys2Proof.Machine
end

