-- ==== Sys2Proof/Machine/MemRead.lean ====
section
/-! DEFINITION. Reads of the MPA space that a detector may fail (R399, R401, R423, R645, R650), translation (R402 to R409)
and the refresh schedule (R394 to R396). -/
namespace Sys2Proof.Machine
open Sys2Proof

/-- Sticky bits of PLN_STAT (Table 10.23). -/
def State.plnFlag (p : Nat) (b : BitVec 3) (s : State) : State := 
  (s.updPed p (fun x => { x with plnStat := x.plnStat ||| b })).mark (plnBlock p) b.toNat

/-- Sticky bits of XLT_STAT (Table 10.21). -/
def State.xltFlag (p : Nat) (b : BitVec 3) (s : State) : State :=
  (s.updPed p (fun x => { x with xltStat := x.xltStat ||| b })).mark (xltBlock p + 0x10000) b.toNat

/-- An error that a detector found: corrected, uncorrectable, or a poisoned segment read. -/
inductive Found where
  | ce (r : Rec)
  | ue (r : Rec)
  | poison (r : Rec)
  deriving DecidableEq, Repr

/-- Count and record what was found (R650). -/
def State.report (s : State) : Found → State
  | .ce r => s.errCE { r with sev := 0, code := 0 }
  | .ue r => s.errUE r
  | .poison r => s.record r 1

/-- What the detector finds at an injection register, which it uses up: the code, and the error with template `r`. -/
def State.injFind (off tgt : Nat) (r : Rec) (s : State) : Nat × List Found × State :=
  match s.arm off tgt with
  | 0 => (cDone, [], s)
  | 1 => (cDone, [.ce r], s.disarm off tgt)
  | _ => (cUncorrectable, [.ue { r with code := cUncorrectable }], s.disarm off tgt)

/-- One read within a 64-byte segment: its code and what the detectors find, not yet reported; an injected error comes before
a poison mark. Conditions of PLN_STAT and PLN_ERRADDR are set (Tables 10.22, 10.23). -/
def State.segFind (r : Rec) (a n : Nat) (s : State) : Nat × List Found × State :=
  let at_ := fun (det : Nat) (unit : Nat) (ped : Option Nat) => { r with det := det, ped := ped, unit := unit, addr := a, aspace := 1 }
  let poison := fun (rc : Rec) (x : Nat × List Found × State) =>
    if x.1 = cDone ∧ x.2.2.anyPoison a n then (cPoisonedInput, x.2.1 ++ [.poison { rc with code := cPoisonedInput }], x.2.2) else x
  match s.loc a with
  | .plinth p o =>
    let rc := at_ 0x09 0 (some p)
    let x := s.injFind (plnBlock p + 0x10) (o / 4096 % 64) rc
    let y := poison rc x
    let flag : BitVec 3 := (if x.2.1.isEmpty then 0 else if x.1 = cDone then 1 else 2) ||| (if y.1 = cPoisonedInput then 4 else 0)
    let s := if flag = 0 then y.2.2 else y.2.2.plnFlag p flag
    (y.1, y.2.1, if x.1 = cDone then s else s.updPed p (fun v => { v with plnErr := BitVec.ofNat 64 (o / 64 * 64) }))
  | .hbm k =>
    let rc := at_ 0x0C k (some k)
    poison rc ((s.evP k 0x0C 1).injFind (plnBlock k + 0x100) 0 rc)
  | .cstore key _ => s.injFind (corePage key + 0x400) 0 (at_ 0x01 (key % 128) (some (pedOfCore key)))
  | .clstore c _ => s.injFind (clusPage c + 0x200) 0 (at_ 0x02 (c % 8 * 16) (some (c / 8)))
  | _ => (cDone, [], s)

/-- One read within a 64-byte segment: its code; errors are recorded with the template `r` and severity `r.sev`. -/
def State.segRead (r : Rec) (a n : Nat) (s : State) : Nat × State :=
  let x := s.segFind r a n
  (x.1, x.2.1.foldl State.report x.2.2)

/-- The pieces of a run that segment boundaries cut. -/
def segPieces : Nat → Nat → Nat → List (Nat × Nat)
  | 0, _, _ => []
  | fuel + 1, a, n =>
    if n = 0 then []
    else let m := min n (64 - a % 64); (a, m) :: segPieces fuel (a + m) (n - m)

/-- Read a run: per piece its bytes and code. -/
def State.runRead (r : Rec) (a n : Nat) (s : State) : List (List Byte × Nat) × State :=
  (segPieces (n + 1) a n).foldl (fun acc p =>
    let (c, s) := acc.2.segRead r p.1 p.2
    (acc.1 ++ [(s.mpaBytes p.1 p.2, c)], s)) ([], s)

/-- The first code other than DONE. -/
def firstCode (cs : List Nat) : Nat := (cs.find? (· ≠ cDone)).getD cDone

/-- Read a run whole: its bytes and the first failure. -/
def State.readRun (r : Rec) (a n : Nat) (s : State) : List Byte × Nat × State :=
  let (ps, s) := s.runRead r a n
  (ps.flatMap (·.1), firstCode (ps.map (·.2)), s)

/-! ## Translation -/

/-- Does a valid window hold the DVA? -/
def winHolds (d : Nat) (dva : Nat) : Bool :=
  let d0 := d % 2 ^ 64
  let size := bits (d / 2 ^ 64) 63 48
  let base := bits d0 47 21 * 2 ^ 21
  bitAt d0 0 && decide (base ≤ dva) && decide (dva < base + size * 2 ^ 21)

/-- The window of a niche on a pedestal that holds a DVA (R402, R403). -/
def State.window (s : State) (p niche dva : Nat) : Option Nat :=
  ((s.ped p).win.find? (fun kv => kv.1 / 64 == niche && winHolds kv.2.toNat dva)).map (·.2.toNat)

/-- Fields of a window. -/
def winBase (d : Nat) : Nat := bits d 47 21 * 2 ^ 21
def winSize (d : Nat) : Nat := bits (d / 2 ^ 64) 63 48 * 2 ^ 21
def winL2 (d : Nat) : Nat := bits (d / 2 ^ 64) 47 12 * 4096
def winPage (d : Nat) : Nat := if bitAt d 3 then 2 ^ 21 else 2 ^ 16

/-- R406. -/
def pteMalformed (e : Nat) (big : Bool) : Bool :=
  bits e 15 2 != 0 || bits e 63 48 != 0 || (big && bits e 20 16 != 0)

/-- Read a page-table entry of the pedestal's plinth: value and whether it is uncorrectable (R407, Tables 10.20, 10.21, 10.23,
10.24). The plinth's own detector sees the read too; a poisoned entry reads as uncorrectable (DEDUCED, log 38). -/
def State.pteRead (r : Rec) (p a : Nat) (s : State) : Nat × Bool × State :=
  let rc := { r with sev := 1, ped := some p, addr := a, aspace := 1 }
  let x := s.injFind (xltBlock p + 0x10010) 0 { rc with det := 0x0A }
  let y := x.2.2.segFind rc a 8
  let bad := x.1 != cDone || y.1 != cDone
  let fs := x.2.1 ++ y.2.1.map (fun f => match f with
    | .poison q => Found.poison { q with code := cUncorrectable }
    | f => f)
  let corr := fs.any (fun f => match f with | .ce _ => true | _ => false)
  let s := fs.foldl State.report y.2.2
  let flag : BitVec 3 := (if bad then 4 else 0) ||| (if corr then 2 else 0)
  (leNat (s.mpaBytes a 8), bad, if flag = 0 then s else s.xltFlag p flag)

/-- R408: a compute-die byte of a cluster outside the niche. -/
def State.foreignDie (s : State) (niche mpa : Nat) : Bool :=
  decide (0x20000000000 ≤ mpa) && decide (mpa < 0x20500000000) &&
  !(s.niche niche).has ((mpa - 0x20000000000) / 0x8000000)

/-- R407 for one byte: the code and the MPA, before the refusal of R408. -/
def State.walk (r : Rec) (p niche dva : Nat) (write : Bool) (s : State) : Nat × Nat × State :=
  match s.window p niche dva with
  | none => (cPermission, 0, s)
  | some d =>
    if (write && !bitAt d 2) || (!write && !bitAt d 1) then (cPermission, 0, s)
    else
      let off := dva - winBase d
      let pte := winL2 d + 8 * (off / winPage d)
      let (e, ue, s) := (s.evP p 0x09 1).pteRead r p pte
      if ue then (cUncorrectable, 0, s)
      else if !bitAt e 0 then (cTranslationMiss, 0, s.evP p 0x0A 1)
      else if pteMalformed e (bitAt d 3) then
        (cTranslationMiss, 0, ((s.evP p 0x0A 1).updPed p (fun x => { x with xltMal := BitVec.ofNat 64 pte })).xltFlag p 1)
      else if write && !bitAt e 1 then (cPermission, 0, s)
      else (cDone, bits e 47 16 * 2 ^ 16 + off % winPage d, s)

/-- R407 and R408 for one byte. -/
def State.translate (r : Rec) (p niche dva : Nat) (write : Bool) (s : State) : Nat × Nat × State :=
  let (c, mpa, s) := s.walk r p niche dva write
  if c = cDone ∧ s.foreignDie niche mpa then (cPermission, 0, s) else (c, mpa, s)

/-- Where the page tables send a DVA at this moment, as a write that will be made later finds it: no walk is made. -/
def State.peek (s : State) (p niche dva : Nat) : Option Nat :=
  (s.window p niche dva).bind (fun d =>
    let off := dva - winBase d
    let e := leNat (s.mpaBytes (winL2 d + 8 * (off / winPage d)) 8)
    if bitAt d 2 && bitAt e 0 && bitAt e 1 && !pteMalformed e (bitAt d 3) then some (bits e 47 16 * 2 ^ 16 + off % winPage d)
    else none)

/-! ## Refresh (R394, R396) -/

/-- First cycle from `t` in which plinth offset `o` is not under refresh. -/
def refreshClear (o t : Nat) : Nat :=
  let lo := t / 8192 * 8192 + 128 * (o / 4096 % 64)
  if lo ≤ t ∧ t < lo + 16 then lo + 16 else t

end Sys2Proof.Machine
end

