-- ==== Sys2Proof/Machine/Queue.lean ====
section
/-! DEFINITION. The ordered queue that core DMA queues and host SQs share: descriptors, acceptance checks, completion,
holding and retirement (R410 to R428, R568 to R578). -/
namespace Sys2Proof.Machine
open Sys2Proof

/-! ## Descriptors (Table 10.6) -/

/-- The fields of a 64-byte entry. -/
def Desc.ofBytes (bs : List Byte) (bad : Nat → Desc → Bool) : Desc :=
  let w := fun o n => leNat ((bs.drop o).take n)
  let c := w 0 4
  let d : Desc :=
    { op := bits c 3 0, sk := bits c 5 4, dk := bits c 7 6, cen := bitAt c 8, fence := bitAt c 9, nonres := bitAt c 10,
      bar := bitAt c 11, bad := false, len := w 4 4, src := w 8 8, dst := w 16 8, rows := w 24 4, sstride := w 32 8,
      dstride := w 40 8, ctr := w 48 4 % 2 ^ 15, inc := w 50 2, fillv := w 52 4, tag := w 56 8, handle := w 4 4,
      args := w 8 8, seed := BitVec.ofNat 128 (w 16 16), tlimit := w 32 4, bgrp := w 36 4 }
  { d with bad := bad (leNat bs) d }

/-- A reserved OP, kind or bit of a COPY or FILL (R410, R569). -/
def dmaBad (host : Bool) (raw : Nat) (d : Desc) : Bool :=
  let copy := d.op == 1
  let kindOk := fun k => k == 0 || k == (if host then 2 else 1)
  !(d.op == 1 || d.op == 2) || !kindOk d.dk || (copy && !kindOk d.sk) || bits raw 31 10 != 0 || (!host && d.fence) ||
  bits raw 255 224 != 0 || d.dstride / 2 ^ 48 != 0 || (copy && d.sstride / 2 ^ 48 != 0) || (d.cen && bitAt raw (48 * 8 + 15))

/-- First byte and byte past the last of an operand (R411). -/
def spanOf (a stride len rows : Nat) : Nat × Nat := (a, a + (rows - 1) * stride + len)

def Desc.sspan (d : Desc) : Nat × Nat := spanOf d.src d.sstride d.len d.rows
def Desc.dspan (d : Desc) : Nat × Nat := spanOf d.dst d.dstride d.len d.rows
def Desc.bytes (d : Desc) : Nat := if d.rows = 0 then 0 else d.len * d.rows

/-! ## Queues -/

def qCore : QRef → Option Nat
  | .core k _ => some (coreKey k)
  | .sq _ => none

def State.qEntries (s : State) : QRef → List Entry
  | .core k q => ((s.core (coreKey k)).dq q.val).entries
  | .sq n => (s.sq n.val).entries

def State.qHeld (s : State) : QRef → Option Nat
  | .core k q => ((s.core (coreKey k)).dq q.val).held
  | .sq n => (s.sq n.val).held

def State.qSet (r : QRef) (es : List Entry) (held : Option Nat) (s : State) : State :=
  match r with
  | .core k q => s.updCore (coreKey k) (fun c => c.setDq q.val { c.dq q.val with entries := es, held := held })
  | .sq n => s.updSq n.val (fun x => { x with entries := es, held := held })

/-- Niche of a queue: that of the core's job, or the one the SQ names. -/
def State.qNiche (s : State) : QRef → Nat
  | .core k _ => ((s.coreJob (coreKey k)).map (·.niche)).getD 32
  | .sq n => bits (s.sq n.val).cfg.toNat 21 17

/-- Pedestal whose tables and DMA engine serve a queue (R414, R569). -/
def State.qPed (s : State) : QRef → Nat
  | .core k _ => k.p.val
  | .sq n => bits (s.sq n.val).cfg.toNat 26 22

/-- Function whose memory a host queue names. -/
def State.qFunc (s : State) : QRef → Bool
  | .core _ _ => false
  | .sq n => ((s.sq n.val).owner).getD false

/-- SOURCE and FLOW of a queue's sequence tags (R416, R570). -/
def State.qTag (s : State) : QRef → Nat × Nat
  | .core k q => (k.p.val * 1024 + k.c.val * 128 + (s.core (coreKey k)).lcore * 8, q.val)
  | .sq n => (2 ^ 15 + (if s.qFunc (.sq n) then 2 ^ 14 else 0) + n.val, 0)

/-- RT-8 mode (R432). -/
def State.qRt8 (s : State) : QRef → Bool
  | .core k q => ((s.core (coreKey k)).dq q.val).mode
  | .sq _ => false

/-- The record template of an entry. -/
def State.qRec (s : State) (r : QRef) (seq : Nat) : Rec :=
  { Rec.base 0 1 0 none (some (s.qNiche r)) with source := (s.qTag r).1, flow := (s.qTag r).2, seq := seq }

def State.qUpd (r : QRef) (seq : Nat) (f : Entry → Entry) (s : State) : State :=
  s.qSet r ((s.qEntries r).map (fun e => if e.seq = seq then f e else e)) (s.qHeld r)

def State.qEntry (s : State) (r : QRef) (seq : Nat) : Option Entry := (s.qEntries r).find? (fun e => e.seq == seq)

/-- Function whose host memory an entry's bus addresses name (R569). -/
def State.entFn (s : State) (r : QRef) (seq : Nat) : Bool := ((s.qEntry r seq).map (·.fn)).getD false

/-- A fresh entry. -/
def Entry.new (seq : Nat) (d : Desc) (t : Nat) : Entry :=
  { seq := seq, desc := d, phase := .waiting, code := cDone, part := false, began := false, doomed := false, own := false,
    issuedAt := t, stamp := 0, srcMap := [], dstMap := [], moved := 0, ahead := 0, aheadBad := [], banks := [], job := none, argv := [], blind := false, fn := false }

/-! ## Acceptance checks (Table 10.7) -/

/-- Pages that rows touch, as DVAs of their first bytes, ascending without repeats. -/
def pageFirsts (page base stride len : Nat) (rows : Nat) : List Nat :=
  (rangeFrom 0 rows).foldl (fun acc r =>
    let a := base + r * stride
    (rangeFrom (a / page) ((a + len - 1) / page + 1 - a / page)).foldl
      (fun acc p => if acc.contains (p * page) then acc else acc ++ [p * page]) acc) []

/-- What resolving an operand finds: codes met and the pages translated. -/
structure Resolved where
  codes : List Nat
  map : List PageMap
  st : State

/-- A local operand (R411, Table 10.7): its rows lie all in the core store or all in the cluster store, for a local span is one
store. -/
def localCodes (base stride len rows : Nat) : List Nat :=
  let rs := (rangeFrom 0 rows).map (fun i => (base + i * stride, base + i * stride + len))
  let inCore := fun (r : Nat × Nat) => decide (r.2 ≤ 0x200000)
  let save := fun (r : Nat × Nat) => decide (0x800000 ≤ r.1) && decide (r.2 ≤ 0x1000000) && decide (0xE80000 < r.2)
  let inClus := fun (r : Nat × Nat) => decide (0x800000 ≤ r.1) && decide (r.2 ≤ 0x1000000)
  (if rs.all inCore || rs.all inClus then [] else [cOutOfBounds]) ++ (if rs.any save then [cPermission] else [])

/-- Codes of the bytes of one translated page piece (R390 to R392, R408). -/
def State.mpaCodes (s : State) (niche : Nat) (write : Bool) (rowLen : Nat) (a n : Nat) : List Nat :=
  (rangeFrom (a / 128) ((a + n - 1) / 128 + 1 - a / 128)).flatMap (fun g =>
    let b := max a (128 * g)
    (if s.foreignDie niche b then [cPermission] else []) ++
    match s.loc b with
    | .unassigned => [cOutOfBounds]
    | .save _ => [cPermission]
    | .istore _ _ => if write then faultIf (a % 32 != 0 || rowLen % 32 != 0) cBadDescriptor else [cPermission]
    | .sfuwin _ _ => if write then faultIf (a % 8 != 0 || rowLen % 8 != 0) cBadDescriptor else [cPermission]
    | _ => [])

/-- The part of a run that lies in one page. -/
def pagePieces (page : Nat) : Nat → Nat → Nat → List (Nat × Nat)
  | 0, _, _ => []
  | fuel + 1, a, n =>
    if n = 0 then []
    else let m := min n (page - a % page); (a, m) :: pagePieces page fuel (a + m) (n - m)

/-- Where a DVA lies in fixed translations. -/
def mapDva (m : List PageMap) (dva : Nat) : Option Nat :=
  (m.find? (fun p => decide (p.dva ≤ dva) && decide (dva < p.dva + p.size))).map (fun p => p.mpa + (dva - p.dva))

/-- Pages of the operand's window that its rows touch, ascending (R413, R414). -/
def State.dvaPages (s : State) (p niche base stride len rows : Nat) : List Nat :=
  match s.window p niche base with
  | none => []
  | some d => (pageFirsts (winPage d) base stride len rows).filter
      (fun a => decide (winBase d ≤ a) && decide (a < winBase d + winSize d))

/-- Walk one page: its code if it has one, its translation if it has one (R407). -/
def State.walkPage (r : Rec) (p niche : Nat) (write : Bool) (pg : Nat) (s : State) : List Nat × List PageMap × State :=
  let size := match s.window p niche pg with
    | some d => winPage d
    | none => 2 ^ 16
  let (c, m, s) := s.walk r p niche pg write
  if c = cDone then ([], [⟨pg, size, m⟩], s) else ([c], [], s)

def State.walkPages (r : Rec) (p niche : Nat) (write : Bool) (pages : List Nat) (s : State) : List Nat × List PageMap × State :=
  pages.foldl (fun acc pg =>
    let x := acc.2.2.walkPage r p niche write pg
    (acc.1 ++ x.1, acc.2.1 ++ x.2.1, x.2.2)) ([], [], s)

/-- The codes of a DVA operand apart from its walks: one window, assigned bytes, permitted places (Table 10.7). -/
def State.dvaCodes (s : State) (p niche : Nat) (write : Bool) (base stride len rows : Nat) (map : List PageMap) : List Nat :=
  let past := decide (base + (rows - 1) * stride + len > 2 ^ 48)
  match s.window p niche base with
  | none => (if past then [cOutOfBounds] else []) ++ [cPermission]
  | some d =>
    let inside := fun a => decide (winBase d ≤ a) && decide (a < winBase d + winSize d)
    let out := past || (rangeFrom 0 rows).any (fun i => !(inside (base + i * stride) && inside (base + i * stride + len - 1)))
    (if out then [cOutOfBounds] else []) ++
      ((rangeFrom 0 rows).flatMap (fun i => pagePieces (winPage d) (len + 1) (base + i * stride) len)).flatMap (fun pc =>
        match mapDva map pc.1 with
        | some m => s.mpaCodes niche write len m pc.2
        | none => [])

/-- Resolve a DVA operand at once: walk its pages, then its other codes. -/
def State.resolveDva (r : Rec) (p niche : Nat) (write : Bool) (base stride len rows : Nat) (s : State) : Resolved :=
  let x := s.walkPages r p niche write (s.dvaPages p niche base stride len rows)
  ⟨x.2.2.dvaCodes p niche write base stride len rows x.2.1 ++ x.1, x.2.1, x.2.2⟩

/-- The codes of one operand by its kind, its pages walked. -/
def State.operandCodes (s : State) (q : QRef) (seq kind : Nat) (write : Bool) (base stride len rows : Nat) (map : List PageMap) :
    List Nat :=
  match kind with
  | 0 => s.dvaCodes (s.qPed q) (s.qNiche q) write base stride len rows map
  | 1 => localCodes base stride len rows
  | _ => (if base + (rows - 1) * stride + len > 2 ^ 64 then [cOutOfBounds] else []) ++
      (if (s.hif (s.entFn q seq)).bme then [] else [cPermission])

/-- The first code of a list in the order of Table 10.7. -/
def tableOrder (codes : List Nat) : Option Nat :=
  [cBadDescriptor, cOutOfBounds, cPermission, cUncorrectable, cTranslationMiss].find? (fun c => codes.contains c)

/-- What a check of a COPY or FILL decides. -/
structure Checked where
  /-- none: accepted -/
  code : Option Nat
  srcMap : List PageMap
  dstMap : List PageMap
  st : State

def State.ctrRefused (s : State) (q : QRef) (d : Desc) : Bool := d.cen && !(s.niche (s.qNiche q)).ownsCtr d.ctr

/-- The conditions of Table 10.7 that come before any address is looked at: the code, if one holds. -/
def State.earlyCode (s : State) (q : QRef) (d : Desc) : Option Nat :=
  let overlap := d.op == 1 && d.sk == d.dk && d.len != 0 && d.rows != 0 &&
    decide (d.sspan.1 < d.dspan.2) && decide (d.dspan.1 < d.sspan.2)
  if d.bad || overlap then some cBadDescriptor
  else if d.len = 0xFFFFFFFF then some cLengthInvalid
  else if d.len = 0 ∨ d.rows = 0 then some (if s.ctrRefused q d then cPermission else cDone)
  else none

/-- The page-table reads of a check, in their order: the source operand's before the destination's (R414). -/
def State.checkPages (s : State) (q : QRef) (d : Desc) : List (Bool × Nat) :=
  if (s.earlyCode q d).isSome then []
  else
    (if d.op = 1 ∧ d.sk = 0 then (s.dvaPages (s.qPed q) (s.qNiche q) d.src d.sstride d.len d.rows).map (fun a => (false, a)) else []) ++
    (if d.dk = 0 then (s.dvaPages (s.qPed q) (s.qNiche q) d.dst d.dstride d.len d.rows).map (fun a => (true, a)) else [])

/-- The code of the first condition of Table 10.7, or acceptance, once the pages are walked. In RT-8 mode misses are not
checked (Table 10.11). -/
def State.lateCode (s : State) (q : QRef) (seq : Nat) (d : Desc) (walked : List Nat) (src dst : List PageMap) : Option Nat :=
  match s.earlyCode q d with
  | some c => some c
  | none =>
    let codes := (if s.ctrRefused q d then [cPermission] else []) ++ walked ++
      (if d.op = 1 then s.operandCodes q seq d.sk false d.src d.sstride d.len d.rows src else []) ++
      s.operandCodes q seq d.dk true d.dst d.dstride d.len d.rows dst
    tableOrder (if s.qRt8 q then codes.filter (· ≠ cTranslationMiss) else codes)

/-- One page-table read of a check. -/
def State.checkWalk (q : QRef) (seq : Nat) (pg : Bool × Nat) (s : State) : List Nat × List PageMap × State :=
  s.walkPage (s.qRec q seq) (s.qPed q) (s.qNiche q) pg.1 pg.2

/-- R413, all reads of the check at once. In RT-8 mode no translation is fixed (Table 10.11). -/
def State.checkDma (q : QRef) (seq : Nat) (d : Desc) (s : State) : Checked :=
  let x := (s.checkPages q d).foldl (fun (acc : List Nat × List PageMap × List PageMap × State) pg =>
    let w := acc.2.2.2.checkWalk q seq pg
    (acc.1 ++ w.1, if pg.1 then acc.2.1 else acc.2.1 ++ w.2.1, if pg.1 then acc.2.2.1 ++ w.2.1 else acc.2.2.1, w.2.2)) ([], [], [], s)
  let s := x.2.2.2
  let m := fun (l : List PageMap) => if s.qRt8 q then [] else l
  ⟨s.lateCode q seq d x.1 x.2.1 x.2.2.1, m x.2.1, m x.2.2.1, s⟩

/-! ## Completion, holding, retirement -/

/-- Is the entry at position `i` later than the failed entry that holds the queue (R424)? -/
def laterThan (es : List Entry) (held : Option Nat) (i : Nat) : Bool :=
  match held with
  | none => false
  | some n =>
    match (es.map (·.seq)).findIdx? (· == n) with
    | some k => decide (k < i)
    | none => true

/-- Codes that hold a queue (R424, R578). -/
def holdsQueue (q : QRef) (code : Nat) : Bool :=
  code == cUncorrectable || code == cPoisonedInput ||
  (match q with | .sq _ => code == cTimeout | .core _ _ => false)

/-- An entry signals its counter, if it names one of its niche (R418). -/
def State.entrySignal (q : QRef) (e : Entry) (s : State) : State :=
  if e.desc.cen && !e.blind && (s.niche (s.qNiche q)).ownsCtr e.desc.ctr then s.signalNow e.desc.ctr e.desc.inc else s

/-- The job remembers the code of its earliest failed entry (R647). -/
def State.noteJobFail (q : QRef) (code : Nat) (s : State) : State :=
  match q with
  | .core k _ =>
    match (s.core (coreKey k)).job with
    | some j => s.updJob j (fun jb => match jb.failCode with
      | none => { jb with failCode := some code }
      | some _ => jb)
    | none => s
  | .sq _ => s

/-- What run-ahead reads of an entry that never began had met is recorded: no operation completes with it (R431, R650). -/
def State.aheadReport (e : Entry) (s : State) : State :=
  e.aheadBad.foldl (fun s b =>
    let r := { b.report with sev := 2, code := 0 }
    if b.code = cUncorrectable then s.errUE r else s.record r 1) s

/-- Complete an entry with a code (R417, R424, R425); `own`: a failed check, whose code stands on a held queue. The failure of a
native-mode entry holds the queue: an entry behind it that was accepted and has not begun before this cycle does not begin
(Table 10.9). -/
def State.completeEntry (q : QRef) (seq code : Nat) (part own : Bool) (s : State) : State :=
  match s.qEntry q seq with
  | none => s
  | some e =>
    if e.phase = .complete then s
    else
      let own := own && code != cDone
      let es := s.qEntries q
      let i := (es.map (·.seq)).findIdx (· == seq)
      let later := laterThan es (s.qHeld q) i
      let code' := if later && !own then cOrderHeld else code
      let part' := if later && !own then e.began else part
      let s := s.qUpd q seq (fun e => { e with phase := .complete, code := code', part := part', own := own })
      let s := if code = cUncorrectable ∨ code = cPoisonedInput then s.noteJobFail q code else s
      let s := if holdsQueue q code' && !s.qRt8 q then
          let es := s.qEntries q
          let held := if laterThan es (s.qHeld q) i then s.qHeld q else some seq
          s.qSet q ((numbered es).map (fun ie =>
            if i < ie.1 && ie.2.phase == .accepted then { ie.2 with doomed := true }
            else if i < ie.1 && ie.2.phase == .running && ie.2.job.isNone && ie.2.moved == 0 && ie.2.stamp == s.now then
              { ie.2 with phase := .accepted, doomed := true, began := false }
            else ie.2)) held
        else s
      s.entrySignal q e

/-- The code and PART with which the front entry retires, if it may (R419, R424, R425). -/
def retireCode (es : List Entry) (held : Option Nat) : Option (Nat × Bool) :=
  match es with
  | [] => none
  | e :: _ =>
    let later := laterThan es held 0
    match e.phase with
    | .complete =>
      if later && !e.own then some (cOrderHeld, e.began)
      else some (e.code, e.part && (e.code == cCancelled || e.code == cOrderHeld || e.code == cResetAbort))
    | .accepted => if e.doomed || later then some (cOrderHeld, false) else none
    | _ => none

/-- RESUME (R426). Entries accepted behind the failure still complete ORDER_HELD; one accepted in this cycle runs normally
(Table 10.9). -/
def State.qResume (q : QRef) (s : State) : State :=
  s.qSet q ((s.qEntries q).map (fun e => if e.phase = .accepted ∧ e.stamp = s.now then { e with doomed := false } else e)) none

/-- End every entry that `p` picks and that has not completed with a code, PART as R427 and R597 give, and signal (R418). -/
def State.qAbort (q : QRef) (code : Nat) (p : Entry → Bool) (s : State) : State :=
  let hit := fun (e : Entry) => e.phase != .complete && p e
  let es := s.qEntries q
  let s := s.qSet q (es.map (fun e =>
    if hit e then { e with phase := .complete, code := code, own := true,
                           part := if code = cResetAbort then decide (0 < e.moved) else e.began } else e)) (s.qHeld q)
  (es.filter hit).foldl (fun s e => (if e.began then s else s.aheadReport e).entrySignal q e) s

/-- CANCEL of the entries that move bytes themselves (R427); the queue is no longer held (R426). -/
def State.qCancel (q : QRef) (s : State) : State :=
  let s := s.qAbort q cCancelled (fun e => e.job.isNone)
  s.qSet q (s.qEntries q) none

/-! ## Where the bytes are -/

/-- One end of a transfer at a byte address. -/
inductive Spot where
  | mpa (a : Nat)
  | host (f : Bool) (a : Nat)
  deriving DecidableEq, Repr

/-- MPA of a core's local address (Tables 07.3, 10.2). -/
def State.localMpa (s : State) (key a : Nat) : Nat :=
  let base := dieBase (clusOfCore key)
  if a < 0x200000 then base + (s.core key).lcore * 0x400000 + a else base + 0x4000000 + (a - 0x800000)

/-- The runs of an operand's bytes: spot and length; none where no translation is held. -/
def State.spots (s : State) (q : QRef) (f : Bool) (kind : Nat) (m : List PageMap) (a n : Nat) : List (Option Spot × Nat) :=
  match kind with
  | 0 => (pagePieces (2 ^ 16) (n + 1) a n).map (fun pc => ((mapDva m pc.1).map Spot.mpa, pc.2))
  | 1 => [((qCore q).map (fun k => .mpa (s.localMpa k a)), n)]
  | _ => [(some (.host f a), n)]

/-- Destination runs of an entry that has not completed: MPA and length. Where no translation is fixed (not yet accepted, or in
RT-8 mode), the page tables as they stand say where its bytes will go. -/
def State.dstRuns (s : State) (q : QRef) (e : Entry) : List (Nat × Nat) :=
  if e.desc.bad ∨ !(e.desc.op == 1 || e.desc.op == 2) ∨ e.desc.len = 0xFFFFFFFF then []
  else (rangeFrom 0 (if e.desc.len = 0 then 0 else e.desc.rows)).flatMap (fun r =>
    let a := e.desc.dst + r * e.desc.dstride
    match e.desc.dk with
    | 0 => (pagePieces (2 ^ 16) (e.desc.len + 1) a e.desc.len).filterMap (fun pc =>
        (match mapDva e.dstMap pc.1 with
          | some m => some m
          | none => if e.dstMap.isEmpty || s.qRt8 q then s.peek (s.qPed q) (s.qNiche q) pc.1 else none).map (fun m => (m, pc.2)))
    | 1 => ((qCore q).map (fun k => (s.localMpa k a, e.desc.len))).toList
    | _ => [])

/-- Does a run overlap a range? -/
def overlapsRun (lo n : Nat) (r : Nat × Nat) : Bool := decide (r.1 < lo + n) && decide (lo < r.1 + r.2)

/-- Entries that `p` picks, of every queue. -/
def State.entriesWhere (s : State) (p : Entry → Bool) : List (QRef × Entry) :=
  (s.cores.flatMap (fun kv =>
    let key := kv.1
    if h : key < 2560 then
      let k : CoreId := ⟨⟨key / 128, by omega⟩, ⟨key / 16 % 8, by omega⟩, ⟨key % 16, by omega⟩⟩
      ([0, 1, 2, 3] : List (Fin 4)).flatMap (fun q => ((kv.2.dq q.val).entries.filter p).map (fun e => (QRef.core k q, e)))
    else [])) ++
  s.sqs.flatMap (fun kv =>
    if h : kv.1 < 512 then (kv.2.entries.filter p).map (fun e => (QRef.sq ⟨kv.1, h⟩, e)) else [])

/-- Accepted entries that have not completed. -/
def State.liveEntries (s : State) : List (QRef × Entry) :=
  s.entriesWhere (fun e => e.phase == .accepted || e.phase == .running || e.phase == .parked)

/-- Entries submitted that have not completed: the outstanding ones. -/
def State.openEntries (s : State) : List (QRef × Entry) := s.entriesWhere (fun e => e.phase != .complete)

/-- Writes to a core's SFU load window that have not completed (R200, Table 05.7). -/
def State.sfuOutstanding (s : State) (key : Nat) : Nat :=
  let lo := dieBase (clusOfCore key) + 0x6000000 + (s.core key).lcore * 0x40000
  (s.openEntries.filter (fun qe => (s.dstRuns qe.1 qe.2).any (overlapsRun lo 0x40000))).length

/-- Does a write to an instruction-store line remain (Table 06.1)? -/
def State.linePending (s : State) (key line : Nat) : Bool :=
  let lo := dieBase (clusOfCore key) + 0x5000000 + (s.core key).lcore * 0x20000 + line * 512
  s.openEntries.any (fun qe => (s.dstRuns qe.1 qe.2).any (overlapsRun lo 512))

end Sys2Proof.Machine
end

