-- ==== Sys2Proof/Machine/Move.lean ====
section
/-! DEFINITION. The DMA engine apart from time: what a check, a transfer, a completion and a retirement do (R410 to R438, R569 to
R578, R649, R660). Time.lean says when those of on-chip entries happen; Dma.lean holds the commands. -/
namespace Sys2Proof.Machine
open Sys2Proof

/-! ## Requests that meet a running reset (R659, R660) -/

/-- Does a place lie in the target of a reset? -/
def RstRun.hits (r : RstRun) (l : Loc) : Bool :=
  match r.scope with
  | 1 =>
    let k := (r.ped * 8 + r.clus) * 16 + r.unit
    (match l with | .cstore key _ => key == k | .istore key _ => key == k | .sfuwin key _ => key == k | _ => false)
  | 2 =>
    let c := r.ped * 8 + r.clus
    (match l with
     | .cstore key _ => key / 16 == c | .istore key _ => key / 16 == c | .sfuwin key _ => key / 16 == c
     | .clstore cl _ => cl == c | .save cl => cl == c | _ => false)
  | 4 =>
    (match l with
     | .cstore key _ => key / 128 == r.ped | .istore key _ => key / 128 == r.ped | .sfuwin key _ => key / 128 == r.ped
     | .clstore cl _ => cl / 8 == r.ped | .save cl => cl / 8 == r.ped | .plinth p _ => p == r.ped | .hbm k => k == r.ped
     | .unassigned => false)
  | 6 => (match l with | .hbm k => k == r.unit | _ => false)
  | _ => false

/-- Does a spot lie in the target? The PCIe ports are those of pedestals 16 and 17. -/
def State.spotHit (s : State) (r : RstRun) : Spot → Bool
  | .mpa a => r.hits (s.loc a)
  | .host f _ => r.scope == 4 && r.ped == (if f then 17 else 16)

/-- Does an entry touch the target of a reset: engine, counter or operand? -/
def State.entryHit (s : State) (r : RstRun) (q : QRef) (e : Entry) : Bool :=
  (match qCore q with | some key => r.hits (.cstore key 0) | none => false) ||
  (r.scope == 4 && (s.qPed q == r.ped || (e.desc.cen && e.desc.ctr / 1024 == r.ped))) ||
  (rangeFrom 0 e.desc.rows).any (fun i =>
    ((if e.desc.op = 1 then s.spots q e.fn e.desc.sk e.srcMap (e.desc.src + i * e.desc.sstride) e.desc.len else []) ++
      s.spots q e.fn e.desc.dk e.dstMap (e.desc.dst + i * e.desc.dstride) e.desc.len).any (fun x =>
        match x.1 with | some sp => s.spotHit r sp | none => false))

/-! ## Host memory -/

/-- Code of a failed host-memory read by KIND (Table 14.16). -/
def hostKindCode (k : Nat) : Nat :=
  match k with
  | 0 => cUncorrectable
  | 1 => cPoisonedInput
  | _ => cTimeout

/-- Bits of the AER status registers (PCI Express Base Specification, which R21 names and the manual does not print: PRESUMED):
receiver error; poisoned TLP received, completion timeout. -/
def aerReceiver : Nat := 0
def aerPoisoned : Nat := 12
def aerTimeout : Nat := 14

/-- AER notes a corrected error of function `f` (Table 14.1). -/
def State.aerCor (f : Bool) (bit : Nat) (s : State) : State :=
  s.updHif f (fun h => { h with cfg := { h.cfg with cor := h.cfg.cor ||| BitVec.ofNat 32 (2 ^ bit) } })

/-- AER notes an uncorrectable error. The header of the TLP that made the first one not masked is logged; what a header holds
no command gives, so its words are free values. -/
def State.aerUnc (f : Bool) (bit : Nat) (tlp : Bool) (s : State) : State :=
  let c := (s.hif f).cfg
  let log := tlp && c.unc &&& ~~~c.uncMask == 0 && !c.uncMask.getLsbD bit
  let s := s.updHif f (fun h => { h with cfg := { h.cfg with unc := h.cfg.unc ||| BitVec.ofNat 32 (2 ^ bit) } })
  if log then
    let a := s.drawFree
    let b := a.2.drawFree
    b.2.updHif f (fun h => { h with cfg := { h.cfg with hdrLog := a.1 ++ b.1 } })
  else s

/-- A TLP reaches function `f`: an armed HIF_INJ_AER with DOUBLE 0 reports it as a correctable error (Table 16.13). -/
def State.tlp (f : Bool) (s : State) : State :=
  let u := if f then 1 else 0
  if s.arm 0x3C u = 1 then ((s.disarm 0x3C u).aerCor f aerReceiver).errCE { Rec.base 0x16 0 0 (some (16 + u)) none with unit := u }
  else s

/-- A module read of host memory: bytes and code. An armed HIF_INJ_HOSTREAD makes it fail (R571, R582). -/
def State.hostRead (r : Rec) (f : Bool) (a n : Nat) (s : State) : List Byte × Nat × State :=
  let tgt := if f then 1 else 0
  let s := s.tlp f
  let armed := s.arm 0x38 tgt
  if armed = 0 then ((s.hif f).mem.bytes a n, cDone, s)
  else
    let code := hostKindCode (armed - 1)
    let s := ((s.disarm 0x38 tgt).updHif f (fun h => { h with err := h.err ||| 2 })).mark (fnReg f 0x0C) 2
    let s := if code = cPoisonedInput then s.aerUnc f aerPoisoned true else if code = cTimeout then s.aerUnc f aerTimeout false else s
    ([], code, s.errUE { r with det := 0x12, sev := 1, code := code, ped := some (16 + tgt), addr := a, aspace := 4, unit := tgt })

/-! ## Holds that DMA releases (Table 06.1) -/

/-- Does a hold still stand? -/
def State.holdStands (s : State) (key : Nat) : Hold → Bool
  | .queueFull q => decide (512 ≤ ((s.core key).dq q).entries.length)
  | .retire q n => ((s.core key).dq q).outstanding n
  | .sfuBank => s.sfuOutstanding key != 0
  | .instrLine l => s.linePending key l

/-- Cores whose hold has ended issue in the next cycle (R215). -/
def State.releaseHolds (s : State) : State :=
  (s.coresInOrder (fun c => c.hold.isSome && c.st == .hold)).foldl (fun s k =>
    match (s.core k).hold with
    | some h => if s.holdStands k h then s else s.updCore k (fun c => { c with hold := none, st := .run, ready := s.now + 1 })
    | none => s) s

/-! ## Completion queues (R575 to R577, R580, R598) -/

def cqSize (c : Cq) : Nat := bits c.cfg.toNat 3 0
def sqSize (q : Sq) : Nat := bits q.cfg.toNat 3 0

/-- Room in a completion queue. -/
def Cq.room (c : Cq) : Bool := !c.stopped && bitAt c.cfg.toNat 31 && decide ((c.tail - c.head).toNat < 2 ^ cqSize c - 1)

/-- Vector `vec` of function `f` is sent for its CQs: their intervals begin anew, and nothing is owed (R580). -/
def State.cqSent (f : Bool) (vec : Nat) (s : State) : State :=
  { s with cqs := Tbl.map Cq.reset (fun _ c => if c.owner = some f ∧ bits c.cfg.toNat 18 8 = vec then
      { c with aggBusy := bits c.cfg.toNat 27 20 ≠ 0, aggPend := false } else c) s.cqs }

/-- Send a CQ's vector, or note that it is owed at the end of the interval since that vector was last sent for a CQ (R580). -/
def State.cqNotify (n : Nat) (s : State) : State :=
  let c := s.cq n
  match c.owner with
  | none => s
  | some f =>
    if !bitAt c.cfg.toNat 30 then s
    else if c.aggBusy ∧ bits c.cfg.toNat 27 20 ≠ 0 then s.setCq n { c with aggPend := true }
    else (s.cqSent f (bits c.cfg.toNat 18 8)).msix f (bits c.cfg.toNat 18 8)

/-- Write one entry at TAIL. -/
def State.cqWrite (n : Nat) (e : Cqe) (s : State) : State :=
  let c := s.cq n
  match c.owner with
  | none => s
  | some f =>
    let idx := c.tail.toNat % 2 ^ cqSize c
    let bs := leBytes e.tag.toNat 8 ++ leBytes e.seq.toNat 4 ++ [e.code,
      BitVec.ofNat 8 ((if c.phase then 1 else 0) + (if e.part then 2 else 0))] ++ leBytes e.sq.toNat 2
    let s := s.setCq n { c with tail := c.tail + 1, phase := if idx + 1 = 2 ^ cqSize c then !c.phase else c.phase }
    s.updHif f (fun h => { h with mem := Memory.write (c.base.toNat + 16 * idx) bs h.mem })

/-- Write held completions while there is room, then notify once. -/
def State.cqDrainN (n : Nat) : Nat → Bool → State → State
  | 0, any, s => if any then s.cqNotify n else s
  | fuel + 1, any, s =>
    match (s.cq n).heldC with
    | [] => if any then s.cqNotify n else s
    | e :: es =>
      if (s.cq n).room then State.cqDrainN n fuel true ((s.updCq n (fun c => { c with heldC := es })).cqWrite n e)
      else if any then s.cqNotify n else s

def State.cqDrain (n : Nat) (s : State) : State := State.cqDrainN n ((s.cq n).heldC.length + 1) false s

/-- A retired completion joins its CQ in order. -/
def State.cqPost (n : Nat) (e : Cqe) (s : State) : State :=
  (s.updCq n (fun c => { c with heldC := c.heldC ++ [e] })).cqDrain n

/-! ## Retirement (R419, R420, R575) -/

/-- What retirement writes. -/
def State.retireWrite (q : QRef) (e : Entry) (code : Nat) (part : Bool) (s : State) : State :=
  match q with
  | .core k qn =>
    let a := 0x1FC000 + qn.val * 0x1000 + 8 * (e.seq % 512)
    let v := e.seq + code * 2 ^ 32 + (if part then 2 ^ 40 else 0)
    (s.updCore (coreKey k) (fun c => { c with cstore := Memory.write a (leBytes v 8) c.cstore })).evC (coreKey k) 0x0B 1
  | .sq n =>
    let x := s.sq n.val
    if x.releasing then s
    else s.cqPost (bits x.cfg.toNat 16 8)
      ⟨if e.blind then 0 else BitVec.ofNat 64 e.desc.tag, BitVec.ofNat 32 e.seq, BitVec.ofNat 8 code, part && !e.blind, BitVec.ofNat 9 n.val⟩

/-- Retire every entry that may retire, in sequence order. -/
def State.retireN (q : QRef) : Nat → State → State
  | 0, s => s
  | fuel + 1, s =>
    let es := s.qEntries q
    match es, retireCode es (s.qHeld q) with
    | e :: rest, some (code, part) =>
      let s : State := if e.phase = Phase.complete then s else (s.aheadReport e).entrySignal q e
      let s : State := match e.job with
        | some j => if e.phase = Phase.complete then s else s.setJob j none
        | none => s
      let s := s.qSet q rest (s.qHeld q)
      State.retireN q fuel (s.retireWrite q e code part)
    | _, _ => s

/-- A disabled and released queue keeps its other registers (Table 14.9). -/
def Sq.release (q : Sq) : Sq :=
  { q with cfg := q.cfg &&& 0x7FFFFFFF, owner := none, held := none, stopped := false, releasing := false, tail := q.head }
def Cq.release (c : Cq) : Cq :=
  { c with cfg := c.cfg &&& 0x7FFFFFFF, owner := none, stopped := false, releasing := false, heldC := [] }

/-- The entries of a queue that a Function Level Reset ends complete in sequence order: those before the first whose job has
still to stop (Table 14.9). -/
def State.flrAbort (q : QRef) (s : State) : State :=
  match q with
  | .sq n =>
    if (s.sq n.val).releasing then
      let ns := ((s.qEntries q).takeWhile (fun e => e.phase == .complete || (e.job.bind s.job).isNone)).map (·.seq)
      s.qAbort q cResetAbort (fun e => ns.contains e.seq)
    else s
  | .core _ _ => s

/-- Completion queues of a function that was reset are released once no queue that names them is waiting (Table 14.9). -/
def State.releaseCqs (s : State) : State :=
  s.cqs.foldl (fun s kv =>
    if kv.2.releasing ∧ ¬ s.sqs.any (fun q => q.2.releasing && bits q.2.cfg.toNat 16 8 == kv.1) then s.setCq kv.1 kv.2.release else s) s

/-- A queue disabled by a Function Level Reset is released once its entries have retired (Table 14.9). -/
def State.releaseSq (q : QRef) (s : State) : State :=
  match q with
  | .sq n => if (s.sq n.val).releasing ∧ (s.sq n.val).entries.isEmpty then
      (s.setSq n.val (s.sq n.val).release).releaseCqs else s
  | .core _ _ => s

def State.retireAll (q : QRef) (s : State) : State :=
  ((State.retireN q ((s.qEntries q).length + 1) (s.flrAbort q)).releaseSq q).releaseHolds

/-- May the front entry of a queue retire? -/
def State.mayRetire (s : State) (q : QRef) : Bool := (retireCode (s.qEntries q) (s.qHeld q)).isSome

/-! ## Descriptor check (R413 to R415, R425, R660) -/

/-- Plinth offset of the page-table entry of a page. -/
def State.pteOffset (s : State) (q : QRef) (pg : Nat) : Nat :=
  match s.window (s.qPed q) (s.qNiche q) pg with
  | none => 0
  | some d => (winL2 d + 8 * ((pg - winBase d) / winPage d)) % 0x100000000

/-- The cycle of the next event of a check, nominally in cycle `t`: a page-table read waits out a refresh window (R396, R414). -/
def State.checkNext (s : State) (q : QRef) (todo : List (Bool × Nat)) (t : Nat) : Nat :=
  match todo with
  | [] => t
  | pg :: _ => refreshClear (s.pteOffset q pg.2) t

/-- The next entry of a queue to be checked. -/
def State.nextCheck (s : State) (q : QRef) : Option Entry := (s.qEntries q).find? (fun e => e.phase == .waiting)

/-- The cycle in which the check of an entry of a core queue begins (R414). -/
def DQueue.checkStart (d : DQueue) (e : Entry) : Nat := max (e.issuedAt + 2) d.checkEnd

/-- The check of the next entry of a core queue begins. -/
def State.startCheck (k : CoreId) (q : Fin 4) (s : State) : State :=
  let d := (s.core (coreKey k)).dq q.val
  match d.chk, s.nextCheck (.core k q) with
  | none, some e =>
    let todo := s.checkPages (.core k q) e.desc
    let c : CheckRun := ⟨e.seq, s.checkNext (.core k q) todo (d.checkStart e + 8), todo, [], [], []⟩
    s.updCore (coreKey k) (fun x => x.setDq q.val { d with chk := some c })
  | _, _ => s

/-- The check under way reads its next page-table entry. -/
def State.sampleCheck (k : CoreId) (q : Fin 4) (s : State) : State :=
  match ((s.core (coreKey k)).dq q.val).chk with
  | none => s
  | some c =>
    match c.todo with
    | [] => s
    | pg :: rest =>
      let w := s.checkWalk (.core k q) c.seq pg
      let s := w.2.2
      let c := { c with
        todo := rest, next := s.checkNext (.core k q) rest (c.next + 16), codes := c.codes ++ w.1
        src := if pg.1 then c.src else c.src ++ w.2.1, dst := if pg.1 then c.dst ++ w.2.1 else c.dst }
      s.updCore (coreKey k) (fun x => x.setDq q.val { x.dq q.val with chk := some c })

/-- Cores whose SFU shadow bank is bank 1. -/
def State.shadowOnes (s : State) : List Nat := (s.cores.filter (fun kv => !kv.2.active)).map (·.1)

/-- A check ends: the entry is accepted, or completes with its code (R414, R425). A no-op completes DONE, or ORDER_HELD on a held
queue; an entry that meets a running reset completes RESET_ABORT (R660). -/
def State.decide1 (q : QRef) (e : Entry) (r : Checked) (s : State) : State :=
  match r.code with
  | some c => s.completeEntry q e.seq c false true
  | none =>
    let e' : Entry := { e with phase := Phase.accepted, stamp := s.now, srcMap := r.srcMap, dstMap := r.dstMap }
    let e' : Entry := { e' with banks := s.shadowOnes, doomed := (s.qHeld q).isSome }
    if s.ras.rsts.any (fun rr => s.entryHit rr q e') then s.completeEntry q e.seq cResetAbort false true
    else s.qUpd q e.seq (fun _ => e')

/-- The check under way on a core queue ends. -/
def State.finishCheck (k : CoreId) (q : Fin 4) (s : State) : State :=
  match ((s.core (coreKey k)).dq q.val).chk with
  | none => s
  | some c =>
    let r : QRef := .core k q
    let s := s.updCore (coreKey k) (fun x => x.setDq q.val { x.dq q.val with chk := none, checkEnd := c.next })
    match s.qEntry r c.seq with
    | none => s
    | some e =>
      if e.phase ≠ .waiting then s
      else
        let m := fun (l : List PageMap) => if s.qRt8 r then [] else l
        s.decide1 r e ⟨s.lateCode r c.seq e.desc c.codes c.src c.dst, m c.src, m c.dst, s⟩

/-- The check of the next COPY or FILL of a host queue, in time of its own (R569). -/
def State.checkSq (n : Fin 512) (s : State) : State :=
  match s.nextCheck (.sq n) with
  | none => s
  | some e =>
    if e.desc.op = 8 ∨ e.desc.op = 9 ∨ e.desc.op = 10 then s
    else
      let r := s.checkDma (.sq n) e.seq e.desc
      r.st.decide1 (.sq n) e r

/-! ## Transfers -/

/-- Pedestal of a spot, for the armature (R43, R46). -/
def State.spotPed (s : State) : Spot → Nat
  | .host f _ => if f then 17 else 16
  | .mpa a => match s.loc a with
    | .hbm k => k
    | .plinth p _ => p
    | .cstore key _ => key / 128
    | .clstore c _ => c / 8
    | .istore key _ => key / 128
    | .sfuwin key _ => key / 128
    | .save c => c / 8
    | .unassigned => 0

/-- Is every byte of an operand in the core store, cluster store or plinth memory of pedestal `p`? -/
def State.onPed (s : State) (p : Nat) (runs : List (Option Spot × Nat)) : Bool :=
  runs.all (fun x => match x.1 with
    | some (.mpa a) => (match s.loc a with
      | .plinth p' _ => p' == p
      | .cstore key _ => key / 128 == p
      | .clstore c _ => c / 8 == p
      | _ => false)
    | _ => false)

def State.rowRuns (s : State) (q : QRef) (e : Entry) (i : Nat) : List (Option Spot × Nat) × List (Option Spot × Nat) :=
  (if e.desc.op = 1 then s.spots q e.fn e.desc.sk e.srcMap (e.desc.src + i * e.desc.sstride) e.desc.len else [],
   s.spots q e.fn e.desc.dk e.dstMap (e.desc.dst + i * e.desc.dstride) e.desc.len)

/-- R364. -/
def State.onChip (s : State) (q : QRef) (e : Entry) : Bool :=
  match q with
  | .sq _ => false
  | .core k _ => !s.qRt8 q && (rangeFrom 0 e.desc.rows).all (fun i =>
      let r := s.rowRuns q e i
      s.onPed k.p.val r.1 && s.onPed k.p.val r.2)

/-- The 64-byte segments of runs, as first addresses. -/
def runSegs (runs : List (Option Spot × Nat)) : List Nat :=
  runs.flatMap (fun x => match x.1 with
    | some (.mpa a) => (segments a x.2).map (· * 64)
    | _ => [])

/-- When the channel has moved one row that it takes up in cycle `t`: four segments of each side a cycle, held while a
plinth segment among them is under refresh (R396, R421). -/
def State.rowEnd (s : State) : Nat → Nat → List Nat → List Nat → Nat
  | 0, t, _, _ => t
  | fuel + 1, t, a, b =>
    if a.isEmpty ∧ b.isEmpty then t
    else
      let t := ((a.take 4) ++ (b.take 4)).foldl (fun t g => match s.loc g with
        | .plinth _ o => refreshClear o t
        | _ => t) t
      State.rowEnd s fuel (t + 1) (a.drop 4) (b.drop 4)

/-- The cycle in which the channel is free again, for an on-chip entry that begins in cycle `t`. -/
def State.channelEnd (s : State) (q : QRef) (e : Entry) (t : Nat) : Nat :=
  (rangeFrom 0 e.desc.rows).foldl (fun t i =>
    let r := s.rowRuns q e i
    let a := runSegs r.1
    let b := runSegs r.2
    s.rowEnd (a.length + b.length + 1) t a b) t

/-- Cluster of a core queue. -/
def qClus : QRef → Nat
  | .core k _ => k.p.val * 8 + k.c.val
  | .sq _ => 0

/-- May an accepted entry begin: not behind a failure, its FENCE met, and in turn in RT-8 mode (R424, R572, R433)? -/
def State.mayBegin (s : State) (q : QRef) (e : Entry) : Bool :=
  let es := s.qEntries q
  let i := (es.map (·.seq)).findIdx (· == e.seq)
  let before := es.take i
  e.phase == .accepted && (e.desc.op == 1 || e.desc.op == 2) && !e.doomed && !laterThan es (s.qHeld q) i &&
  (!(e.desc.fence || s.qRt8 q) || before.all (fun x => x.phase == .complete))

/-- The cycle in which an accepted on-chip entry may begin: after its acceptance, when its cluster's channel is free (R421). -/
def State.onChipAt (s : State) (q : QRef) (e : Entry) : Nat := max (e.stamp + 1) (s.clu (qClus q)).dmaFree

/-- Rank of on-chip entries that become eligible in one cycle (R421). -/
def State.onChipRank (s : State) (q : QRef) (e : Entry) : Nat :=
  match q with
  | .core k qn => ((s.onChipAt q e * 16 + (s.core (coreKey k)).lcore) * 4 + qn.val) * 2 ^ 32 + e.seq
  | .sq _ => 0

/-- On-chip entries that may begin, of every core queue. -/
def State.onChipReady (s : State) : List (QRef × Entry) :=
  s.liveEntries.filter (fun x => (match x.1 with | .core _ _ => true | .sq _ => false) && s.mayBegin x.1 x.2 && s.onChip x.1 x.2)

/-- Is the entry the next of its cluster's channel? -/
def State.channelTurn (s : State) (q : QRef) (e : Entry) : Bool :=
  s.onChipReady.all (fun x => qClus x.1 != qClus q || decide (s.onChipRank q e ≤ s.onChipRank x.1 x.2))

/-- An on-chip entry begins in cycle `t`: it takes its cluster's channel, and will complete 12 cycles after its last row (R421). -/
def State.beginOnChip (q : QRef) (seq t : Nat) (s : State) : State :=
  match s.qEntry q seq with
  | none => s
  | some e =>
    let fin := s.channelEnd q e t
    let s := s.updClu (qClus q) (fun c => { c with dmaFree := fin })
    s.qUpd q seq (fun e => { e with phase := .running, began := true, stamp := fin + 12 })

/-- Park an RT-8 entry at a missing page (R434, R436, Table 14.6). -/
def State.park (q : QRef) (seq : Nat) (write : Bool) (dva : Nat) (s : State) : State :=
  match q with
  | .sq _ => s
  | .core k qn =>
    let key := coreKey k
    let s := s.qUpd q seq (fun e => { e with phase := .parked })
    let s := s.updCore key (fun c => c.setDq qn.val { c.dq qn.val with faultWrite := write, faultDva := dva % 2 ^ 48 })
    match (s.niche (s.qNiche q)).owner with
    | some f => s.postEvent f 0x01 ((s.qTag q).1 + qn.val * 2 ^ 16) (dva % 2 ^ 48 + (if write then 2 ^ 48 else 0))
    | none => s

/-- Make sure that the page of one side's next byte is translated. In RT-8 mode each page reached is walked then, and the rest of
the row within it meets the conditions of Table 10.7 (R433 to R435): true when the transfer may go on. -/
def State.reach (q : QRef) (seq : Nat) (write : Bool) (s : State) : Bool × State :=
  match s.qEntry q seq with
  | none => (false, s)
  | some e =>
    let d := e.desc
    let row := e.moved / d.len
    let off := e.moved % d.len
    let kind := if write then d.dk else d.sk
    let a := if write then d.dst + row * d.dstride + off else d.src + row * d.sstride + off
    let m := if write then e.dstMap else e.srcMap
    if kind ≠ 0 ∨ !s.qRt8 q ∨ (!write ∧ d.op ≠ 1) ∨ (mapDva m a).isSome then (true, s)
    else
      let p := s.qPed q
      let n := s.qNiche q
      let (c, mpa, s) := s.walk (s.qRec q seq) p n a write
      if c = cDone then
        let page := match s.window p n a with | some w => winPage w | none => 2 ^ 16
        match tableOrder (s.mpaCodes n write d.len mpa (min (d.len - off) (page - a % page))) with
        | some c => (false, s.completeEntry q seq c false false)
        | none =>
          let pm : PageMap := ⟨a / page * page, page, mpa - a % page⟩
          (true, s.qUpd q seq (fun e => if write then { e with dstMap := [pm] } else { e with srcMap := [pm] }))
      else if c = cTranslationMiss then (false, s.park q seq write a)
      else (false, s.completeEntry q seq c false false)

/-- The bytes of a FILL row (R412). -/
def fillBytes (v off n : Nat) : List Byte := (rangeFrom off n).map (fun j => BitVec.ofNat 8 (v / 256 ^ (j % 4)))

/-- A source read's failure before its bytes are looked at: an armed DMA_INJ_UNCORR (Table 10.18). -/
def State.srcInject (q : QRef) (seq : Nat) (s : State) : Option Rec × State :=
  match q with
  | .core k qn =>
    let o := corePage (coreKey k) + 0x380
    if s.arm o qn.val = 0 then (none, s)
    else (some { s.qRec q seq with det := 0x0B, code := cUncorrectable, ped := some (s.qPed q) }, s.disarm o qn.val)
  | .sq _ => (none, s)

/-- Read source bytes: data and code (R423). -/
def State.srcRead (q : QRef) (seq : Nat) (e : Entry) (a n : Nat) (s : State) : List Byte × Nat × State :=
  let rc := s.qRec q seq
  match s.srcInject q seq with
  | (some r, s) => ([], cUncorrectable, s.errUE r)
  | (none, s) =>
    (s.spots q e.fn e.desc.sk e.srcMap a n).foldl (fun acc x =>
      let (bs, c, s) := acc
      match x.1 with
      | some (.mpa m) => let (b, c', s) := s.readRun rc m x.2; (bs ++ b, if c = cDone then c' else c, s)
      | some (.host f m) => let (b, c', s) := s.hostRead rc f m x.2; (bs ++ b, if c = cDone then c' else c, s)
      | none => (bs, cUncorrectable, s)) ([], cDone, s)

/-- Errors found by a read that no operation has yet completed with: the corrected are reported, the first other is kept. -/
def State.aheadFound (pos n code : Nat) (fs : List Found) (acc : List AheadBad × State) : List AheadBad × State :=
  fs.foldl (fun acc f => match f with
    | .ce r => (acc.1, acc.2.report (.ce r))
    | .ue r => (acc.1 ++ [⟨pos, n, code, r⟩], acc.2)
    | .poison r => (acc.1 ++ [⟨pos, n, code, r⟩], acc.2)) acc

/-- A run-ahead read of the next source segment of an accepted native-mode COPY (R429, R431): it is counted, and a failure is
kept with the entry. Its bytes are read again when they move (DESIGN CHOICE, log 68). -/
def State.runAhead (q : QRef) (seq : Nat) (s : State) : State :=
  match s.qEntry q seq with
  | none => s
  | some e =>
    let d := e.desc
    if e.phase ≠ .accepted ∨ d.op ≠ 1 ∨ s.qRt8 q ∨ d.bytes ≤ e.ahead then s
    else
      let row := e.ahead / d.len
      let off := e.ahead % d.len
      let sa := d.src + row * d.sstride + off
      let m := min (d.len - off) (64 - sa % 64)
      let s := s.evP (s.qPed q) 0x05 1
      let r : List AheadBad × State := match s.srcInject q seq with
        | (some r, s) => ([⟨e.ahead, m, cUncorrectable, r⟩], s)
        | (none, s) =>
          (s.spots q e.fn d.sk e.srcMap sa m).foldl (fun (acc : List AheadBad × State) x => match x.1 with
            | some (.mpa a) =>
              let y := acc.2.segFind (s.qRec q seq) a x.2
              State.aheadFound e.ahead m y.1 y.2.1 (acc.1, y.2.2)
            | _ => acc) (([], s) : List AheadBad × State)
      r.2.qUpd q seq (fun e => { e with ahead := e.ahead + m, aheadBad := e.aheadBad ++ r.1 })

def State.runAheadN (q : QRef) (seq : Nat) : Nat → State → State
  | 0, s => s
  | n + 1, s => State.runAheadN q seq n (s.runAhead q seq)

/-- Read source bytes that move: a failure that a run-ahead read of them met is theirs. -/
def State.moveRead (q : QRef) (seq : Nat) (e : Entry) (a n : Nat) (s : State) : List Byte × Nat × State :=
  match e.aheadBad.find? (fun b => decide (b.pos < e.moved + n) && decide (e.moved < b.pos + b.len)) with
  | some b =>
    ([], b.code, if b.code = cUncorrectable then s.errUE b.report else s.record b.report 1)
  | none => s.srcRead q seq e a n

/-- Write destination bytes, or mark or leave them when the data is bad (R399, R423). -/
def State.dstWrite (q : QRef) (e : Entry) (a n : Nat) (bs : List Byte) (ok : Bool) (s : State) : State :=
  let r := (s.spots q e.fn e.desc.dk e.dstMap a n).foldl (fun (acc : List Byte × State) x =>
    let here := acc.1.take x.2
    let s := acc.2
    (acc.1.drop x.2, match x.1 with
      | some (.mpa m) =>
        if ok then State.clearPoison m x.2 ((s.evHbmWrite m x.2).mpaWriteRun (fun k => e.banks.contains k) m here) else s.markPoison m x.2
      | some (.host f m) => if ok then s.updHif f (fun h => { h with mem := Memory.write m here h.mem }) else s
      | none => s)) (bs, s)
  r.2

/-- A slot of the dynamic share from pedestal `a` to pedestal `b`: whether it is lost, with its error record (R43, R649). -/
def State.dynCross (rc : Rec) (a b : Nat) (s : State) : Bool × State :=
  if a = b then (false, s)
  else
    let (lost, s) := s.slotFails (dynOuts 9 a b)
    (lost, if lost then s.errUE { rc with det := 0x0D, code := cUncorrectable, ped := some b } else s)

/-- Does the slot that carries these bytes between pedestals fail (R43, R649)? A COPY's bytes go straight from the pedestal of
their source to that of their destination, though the engine may stand on a third; a FILL's come from the engine's pedestal
(DESIGN CHOICE, log 105). -/
def State.dynSlot (q : QRef) (seq : Nat) (e : Entry) (sa da n : Nat) (s : State) : Bool × State :=
  let from_ := if e.desc.op = 1 then (match s.spots q e.fn e.desc.sk e.srcMap sa n with
      | (some x, _) :: _ => some (s.spotPed x)
      | _ => none) else some (s.qPed q)
  match from_, s.spots q e.fn e.desc.dk e.dstMap da n with
  | some a, (some y, _) :: _ => s.dynCross (s.qRec q seq) a (s.spotPed y)
  | _, _ => (false, s)

/-- The next piece of a begun entry: source address, destination address, bytes. One slot of the dynamic share carries one
destination segment's bytes, at most 64 (DESIGN CHOICE, log 106). -/
def State.nextPiece (s : State) (q : QRef) (e : Entry) : Nat × Nat × Nat :=
  let d := e.desc
  let row := e.moved / d.len
  let off := e.moved % d.len
  let sa := d.src + row * d.sstride + off
  let da := d.dst + row * d.dstride + off
  let m := min (d.len - off) (64 - da % 64)
  (sa, da, if s.qRt8 q ∧ d.op = 1 then min m (2 ^ 16 - sa % 2 ^ 16) else m)

/-- Move the bytes of the next destination segment of a begun entry. -/
def State.moveChunk (q : QRef) (seq : Nat) (s : State) : State :=
  match s.qEntry q seq with
  | none => s
  | some e =>
    if e.phase ≠ .running ∨ e.desc.bytes ≤ e.moved then s
    else
      let r1 := s.reach q seq false
      if !r1.1 then r1.2
      else
        let r2 := r1.2.reach q seq true
        if !r2.1 then r2.2
        else
          let s := r2.2
          match s.qEntry q seq with
          | none => s
          | some e =>
            let (sa, da, m) := s.nextPiece q e
            let (bs, code, s) := if e.desc.op = 1 then s.moveRead q seq e sa m
              else (fillBytes e.desc.fillv (e.moved % e.desc.len) m, cDone, s)
            let (lost, s) := if code = cDone then s.dynSlot q seq e sa da m else (false, s)
            let code := if lost then cUncorrectable else code
            let s := s.dstWrite q e da m bs (code == cDone)
            s.qUpd q seq (fun e => { e with moved := e.moved + m, began := true, code := if e.code = cDone then code else e.code })

def State.moveN (q : QRef) (seq : Nat) : Nat → State → State
  | 0, s => s
  | n + 1, s => State.moveN q seq n (s.moveChunk q seq)

/-- The segments that an entry's bytes take. -/
def Desc.chunks (d : Desc) : Nat := d.rows * (d.len / 32 + 3)

/-- First cycle in which DMA bytes may land on a run of a core store: T-slot and V-slot instructions that read or write them have
ended and landed (R297). -/
def Core.memFree (c : Core) (a n t : Nat) : Nat :=
  c.memops.foldl (fun t m =>
    if (m.spans ++ m.dst).any (fun x => decide (x.1 < a + n) && decide (a < x.1 + x.2)) then max t (max m.occEnd (m.due + 1))
    else t) t

/-- First cycle from `t` in which an entry's bytes, `n` from destination address `da`, may land. -/
def State.landFree (s : State) (q : QRef) (e : Entry) (da n t : Nat) : Nat :=
  (s.spots q e.fn e.desc.dk e.dstMap da n).foldl (fun t x => match x.1 with
    | some (.mpa a) => (match s.loc a with
      | .cstore key o => (s.core key).memFree o x.2 t
      | _ => t)
    | _ => t) t

/-- The same for all destination bytes of an entry. -/
def State.entryFree (s : State) (q : QRef) (e : Entry) (t : Nat) : Nat :=
  (rangeFrom 0 e.desc.rows).foldl (fun t r => s.landFree q e (e.desc.dst + r * e.desc.dstride) e.desc.len t) t

/-- The bytes of an on-chip entry due in cycle `d` land, unless R297 holds them back. -/
def State.landOnChip (d : Nat) (x : QRef × Entry) (s : State) : State :=
  let t := s.entryFree x.1 x.2 d
  if d < t then s.qUpd x.1 x.2.seq (fun e => { e with stamp := t })
  else State.moveN x.1 x.2.seq x.2.desc.chunks s

/-- An entry whose bytes have all moved completes with its code (R417). -/
def State.endMoved (q : QRef) (seq : Nat) (s : State) : State :=
  match s.qEntry q seq with
  | some e => if e.phase = .running ∧ e.job.isNone ∧ e.desc.bytes ≤ e.moved then s.completeEntry q seq e.code false false else s
  | none => s

end Sys2Proof.Machine
end

