-- ==== Sys2Proof/Machine/Relief.lean ====
section
/-! DEFINITION. The relief engine (R325 to R353): convolutions under the reference reduction, layout conversion and
regrouping on a cluster store. Time.lean says when a command starts and completes. -/
namespace Sys2Proof.Machine
open Sys2Proof

/-- A relief command record (Table 08.4). -/
structure RelRec where
  op : Nat
  fi : Nat
  fw : Nat
  fill : Nat
  dir : Bool
  cen : Bool
  reserved : Bool
  inA : Nat
  wA : Nat
  outA : Nat
  h : Nat
  w : Nat
  c : Nat
  cout : Nat
  kh : Nat
  kw : Nat
  sh : Nat
  sw : Nat
  dh : Nat
  dw : Nat
  pt : Nat
  pb : Nat
  pl : Nat
  pr : Nat
  fillc : Nat
  inRec : RowParam
  inCs : Nat
  outCs : Nat
  wrec : Nat
  ctr : Nat
  deriving DecidableEq, Repr

def relBase (i : Nat) : Nat := 0x67F000 + 64 * i

/-- The record as it stands in the cluster store. -/
def RelRec.read (m : Memory) (i : Nat) : RelRec :=
  let b := relBase i
  let f := fun o n => m.le (b + o) n
  let ctl := f 0 4
  { op := bits ctl 3 0, fi := bits ctl 6 4, fw := bits ctl 9 7, fill := bits ctl 11 10, dir := bitAt ctl 12
    cen := bitAt ctl 13, reserved := bits ctl 31 14 != 0, inA := f 8 4, wA := f 12 4, outA := f 16 4, h := f 20 2
    w := f 22 2, c := f 24 2, cout := f 26 2, kh := f 28 1, kw := f 29 1, sh := f 30 1, sw := f 31 1, dh := f 32 1
    dw := f 33 1, pt := f 34 1, pb := f 35 1, pl := f 36 1, pr := f 37 1, fillc := f 38 2
    inRec := RowParam.ofDouble (f 40 8), inCs := f 48 2, outCs := f 50 2, wrec := f 52 4, ctr := f 56 4 % 2 ^ 15 }

/-- Output size along one axis (R328). -/
def outSize (i pb pa k s d : Nat) : Nat :=
  let e := i + pb + pa
  let f := d * (k - 1) + 1
  if f ≤ e then (e - f) / s + 1 else 0

def RelRec.ho (r : RelRec) : Nat := outSize r.h r.pt r.pb r.kh r.sh r.dh
def RelRec.wo (r : RelRec) : Nat := outSize r.w r.pl r.pr r.kw r.sw r.dw
def RelRec.cq (r : RelRec) : Nat := (r.c + 31) / 32 * 32
def RelRec.isConv (r : RelRec) : Bool := r.op == 1 || r.op == 2

def ceilDiv (a b : Nat) : Nat := (a + b - 1) / b

def inRange (lo hi x : Nat) : Bool := decide (lo ≤ x) && decide (x ≤ hi)

/-- Geometry of a convolution (Tables 08.1, 08.6). -/
def RelRec.convOk (r : RelRec) : Bool :=
  [r.h, r.w, r.c, r.cout].all (inRange 1 65535) && [r.kh, r.kw, r.sh, r.sw, r.dh, r.dw].all (inRange 1 64) &&
  (if r.op = 1 then inRange 1 32 r.c && inRange 1 256 r.cout else inRange 1 4096 r.c && r.cout == r.c)

/-- The path kind of a convolution (true: FI48), for the pairs that R348 allows. -/
def RelRec.kind (r : RelRec) : Option Bool :=
  match Fmt.ofCode r.fi, Fmt.ofCode r.fw with
  | some a, some b => if a = .fa32 ∨ b = .fa32 then none else pairKind a b
  | _, _ => none

/-- First check of Table 08.5. -/
def RelRec.bad (r : RelRec) (ped : Nat) : Bool :=
  r.reserved || r.fill == 3 || (r.cen && r.ctr / 1024 != ped) ||
  (match r.op with
   | 1 => !r.convOk || r.kind.isNone
   | 2 => !r.convOk || r.kind.isNone
   | 3 => !([r.h, r.w, r.c].all (inRange 1 65535)) || !(r.kh == 16 || r.kh == 32) ||
      (match Fmt.ofCode r.fi with | some f => f == .fi48 | none => true)
   | 4 => !([r.h, r.w, r.c].all (inRange 1 65535)) || !(r.kh == 2 || r.kh == 4) || (Fmt.ofCode r.fi).isNone ||
      r.h % r.kh != 0 || r.w % r.kh != 0
   | 5 => !([r.h, r.w, r.c].all (inRange 1 65535)) || !(r.kh == 2 || r.kh == 4) || (Fmt.ofCode r.fi).isNone ||
      r.c % (r.kh * r.kh) != 0
   | _ => true)

/-- First byte past a planar map of row stride `w × cs` (R325). -/
def planarEnd (base h w c cs es : Nat) : Nat := base + ((h - 1) * (w * cs) + (w - 1) * cs + c) * es
def blockedEnd (base h w c b es : Nat) : Nat := base + ceilDiv c b * h * w * b * es

/-- The ends of operands and outputs; a convolution with no output has none (R330). -/
def RelRec.ends (r : RelRec) : List Nat :=
  let es := ((Fmt.ofCode r.fi).map Fmt.size).getD 1
  let ew := ((Fmt.ofCode r.fw).map Fmt.size).getD 1
  match r.op with
  | 3 =>
    if r.dir then [planarEnd r.inA r.h r.w r.c r.inCs es, blockedEnd r.outA r.h r.w r.c r.kh es]
    else [blockedEnd r.inA r.h r.w r.c r.kh es, planarEnd r.outA r.h r.w (max r.c r.outCs) r.outCs es]
  | 4 => [planarEnd r.inA r.h r.w r.c r.inCs es, planarEnd r.outA (r.h / r.kh) (r.w / r.kh) (r.c * r.kh * r.kh) r.outCs es]
  | 5 => [planarEnd r.inA r.h r.w r.c r.inCs es, planarEnd r.outA (r.h * r.kh) (r.w * r.kh) (r.c / (r.kh * r.kh)) r.outCs es]
  | _ =>
    if r.ho = 0 ∨ r.wo = 0 then []
    else
      [planarEnd r.inA r.h r.w r.c r.inCs es, r.wA + r.cout * r.kh * r.kw * r.cq * ew,
       planarEnd r.outA r.ho r.wo r.cout r.outCs (if r.kind = some true then 8 else 4)] ++
      (if r.kind = some true then [r.wrec + 8 * r.cout] else [])

/-- Occupancy (Table 08.6). -/
def RelRec.occupancy (r : RelRec) : Nat :=
  let es := ((Fmt.ofCode r.fi).map Fmt.size).getD 1
  16 + (match r.op with
  | 1 => r.ho * r.wo * r.kh * r.kw * ceilDiv r.c 16 * ceilDiv r.cout 32
  | 2 => r.ho * r.wo * r.kh * r.kw * ceilDiv r.c 32
  | 3 => ceilDiv (r.h * r.w * ceilDiv r.c r.kh * r.kh * es) 64
  | _ => ceilDiv (r.h * r.w * r.c * es) 64)

/-- Code of one element of a cluster store. -/
def storeCode (m : Memory) (f : Fmt) (a : Nat) : Nat :=
  match f with
  | .fi48 => m.le a 8
  | _ => m.le a f.size

/-- The code that the zero-point fill gives (Table 08.2). -/
def zeroCode (f : Fmt) (p : RowParam) : Nat := if f.isFq then (p.zpFor f % 2 ^ (8 * f.size)).toNat else 0

/-- Input code at a position, which may lie in the padding (R329). -/
def RelRec.inputCode (r : RelRec) (m : Memory) (f : Fmt) (iy ix : Int) (c : Nat) : Nat :=
  let at_ := fun (y x : Nat) => storeCode m f (r.inA + (y * (r.w * r.inCs) + x * r.inCs + c) * f.size)
  if 0 ≤ iy ∧ iy < r.h ∧ 0 ≤ ix ∧ ix < r.w then at_ iy.toNat ix.toNat
  else match r.fill with
    | 0 => zeroCode f r.inRec
    | 1 => r.fillc
    | _ => at_ (min iy.toNat (r.h - 1)) (min ix.toNat (r.w - 1))

/-- The terms of one output element, in the order of k (R332): input code, weight code; none for padding channels. -/
def RelRec.terms (r : RelRec) (m : Memory) (fi fw : Fmt) (oy ox co : Nat) : List (Option (Nat × Nat)) :=
  (rangeFrom 0 r.kh).flatMap (fun ky => (rangeFrom 0 r.kw).flatMap (fun kx =>
    let iy : Int := (oy * r.sh + ky * r.dh : Nat) - (r.pt : Int)
    let ix : Int := (ox * r.sw + kx * r.dw : Nat) - (r.pl : Int)
    (rangeFrom 0 r.cq).map (fun c =>
      if r.c ≤ c ∨ (r.op = 2 ∧ c ≠ co) then none
      else some (r.inputCode m fi iy ix c, storeCode m fw (r.wA + ((co * r.kh * r.kw + ky * r.kw + kx) * r.cq + c) * fw.size)))))

/-- One output element: bytes and flags (R332 to R334, R337, R349). Where DWCONV takes a weight as zero, the input still
enters the product, so a NaN there is seen. -/
def RelRec.element (r : RelRec) (m : Memory) (fi fw : Fmt) (int : Bool) (oy ox co : Nat) : List Byte × AFlags :=
  let ts := r.terms m fi fw oy ox co
  if int then
    let wz := (RowParam.ofDouble (m.le (r.wrec + 8 * co) 8)).zpFor fw
    let ps := ts.map (fun t => match t with
      | some (a, b) => (codeInt fi a - r.inRec.zpFor fi, codeInt fw b - wz)
      | none => (0, 0))
    let x := dotInt ps 0
    (elemBytes .fi48 (x.1 % 2 ^ 48).toNat, x.2)
  else
    let zero : Val × Val := (.num Dy.zero, .num Dy.zero)
    let inputs := (rangeFrom 0 r.kh).flatMap (fun ky => (rangeFrom 0 r.kw).flatMap (fun kx =>
      (rangeFrom 0 r.cq).map (fun c =>
        if r.c ≤ c then zero
        else (readFloat fi (r.inputCode m fi ((oy * r.sh + ky * r.dh : Nat) - (r.pt : Int)) ((ox * r.sw + kx * r.dw : Nat) - (r.pl : Int)) c),
          .num Dy.zero))))
    let ps := (ts.zip inputs).map (fun ti => match ti.1 with
      | some (a, b) => (readFloat fi a, readFloat fw b)
      | none => if r.op = 2 then ti.2 else zero)
    let x := dotFloat fi 1 ps 0
    (leBytes x.1 4, x.2)

/-- The outputs of a convolution. -/
def RelRec.convOut (r : RelRec) (m : Memory) : List (Nat × List Byte) × AFlags :=
  match Fmt.ofCode r.fi, Fmt.ofCode r.fw, r.kind with
  | some fi, some fw, some int =>
    let es := if int then 8 else 4
    let els := (rangeFrom 0 r.ho).flatMap (fun oy => (rangeFrom 0 r.wo).flatMap (fun ox =>
      (rangeFrom 0 r.cout).map (fun co =>
        let e := r.element m fi fw int oy ox co
        ((r.outA + (oy * (r.wo * r.outCs) + ox * r.outCs + co) * es, e.1), e.2))))
    (els.map (·.1), els.foldl (fun f e => f ||| e.2) Flag.none)
  | _, _, _ => ([], Flag.none)

/-- The moves of LAYOUT, S2D and D2S: destination address and bytes (R325, R326, R341, R348). -/
def RelRec.moveOut (r : RelRec) (m : Memory) : List (Nat × List Byte) :=
  match Fmt.ofCode r.fi with
  | none => []
  | some f =>
    let es := f.size
    let zero := leBytes (zeroCode f r.inRec) es
    let planar := fun (base w cs y x c : Nat) => base + (y * (w * cs) + x * cs + c) * es
    let blocked := fun (base y x c : Nat) => base + ((((c / r.kh) * r.h + y) * r.w + x) * r.kh + c % r.kh) * es
    let grid := fun (h w c : Nat) => (rangeFrom 0 h).flatMap (fun y => (rangeFrom 0 w).flatMap (fun x =>
      (rangeFrom 0 c).map (fun k => (y, x, k))))
    match r.op with
    | 3 =>
      if r.dir then
        (grid r.h r.w (ceilDiv r.c r.kh * r.kh)).map (fun p =>
          (blocked r.outA p.1 p.2.1 p.2.2, if p.2.2 < r.c then m.bytes (planar r.inA r.w r.inCs p.1 p.2.1 p.2.2) es else zero))
      else
        (grid r.h r.w (max r.c r.outCs)).map (fun p =>
          (planar r.outA r.w r.outCs p.1 p.2.1 p.2.2, if p.2.2 < r.c then m.bytes (blocked r.inA p.1 p.2.1 p.2.2) es else zero))
    | 4 =>
      let k := r.kh
      (grid r.h r.w r.c).map (fun p =>
        (planar r.outA (r.w / k) r.outCs (p.1 / k) (p.2.1 / k) (((p.1 % k) * k + p.2.1 % k) * r.c + p.2.2),
         m.bytes (planar r.inA r.w r.inCs p.1 p.2.1 p.2.2) es))
    | 5 =>
      let k := r.kh
      let c' := r.c / (k * k)
      (grid (r.h * k) (r.w * k) c').map (fun p =>
        (planar r.outA (r.w * k) r.outCs p.1 p.2.1 p.2.2,
         m.bytes (planar r.inA r.w r.inCs (p.1 / k) (p.2.1 / k) (((p.1 % k) * k + p.2.1 % k) * c' + p.2.2)) es))
    | _ => []

/-- The code of the first condition of Table 08.5 that holds. -/
def State.relCheck (s : State) (clus : Nat) (r : RelRec) : Nat :=
  if r.bad (clus / 8) then cBadDescriptor
  else if r.ends.any (fun e => decide (0x67F000 < e)) then cOutOfBounds
  else if r.cen && !(match s.clusNiche clus with | some n => (s.niche n).ownsCtr r.ctr | none => false) then cPermission
  else cDone

/-- Injected errors in the engine's reads: the cluster store, then its buffers (Tables 16.1, 16.13). -/
def State.relReads (clus : Nat) (s : State) : Bool × State :=
  let rc := { Rec.base 0x02 1 cUncorrectable (some (clus / 8)) (s.clusNiche clus) with unit := clus % 8 * 16 }
  let o := clusPage clus + 0x200
  let (bad, s) := match s.arm o 0 with
    | 0 => (false, s)
    | 1 => (false, (s.disarm o 0).errCE { rc with sev := 0 })
    | _ => (true, (s.disarm o 0).errUE rc)
  let o := clusPage clus + 0x204
  if s.arm o 0 = 0 then (bad, s) else (true, (s.disarm o 0).errUE { rc with det := 0x0E })

/-- The cycle in which the next queued command of an idle engine starts (R346). -/
def Cluster.relStart (c : Cluster) (now : Nat) : Option Nat :=
  if c.relRun.isNone && !c.relQ.isEmpty then some (max now c.relReady) else none

/-- The engine of a cluster starts the next queued command in cycle `t` (R346, R347): it reads the record and the operands as
they stand before the writes of that cycle. An operand address that is no multiple of the element size is taken as it is, for
Table 08.5 names no check of it (DESIGN CHOICE, log 107). -/
def State.startRelief (clus t : Nat) (s : State) : State :=
  match (s.clu clus).relRun, (s.clu clus).relQ with
  | none, i :: _ =>
    let cl := s.clu clus
    let r := RelRec.read cl.store i
    let code := s.relCheck clus r
    let (bad, s) := if code = cDone ∧ ¬ (r.isConv ∧ (r.ho = 0 ∨ r.wo = 0)) then s.relReads clus else (false, s)
    let work : List (Nat × List Byte) × AFlags :=
      if code ≠ cDone ∨ bad then ([], Flag.none) else if r.isConv then r.convOut cl.store else (r.moveOut cl.store, Flag.none)
    let run : RelRun := ⟨i, r.cen, r.ctr, t, t + (if code = cDone then r.occupancy else 16),
      if bad then cUncorrectable else code, work.2, work.1⟩
    s.updClu clus (fun c => { c with relQ := c.relQ.drop 1, relRun := some run })
  | _, _ => s

/-- A relief command that failed on bad data makes its job report it (R352). -/
def State.relFail (clus : Nat) (s : State) : State :=
  s.jobs.foldl (fun s kv => match kv.2 with
    | some j => if j.st = .running ∧ j.clus.contains clus ∧ j.failCode.isNone then
        s.setJob kv.1 (some { j with failCode := some cUncorrectable }) else s
    | none => s) s

/-- R350, R351. The running command completes: outputs, STATUS, GO, count and signal. Core writes of that cycle stand over
the engine's. -/
def State.endRelief (clus : Nat) (s : State) : State :=
  match (s.clu clus).relRun with
  | none => s
  | some r =>
    let status := r.code + r.flags.toNat * 256
    let s := s.updClu clus (fun c =>
      let m := r.out.foldl (fun m o => Memory.write o.1 o.2 m) c.store
      { c with store := Memory.write (relBase r.idx + 0x3C) [0, 0, 0, 0] (Memory.write (relBase r.idx + 4) (leBytes status 4) m)
               relRun := none, relCount := c.relCount + 1, relReady := r.endAt + 1 })
    let s := (if r.code = cUncorrectable then s.relFail clus else s).evK clus 0x03 1
    if r.cen ∧ r.ctr / 1024 < 20 then
      { s with sigs := s.sigs ++ [⟨r.ctr, 1, false, r.endAt + 4, some clus, 0, 0, 0, false, s.order⟩], order := s.order + 1 }
    else s

end Sys2Proof.Machine
end

