-- ==== Sys2Proof/Machine/Time.lean ====
section
/-! DEFINITION. Time: which events are due, and the order in which those of one cycle happen (R225, R234, R293 to R295, R346,
R365, R366, R414, R419, R421, R422, R428). The key of an event is twice its cycle, plus one for what comes after issue. Before
issue: register results, page-table reads of descriptor checks, starts of relief commands. After issue: bytes of on-chip DMA
entries, relief outputs, core stores, ASEND slots; then completions, acceptances and retirements; then the sync counters; then
starts of transfers and the end of holds. -/
namespace Sys2Proof.Machine
open Sys2Proof

/-- What a command answers. -/
abbrev Outcome := Host.Outcome State Fault Refusal

/-- The root is gated: no edge occurs, so no cycle passes (R370, R371). -/
def State.gated (s : State) : Bool := s.pwr.droop

/-! ## What is due -/

/-- Keys of the events of a core's operations. -/
def Core.keys (c : Core) : List Nat :=
  c.flights.map (fun f => if f.wr.any Wr.isReg then 2 * f.due else 2 * f.due + 1) ++
  c.sends.flatMap (fun r => r.slots.map (fun x => 2 * x.due + 1)) ++
  (match c.wait with
   | some w => (w.cmp.map (fun d => 2 * d + 1)).toList ++ (if w.timeout = 0 then [] else [2 * (w.issued + w.timeout) + 1])
   | none => [])

/-- Core queues that hold entries or a check. -/
def State.busyQueues (s : State) : List (CoreId × Fin 4) :=
  s.cores.flatMap (fun kv =>
    let key := kv.1
    if h : key < 2560 then
      let k : CoreId := ⟨⟨key / 128, by omega⟩, ⟨key / 16 % 8, by omega⟩, ⟨key % 16, by omega⟩⟩
      (([0, 1, 2, 3] : List (Fin 4)).filter (fun q =>
        !((kv.2.dq q.val).entries.isEmpty && (kv.2.dq q.val).chk.isNone))).map (fun q => (k, q))
    else [])

def State.dqOf (s : State) (x : CoreId × Fin 4) : DQueue := (s.core (coreKey x.1)).dq x.2.val

/-- Key of the next event of a queue's descriptor check. A page-table read comes before host writes of its CK_M cycle (R409). -/
def DQueue.checkKey (d : DQueue) : Option Nat :=
  match d.chk with
  | some c => some (if c.todo.isEmpty then 2 * c.next + 1 else 4 * (c.next / 2))
  | none => (d.entries.find? (fun e => e.phase == .waiting)).map (fun e => 2 * d.checkStart e)

/-- On-chip entries under way. -/
def State.onChipRunning (s : State) : List (QRef × Entry) :=
  (s.entriesWhere (fun e => e.phase == .running && e.job.isNone)).filter (fun x => s.onChip x.1 x.2)

/-- Queues whose front entry may retire. -/
def State.retiring (s : State) : List QRef :=
  ((s.busyQueues.map (fun x => QRef.core x.1 x.2)) ++
    s.sqs.flatMap (fun kv => if h : kv.1 < 512 then [QRef.sq ⟨kv.1, h⟩] else [])).filter s.mayRetire

/-- Keys of all pending events. -/
def State.keys (s : State) : List Nat :=
  s.cores.flatMap (fun kv => kv.2.keys) ++ s.sigs.map (fun g => 2 * g.due + 1) ++
  s.busyQueues.filterMap (fun x => (s.dqOf x).checkKey) ++
  s.onChipReady.map (fun x => 2 * s.onChipAt x.1 x.2 + 1) ++ s.onChipRunning.map (fun x => 2 * x.2.stamp + 1) ++
  s.clus.flatMap (fun kv => ((kv.2.relStart s.now).map (fun t => 2 * t)).toList ++
    (kv.2.relRun.map (fun r => 2 * r.endAt + 1)).toList) ++
  (if s.retiring.isEmpty then [] else [2 * s.now + 1])

def minKey : List Nat → Option Nat
  | [] => none
  | k :: ks => some (ks.foldl min k)

/-! ## The events of one cycle -/

/-- Before issue in cycle `d`. -/
def State.fireEarly (d : Nat) (s : State) : State :=
  let s := (s.coresInOrder (fun c => c.flights.any (fun f => f.due == d))).foldl (fun s k => s.fireRegs d k) s
  let s := s.busyQueues.foldl (fun s x => match (s.dqOf x).chk with
    | none => if (match (s.dqOf x).checkKey with | some k => decide (k ≤ 2 * d) | none => false) then s.startCheck x.1 x.2 else s
    | some c => if !c.todo.isEmpty ∧ c.next / 2 * 2 ≤ d then s.sampleCheck x.1 x.2 else s) s
  s.clus.foldl (fun s kv => match (s.clu kv.1).relStart s.now with
    | some t => if t ≤ d then s.startRelief kv.1 d else s
    | none => s) s

/-- Bytes that land after issue in cycle `d`: DMA, relief outputs, core stores, ASEND slots (R225, R295, R422). Relief commands
that they queue are taken in ascending index (R346). -/
def State.fireBytes (d : Nat) (s : State) : State :=
  let lens : Tbl Nat := List.map (fun kv => (kv.1, kv.2.relQ.length)) s.clus
  let s := (s.onChipRunning.filter (fun x => decide (x.2.stamp ≤ d))).foldl (fun s x => s.landOnChip d x) s
  let s := s.clus.foldl (fun s kv => match (s.clu kv.1).relRun with
    | some r => if r.endAt ≤ d then s.endRelief kv.1 else s
    | none => s) s
  let s := (s.coresInOrder (fun c => c.flights.any (fun f => f.due == d))).foldl (fun s k => s.fireMem d k) s
  let s := (s.coresInOrder (fun c => !c.sends.isEmpty)).foldl (fun s k => s.fireSends d k) s
  { s with clus := Tbl.map Cluster.reset (fun k c =>
      let n := Tbl.get 0 lens k
      { c with relQ := c.relQ.take n ++ sortBy id (c.relQ.drop n) }) s.clus }

/-- Completions, ends of checks and retirements of cycle `d` (Table 10.9). -/
def State.fireQueues (d : Nat) (s : State) : State :=
  let s := s.onChipRunning.foldl (fun s x => s.endMoved x.1 x.2.seq) s
  let s := s.busyQueues.foldl (fun s x => match (s.dqOf x).chk with
    | some c => if c.todo.isEmpty ∧ c.next ≤ d then s.finishCheck x.1 x.2 else s
    | none => s) s
  s.retiring.foldl (fun s q => s.retireAll q) s

/-- Starts of on-chip transfers in cycle `d` (R421). -/
def State.fireStarts (d : Nat) (s : State) : State :=
  s.onChipReady.foldl (fun s x => match s.qEntry x.1 x.2.seq with
    | some e => if s.mayBegin x.1 e ∧ s.onChipAt x.1 e ≤ d ∧ s.channelTurn x.1 e then s.beginOnChip x.1 e.seq d else s
    | none => s) s

/-- Everything at one key. -/
def State.fire (key : Nat) (s : State) : State :=
  let d := key / 2
  let s := s.tick (max s.now d)
  if key % 2 = 0 then s.fireEarly d
  else (((s.fireBytes d).fireQueues d).fireCounters d |>.fireStarts d).releaseHolds

/-- Fire every event up to a key, in order. -/
def State.settleN (lim : Nat) : Nat → State → State
  | 0, s => s
  | fuel + 1, s =>
    match minKey s.keys with
    | none => s
    | some k => if k ≤ lim then State.settleN lim fuel (s.fire k) else s

/-- No key is due twice. -/
def State.settle (lim : Nat) (s : State) : State := State.settleN lim (lim + 1) s

/-! ## Moving time -/

/-- Move time on to cycle `t`, firing what comes before it and what comes early in it. While the root is gated, no cycle
passes. -/
def State.advance (t : Nat) (s : State) : State :=
  if s.gated then s
  else
    let s := s.settle (2 * max t s.now)
    s.tick (max t s.now)

/-- Move time past cycle `d`, firing everything due in it. -/
def State.through (d : Nat) (s : State) : State :=
  if s.gated then s else (s.settle (2 * d + 1)).advance (d + 1)

/-- Close the present cycle when a host write or signal of it waits at a counter. -/
def State.closeAt (id : Nat) (s : State) : State :=
  if s.sigs.any (fun g => g.ctr == id && decide (g.due ≤ s.now)) then s.through s.now else s

/-- First cycle of an armature frame from cycle `t` on (R38). -/
def frameEdge (t : Nat) : Nat := (t + 8191) / 8192 * 8192

/-- At a frame edge a complete shadow copy of the slot tables takes over (R47). -/
def State.switchSlots (s : State) : State :=
  match s.slotShadow with
  | some (img, done) => if done < s.now ∨ s.now = 0 then { s with slots := some img, slotShadow := none } else s
  | none => s

/-- The gate withholds root edges for `ft` sixteenths of a CK_A: they are counted, and fabric time, which the ungated root drives,
runs on while the cycle count stands (R370, R371, R384, Table 19.9). -/
def State.withhold (ft : Nat) (s : State) : State :=
  { s with pwr := { s.pwr with withheld := s.pwr.withheld + BitVec.ofNat 64 ((ft + 7) / 8) }, ftOff := s.ftOff.map (· + (ft : Int)) }

/-- R385. An edge that lags the fabric frame edge by more than 2 CK_A holds the root until the next fabric frame edge. -/
def State.realign (s : State) : State :=
  let lag := s.ft % 131072
  if s.ftOff.isSome ∧ 32 < lag then s.withhold (131072 - lag) else s

/-- Time moves to a frame edge. -/
def State.toEdge (t : Nat) (s : State) : State := if s.gated then s else ((s.advance t).switchSlots).realign

end Sys2Proof.Machine
end

