-- ==== Sys2Proof/Machine/Issue.lean ====
section
/-! DEFINITION. The issue of one bundle: stalls (Table 06.1), the timing contract (Table 06.2, R296), faults (R220 to R222,
R323, R324), injected read errors (R646), effects (R214 to R218, R293, R298). -/
namespace Sys2Proof.Machine
open Sys2Proof

/-- The plans of a bundle, by slot number (0 T, 1 V, 2 M, 3 C). -/
def State.plans (s : State) (key niche : Nat) (seed : BitVec 128) (step : BitVec 64) (b : Bundle) : List (Nat × Plan) :=
  let c := s.core key
  [(0, planT c seed b.t), (1, planV c seed b.v), (2, planM s key niche b.m), (3, planC s key niche step b.c)]

/-! ## The timing contract -/

/-- Pending register writes: register and landing cycle. -/
def Core.pendRegs (c : Core) : List (Reg × Nat) :=
  c.flights.flatMap (fun f => f.wr.filterMap (fun w => w.reg.map (fun r => (r, f.due))))

/-- Core-store bytes that stores of the M slot have in flight. -/
def Core.pendStores (c : Core) : List (Nat × Nat × Nat) :=
  (c.flights.filter (fun f => f.slot == 2)).flatMap (fun f =>
    f.wr.filterMap (fun w => match w with
      | .cstore a bs => some (a, bs.length, f.due)
      | _ => none))

def overlapSpan (x y : Nat × Nat) : Bool := decide (x.1 < y.1 + y.2) && decide (y.1 < x.1 + x.2)
def overlapAny (xs ys : List (Nat × Nat)) : Bool := xs.any (fun x => ys.any (overlapSpan x))

/-- First free cycle of an engine. -/
def Core.freeAt (c : Core) : Engine → Nat
  | .tensor => c.tensorFree
  | .vector => c.vectorFree
  | .sfu => c.sfuFree
  | .mport => c.mportFree
  | .send => c.sendFree

def Core.setFree (c : Core) (t : Nat) : Engine → Core
  | .tensor => { c with tensorFree := t }
  | .vector => { c with vectorFree := t }
  | .sfu => { c with sfuFree := t }
  | .mport => { c with mportFree := t }
  | .send => { c with sendFree := t }

/-- Statistics and error slots are exempt from obligation 2. -/
def Reg.isStat : Reg → Bool
  | .st _ => true
  | .ms _ => true
  | _ => false

/-- Breaches of one slot issuing in cycle `t`, as obligations 0 to 3 of KIND (Table 06.13). -/
def Core.breaches (c : Core) (t : Nat) (all : List (Nat × Plan)) (i : Nat) (p : Plan) : List Nat :=
  let pend := c.pendRegs.filter (fun x => decide (t < x.2))
  let tv := c.memops.filter (fun m => decide (t < m.due))
  -- obligation 1
  let o1 := p.srcs.any (fun r => pend.any (fun x => x.1 == r)) ||
    overlapAny p.loads (tv.flatMap (·.dst)) || overlapAny p.spans (tv.flatMap (·.dst)) ||
    c.pendStores.any (fun x => decide (t < x.2.2) && decide (x.2.2 < t + p.memOcc) && overlapAny [(x.1, x.2.1)] p.spans) ||
    c.memops.any (fun m => (decide (t + p.storeLat < m.occEnd) && overlapAny p.stores m.spans) ||
      (decide (t + p.memLat < m.occEnd) && overlapAny p.dstSpans m.spans)) ||
    all.any (fun q => q.1 != i && ((decide (p.storeLat < q.2.memOcc) && overlapAny p.stores q.2.spans) ||
      (decide (p.memLat < q.2.memOcc) && overlapAny p.dstSpans q.2.spans)))
  -- obligation 2
  let o2 := p.dsts.any (fun d => !d.1.isStat &&
    (pend.any (fun x => x.1 == d.1 && x.2 == t + d.2) ||
     all.any (fun q => q.1 != i && q.2.dsts.any (fun e => e.1 == d.1 && e.2 == d.2))))
  -- obligation 3
  let o3 := p.dsts.any (fun d => pend.any (fun x => x.1 == d.1 && decide (t + d.2 < x.2))) ||
    tv.any (fun m => (decide (t + p.storeLat < m.due) && overlapAny p.stores m.dst) ||
      (decide (t + p.memLat < m.due) && overlapAny p.dstSpans m.dst)) ||
    c.pendStores.any (fun x => decide (t + p.memLat < x.2.2) && overlapAny p.dstSpans [(x.1, x.2.1)])
  -- obligation 4
  let o4 := p.occ.any (fun e => decide (t < c.freeAt e.1))
  faultIf o1 0 ++ faultIf o2 1 ++ faultIf o3 2 ++ faultIf o4 3

/-! ## Faults -/

def minNat (l : List Nat) (d : Nat) : Nat := match l with | [] => d | x :: xs => xs.foldl min x

/-- The CSQ_FAULT record (Table 06.13). -/
def faultWord (kind slots pc code : Nat) : BitVec 32 :=
  BitVec.ofNat 32 (2 ^ 31 + kind * 2 ^ 24 + slots * 2 ^ 20 + pc % 4096 * 256 + code)

/-- A core takes a fault: no effect in any slot, the record, and the job stops FORMAT_ERROR (R220, R221). -/
def State.coreFault (key kind slots pc code : Nat) (s : State) : State :=
  let s := ((s.updCore key (fun c => { c with fault := faultWord kind slots pc code })).mark (corePage key + 8) (2 ^ 31)).evC key 0x07 1
  match (s.core key).job with
  | some j => s.stopJob j cFormatError (some key)
  | none => s

/-- SLOTS from slot numbers. -/
def slotMask (l : List Nat) : Nat := [0, 1, 2, 3].foldl (fun m i => if l.contains i then m + 2 ^ i else m) 0

/-! ## Effects -/

/-- Cycles in which the slots of an ASEND enter: `n` slots of the route from CK_M cycle `k0` on (R317). -/
def enterCycles (slots : List Nat) (k0 n : Nat) : List Nat :=
  (((rangeFrom (k0 / 4096) (n + 2)).flatMap (fun f => slots.map (fun x => f * 4096 + x))).filter
    (fun k => decide (k0 ≤ k))).take n

/-- First CK_M cycle after the slots of the sends of a cluster on a route (R318). -/
def State.routeAfter (s : State) (clus route : Nat) : Nat :=
  (s.cores.flatMap (fun kv => if clusOfCore kv.1 = clus then
    (kv.2.sends.filter (fun r => r.route == route)).map (·.lastIn + 1) else [])).foldl max 0

/-- Book an ASEND of core `key` whose payload goes to local address `dst` of the destination, from cycle `t` on: its slots come
after those of earlier ones on its route, and the core's send port is taken till the last has entered (R317, R318, R320). -/
def State.bookSend (key route dst : Nat) (bytes : List Byte) (ctr : Option Nat) (t : Nat) (s : State) : State :=
  let p := pedOfCore key
  let clus := clusOfCore key
  let slots := routeSlots s.slots s.dshare p (clus % 8) route
  let ks := enterCycles slots (max ((t + 3) / 2) (s.routeAfter clus route)) (bytes.length / 1024)
  let last := ks.getLastD 0
  s.updCore key (fun c =>
    { c with sends := c.sends ++ [⟨route, last, sendSlots (fun k => routeLinks s.slots s.dshare p (k % 4096)) ks dst bytes, ctr⟩]
             sendFree := 2 * last + 1 })

/-- ASEND issued in cycle `t` (R316 to R319). -/
def State.issueSend (key route n src dst : Nat) (ctr : Option Nat) (t : Nat) (s : State) : State :=
  s.bookSend key route dst (s.localBytes key src (n * 1024)) ctr t

/-- DMAQ (R314, R315): the queue numbers the entry. -/
def State.issueDmaq (key q sd addr t : Nat) (s : State) : State :=
  let c := s.core key
  let d := c.dq q
  let seq := d.next
  let e := Entry.new seq.toNat (Desc.ofBytes (c.cstore.bytes addr 64) (dmaBad false)) t
  s.updCore key (fun c =>
    { c.setDq q { d with next := seq + 1, entries := d.entries ++ [e] } with
      flights := c.flights ++ [⟨t + 2, 2, [.sreg sd (seq.setWidth 64)], Flag.none⟩] })

/-- What a slot does besides landing results. -/
def State.doAct (key t : Nat) (a : Act) (s : State) : State :=
  match a with
  | .none => s
  | .branch tgt => s.updCore key (fun c => { c with brq := c.brq ++ [(c.issued.toNat + 3, tgt)] })
  | .signal ctr inc => s.issueSignal key ctr inc t
  | .wait w => s.updCore key (fun c => { c with st := .wait, wait := some { w with issued := t, cmp := some t } })
  | .yield => s.updCore key (fun c => { c with ycount := c.ycount + 1 })
  | .halt => s.updCore key (Core.stopAs .halted)
  | .fclr mask => s.updCore key (Core.clearFlags mask)
  | .dmaq q sd addr => s.issueDmaq key q sd addr t
  | .dwait q seq =>
    s.updCore key (fun c => if (c.dq q).outstanding seq then { c with hold := some (.retire q seq), st := .hold } else c)
  | .asend route n src dst ctr => s.issueSend key route n src dst ctr t
  | .sfswap => s.updCore key (fun c => { c with active := !c.active })

/-- Book a slot's engines, byte spans and results. -/
def Core.book (t i : Nat) (p : Plan) (c : Core) : Core :=
  let c := p.occ.foldl (fun c e => if e.1 = .send then c else c.setFree (t + e.2) e.1) c
  { c with
    memops := if p.spans.isEmpty then c.memops else c.memops ++ [⟨t + p.memOcc, t + p.memLat, p.spans, p.dstSpans⟩]
    flights := c.flights ++ p.res.map (fun r => ⟨t + r.lat, i, r.wr, r.flags⟩) }

/-! ## Injected read errors (Tables 05.10, 16.13) -/

/-- TARGET of CSQ_INJ_REGFILE for a register (Table 16.13). -/
def Reg.file : Reg → Option Nat
  | .s _ => some 0
  | .v _ => some 1
  | .p _ => some 2
  | .st _ => some 3
  | .ms _ => some 4
  | .t _ => none

/-- One read that an injection may fail: whether it fails, and the state after. -/
def State.injRead (key off tgt det : Nat) (s : State) : Bool × State :=
  let o := corePage key + off
  match s.arm o tgt with
  | 0 => (false, s)
  | 1 => (false, (s.disarm o tgt).coreCorr det key)
  | _ => (true, (s.disarm o tgt).coreUncorr det key)

/-- The same for the cluster store. -/
def State.injClus (key : Nat) (s : State) : Bool × State :=
  let o := clusPage (clusOfCore key) + 0x200
  match s.arm o 0 with
  | 0 => (false, s)
  | 1 => (false, (s.disarm o 0).coreCorr 0x02 key)
  | _ => (true, (s.disarm o 0).coreUncorr 0x02 key)

/-- The same for the SFU; the place is noted in SFU_PERR (R205, Table 05.9). -/
def State.injSfu (key tgt : Nat) (s : State) : Bool × State :=
  let r := s.injRead key 0x20C tgt 0x06
  (r.1, if r.1 then (r.2.updCore key (fun c => { c with perr := c.perr ||| BitVec.ofNat 3 (2 ^ tgt) })).mark (corePage key + 0x208) (2 ^ tgt)
    else r.2)

/-- Do any of a slot's reads fail? -/
def State.slotReads (key : Nat) (p : Plan) (s : State) : Bool × State :=
  let step := fun (acc : Bool × State) (f : State → Bool × State) => let r := f acc.2; (acc.1 || r.1, r.2)
  let acc := p.srcs.foldl (fun acc r =>
    match r with
    | .t n => step acc (fun s => s.injRead key 0x40C n 0x05)
    | _ => step acc (fun s => s.injRead key 0x408 ((r.file).getD 0) 0x04)) (false, s)
  let acc := if p.rdCore then step acc (fun s => s.injRead key 0x400 0 0x01) else acc
  let acc := if p.rdClus then step (acc.1, acc.2.evK (clusOfCore key) 0x01 1) (State.injClus key) else acc
  p.rdSfu.foldl (fun acc t => step acc (State.injSfu key t)) acc

/-! ## Issue -/

/-- A core whose job runs and that may issue. -/
def State.running (s : State) (key : Nat) : Option (Nat × Job) :=
  let c := s.core key
  if c.st = .run then
    match c.job with
    | some j =>
      match s.job j with
      | some jb => if jb.st = .running then some (j, jb) else none
      | none => none
    | none => none
  else none

/-- The cycle in which a core next issues. -/
def State.issueAt (s : State) (key : Nat) : Nat := max s.now (s.core key).ready

def Core.holdFor (h : Hold) (c : Core) : Core := { c with st := .hold, hold := some h }

/-- The hold that a bundle meets before it issues (Table 06.1). -/
def State.holdBefore (s : State) (key : Nat) (b : Bundle) : Option Hold :=
  match b.m with
  | .dmaq q _ _ =>
    if 512 ≤ ((s.core key).dq q.toNat).entries.length then some (.queueFull q.toNat)
    else if b.v = .sfswap ∧ s.sfuOutstanding key ≠ 0 then some .sfuBank else none
  | _ => if b.v = .sfswap ∧ s.sfuOutstanding key ≠ 0 then some .sfuBank else none

/-- After a bundle has issued: counts, and the next bundle index (R214, R298, R376). -/
def Core.next (t : Nat) (c : Core) : Core :=
  let n := c.issued + 1
  let c1 : Core := { c with issued := n, ready := if c.st = CoreSt.run then t + 1 else c.ready,
                            memops := c.memops.filter (fun m => decide (t < max m.occEnd m.due)) }
  match c.brq.find? (fun b => b.1 == n.toNat) with
  | some b => { c1 with pc := b.2, brq := c.brq.filter (fun b => b.1 != n.toNat) }
  | none => { c1 with pc := c.pc + 1 }

/-- Carry out the plans of a bundle that meets no fault. -/
def State.effects (key t : Nat) (ps : List (Nat × Plan)) (s : State) : State :=
  let reads := ps.foldl (fun (acc : List Nat × State) p =>
    let r := acc.2.slotReads key p.2
    (if r.1 then acc.1 ++ [p.1] else acc.1, r.2)) ([], s)
  let failed := reads.1
  let s := ps.foldl (fun s p =>
    if failed.contains p.1 then s
    else State.doAct key t p.2.act (s.updCore key (Core.book t p.1 p.2))) reads.2
  s.updCore key (Core.next t)

/-- Faults and breaches of the planned bundle: (code, slot), and the obligations breached. -/
def State.faultsOf (s : State) (key t : Nat) (bad : List Nat) (ps : List (Nat × Plan)) : List (Nat × Nat) × List Nat :=
  let c := s.core key
  let br := ps.flatMap (fun p => (c.breaches t ps p.1 p.2).map (fun o => (o, p.1)))
  (bad.map (fun i => (fIllegal, i)) ++ ps.flatMap (fun p => p.2.faults.map (fun f => (f, p.1))) ++
    br.map (fun x => (fLatency, x.2)), br.map (·.1))

/-- What the event counters see of a bundle (Table 17.8). -/
def State.countIssue (key : Nat) (b : Bundle) (s : State) : State :=
  let s := s.evC key 0x02 1
  let s := match b.t with
    | .tmma .. => s.evC key 0x08 1
    | .tcvt .. => s.evC key 0x09 1
    | _ => s
  match b.v with
  | .cvt .. => s.evC key 0x09 1
  | .cvtr .. => s.evC key 0x09 1
  | _ => s

/-- Issue one bundle in cycle `t`; `bad` lists slots whose encoding is illegal. -/
def State.issueBundle (key : Nat) (jb : Job) (b : Bundle) (bad : List Nat) (t : Nat) (s : State) : State :=
  let c := s.core key
  let ps := s.plans key jb.niche jb.seed (c.step t) b
  let (faults, obl) := s.faultsOf key t bad ps
  let off := corePage key + 0x1C
  let armed := s.arm off 0 ≠ 0
  let s := if armed then s.disarm off 0 else s
  if faults.isEmpty ∧ ¬ armed then (s.countIssue key b).effects key t ps
  else
    let code := minNat (faults.map (·.1) ++ (if armed then [fLatency] else [])) fLatency
    let kind := if code = fLatency then (if obl.isEmpty then 7 else minNat obl 7) else 0
    let s := if code = fLatency then
        s.errUE { Rec.base 0x07 1 cFormatError (some (pedOfCore key)) (some jb.niche) with unit := key % 128 }
      else s
    s.coreFault key kind (slotMask (faults.map (·.2))) c.pc code

/-- A SWAIT issued in the present cycle compares before the core's next bundle can issue (R231). -/
def State.afterCompare (key : Nat) (s : State) : State :=
  match (s.core key).wait.bind (·.cmp) with
  | some d => s.through d
  | none => s

/-- A bundle of core `key` reaches issue (R214 to R218, R222, R252, R253). No bundle issues while the root is gated (R371). -/
def State.issue (key : Nat) (b : Bundle) (bad : List Nat) (s : State) : State :=
  if s.gated then s else
  let s := s.afterCompare key
  match s.running key with
  | none => s
  | some _ =>
    let t := s.issueAt key
    let s := s.advance t
    match s.running key with
    | none => s
    | some (_, jb) =>
      let c := s.core key
      if 4096 ≤ c.pc then s.coreFault key 0 0 4095 fRange
      else if s.linePending key (c.pc / 16) then s.updCore key (Core.holdFor (.instrLine (c.pc / 16)))
      else if !Tbl.get false c.supplied c.pc then s.coreFault key 0 0 c.pc fRange
      else if b.c = .yield ∧ jb.stopIdx = some ((c.ycount.toNat + 1) % 65536) then
        s.updCore key (fun c => { c with st := .suspended })
      else
        match s.holdBefore key b with
        | some h => s.updCore key (Core.holdFor h)
        | none =>
          let r := s.injRead key 0x404 0 0x03
          if r.1 then r.2 else r.2.issueBundle key jb b bad t

/-- INSTRUCTION_RANGE (R218, R324): the fault, when the next bundle is past 4,095 or not supplied. -/
def State.rangeIssue (key : Nat) (s : State) : State :=
  if s.gated then s else
  let s := s.afterCompare key
  match s.running key with
  | none => s
  | some _ =>
    let s := s.advance (s.issueAt key)
    match s.running key with
    | none => s
    | some _ =>
      let c := s.core key
      if 4096 ≤ c.pc then s.coreFault key 0 0 4095 fRange
      else if Tbl.get false c.supplied c.pc then s
      else s.coreFault key 0 0 c.pc fRange

end Sys2Proof.Machine
end

