-- ==== Sys2Proof/Machine/Slots.lean ====
section
/-! DEFINITION. The slot commands: a bundle whose named slot holds the instruction issues on a core (R214). What each
instruction does is the plan of its slot (Tensor, Vector, MemSlot); what the bundle does with the four plans is
`State.issue`. -/
namespace Sys2Proof.Machine
open Sys2Proof

/-- R282. The named slot holds the no-operation. -/
def execNop (k : CoreId) (b : Bundle) (slot : SlotName) (s : State) : Outcome :=
  let b : Bundle := match slot with
    | .t => { b with t := .nop }
    | .v => { b with v := .nop }
    | .m => { b with m := .nop }
    | .c => { b with c := .nop }
  .next (s.issue (coreKey k) b [])

/-- R101. Tile multiply-accumulate of operand rows into an accumulator tile. -/
def execTmma (k : CoreId) (b : Bundle) (td : BitVec 3) (init : Bool) (pp : BitVec 2) (fa fb : BitVec 3)
    (mr nr : BitVec 5) (km : BitVec 12) (sa sb sp : BitVec 5) (s : State) : Outcome :=
  .next (s.issue (coreKey k) { b with t := .tmma td init pp fa fb mr nr km sa sb sp } [])

/-- R286. Loads a 32 x 32 tile from core store and sets its kind. -/
def execTld (k : CoreId) (b : Bundle) (td fmt : BitVec 3) (sa : BitVec 5) (s : State) : Outcome :=
  .next (s.issue (coreKey k) { b with t := .tld td fmt sa } [])

/-- R287. Stores a tile to core store in its kind's format. -/
def execTst (k : CoreId) (b : Bundle) (ts : BitVec 3) (sa : BitVec 5) (s : State) : Outcome :=
  .next (s.issue (coreKey k) { b with t := .tst ts sa } [])

/-- R288. Converts tile rows to a target format, updating statistics and error slots. -/
def execTcvt (k : CoreId) (b : Bundle) (ts tf : BitVec 3) (cv : ConvF) (mr nr sd sr : BitVec 5)
    (s : State) : Outcome :=
  .next (s.issue (coreKey k) { b with t := .tcvt ts tf cv mr nr sd sr } [])

/-- R170. FA32 lane addition with one rounding. -/
def execVadd (k : CoreId) (b : Bundle) (vd va vb : BitVec 5) (pr : BitVec 4) (s : State) : Outcome :=
  .next (s.issue (coreKey k) { b with v := .farith .add vd va vb 0 pr } [])

/-- R170. FA32 lane subtraction with one rounding. -/
def execVsub (k : CoreId) (b : Bundle) (vd va vb : BitVec 5) (pr : BitVec 4) (s : State) : Outcome :=
  .next (s.issue (coreKey k) { b with v := .farith .sub vd va vb 0 pr } [])

/-- R170. FA32 lane multiplication with one rounding. -/
def execVmul (k : CoreId) (b : Bundle) (vd va vb : BitVec 5) (pr : BitVec 4) (s : State) : Outcome :=
  .next (s.issue (coreKey k) { b with v := .farith .mul vd va vb 0 pr } [])

/-- R171. FA32 lane division, with saturation on division by zero. -/
def execVdiv (k : CoreId) (b : Bundle) (vd va vb : BitVec 5) (pr : BitVec 4) (s : State) : Outcome :=
  .next (s.issue (coreKey k) { b with v := .farith .div vd va vb 0 pr } [])

/-- R170. FA32 lane fused multiply-add with one rounding. -/
def execVfma (k : CoreId) (b : Bundle) (vd va vb vc : BitVec 5) (pr : BitVec 4) (s : State) : Outcome :=
  .next (s.issue (coreKey k) { b with v := .farith .fma vd va vb vc pr } [])

/-- R300. FA32 lane minimum. -/
def execVmin (k : CoreId) (b : Bundle) (vd va vb : BitVec 5) (pr : BitVec 4) (s : State) : Outcome :=
  .next (s.issue (coreKey k) { b with v := .farith .min vd va vb 0 pr } [])

/-- R300. FA32 lane maximum. -/
def execVmax (k : CoreId) (b : Bundle) (vd va vb : BitVec 5) (pr : BitVec 4) (s : State) : Outcome :=
  .next (s.issue (coreKey k) { b with v := .farith .max vd va vb 0 pr } [])

/-- R301. Lane compare into a predicate register. -/
def execVcmp (k : CoreId) (b : Bundle) (pd : BitVec 3) (va vb : BitVec 5) (cc : BitVec 3) (pr : BitVec 4)
    (s : State) : Outcome :=
  .next (s.issue (coreKey k) { b with v := .cmp pd va vb cc pr } [])

/-- R289. Selects each lane from one of two vectors by predicate. -/
def execVsel (k : CoreId) (b : Bundle) (vd va vb : BitVec 5) (pr : BitVec 4) (s : State) : Outcome :=
  .next (s.issue (coreKey k) { b with v := .sel vd va vb pr } [])

/-- R289. Broadcasts a scalar word to every lane. -/
def execVbcast (k : CoreId) (b : Bundle) (vd sa : BitVec 5) (s : State) : Outcome :=
  .next (s.issue (coreKey k) { b with v := .bcast vd sa } [])

/-- R289. Extracts one lane into a scalar register. -/
def execVext (k : CoreId) (b : Bundle) (sd va : BitVec 5) (lane : BitVec 6) (s : State) : Outcome :=
  .next (s.issue (coreKey k) { b with v := .ext sd va lane } [])

/-- R302. 32-bit integer lane addition. -/
def execViadd (k : CoreId) (b : Bundle) (vd va vb : BitVec 5) (pr : BitVec 4) (s : State) : Outcome :=
  .next (s.issue (coreKey k) { b with v := .iarith .add vd va vb pr } [])

/-- R302. 32-bit integer lane subtraction. -/
def execVisub (k : CoreId) (b : Bundle) (vd va vb : BitVec 5) (pr : BitVec 4) (s : State) : Outcome :=
  .next (s.issue (coreKey k) { b with v := .iarith .sub vd va vb pr } [])

/-- R302. 32-bit integer lane multiplication keeping the low bits. -/
def execVimul (k : CoreId) (b : Bundle) (vd va vb : BitVec 5) (pr : BitVec 4) (s : State) : Outcome :=
  .next (s.issue (coreKey k) { b with v := .iarith .mul vd va vb pr } [])

/-- R302. Lane bitwise AND. -/
def execVand (k : CoreId) (b : Bundle) (vd va vb : BitVec 5) (pr : BitVec 4) (s : State) : Outcome :=
  .next (s.issue (coreKey k) { b with v := .iarith .and vd va vb pr } [])

/-- R302. Lane bitwise OR. -/
def execVor (k : CoreId) (b : Bundle) (vd va vb : BitVec 5) (pr : BitVec 4) (s : State) : Outcome :=
  .next (s.issue (coreKey k) { b with v := .iarith .or vd va vb pr } [])

/-- R302. Lane bitwise XOR. -/
def execVxor (k : CoreId) (b : Bundle) (vd va vb : BitVec 5) (pr : BitVec 4) (s : State) : Outcome :=
  .next (s.issue (coreKey k) { b with v := .iarith .xor vd va vb pr } [])

/-- R302. Lane shift left. -/
def execVshl (k : CoreId) (b : Bundle) (vd va vb : BitVec 5) (pr : BitVec 4) (s : State) : Outcome :=
  .next (s.issue (coreKey k) { b with v := .iarith .shl vd va vb pr } [])

/-- R302. Lane logical shift right. -/
def execVshr (k : CoreId) (b : Bundle) (vd va vb : BitVec 5) (pr : BitVec 4) (s : State) : Outcome :=
  .next (s.issue (coreKey k) { b with v := .iarith .shr vd va vb pr } [])

/-- R302. Lane arithmetic shift right. -/
def execVsar (k : CoreId) (b : Bundle) (vd va vb : BitVec 5) (pr : BitVec 4) (s : State) : Outcome :=
  .next (s.issue (coreKey k) { b with v := .iarith .sar vd va vb pr } [])

/-- R302. Signed 32-bit lane minimum. -/
def execVimin (k : CoreId) (b : Bundle) (vd va vb : BitVec 5) (pr : BitVec 4) (s : State) : Outcome :=
  .next (s.issue (coreKey k) { b with v := .iarith .min vd va vb pr } [])

/-- R302. Signed 32-bit lane maximum. -/
def execVimax (k : CoreId) (b : Bundle) (vd va vb : BitVec 5) (pr : BitVec 4) (s : State) : Outcome :=
  .next (s.issue (coreKey k) { b with v := .iarith .max vd va vb pr } [])

/-- R303. Inclusive prefix sum across active lanes. -/
def execVipsum (k : CoreId) (b : Bundle) (vd va : BitVec 5) (pr : BitVec 4) (s : State) : Outcome :=
  .next (s.issue (coreKey k) { b with v := .ipsum vd va pr } [])

/-- R304. Converts one 64-lane row between formats. -/
def execVcvt (k : CoreId) (b : Bundle) (vd vs : BitVec 5) (sf tf : BitVec 3) (e : BitVec 6) (cv : ConvF)
    (sr : BitVec 5) (s : State) : Outcome :=
  .next (s.issue (coreKey k) { b with v := .cvt vd vs sf tf e cv sr } [])

/-- R305. Converts rows in core store between formats. -/
def execVcvtr (k : CoreId) (b : Bundle) (sf tf : BitVec 3) (cv : ConvF) (norec : Bool) (ss sd sr sh : BitVec 5)
    (s : State) : Outcome :=
  .next (s.issue (coreKey k) { b with v := .cvtr sf tf cv norec ss sd sr sh } [])

/-- R172. Applies an SFU function to every lane. -/
def execVsfu (k : CoreId) (b : Bundle) (fn : BitVec 6) (vd vs : BitVec 5) (sf tf : BitVec 3) (pr : BitVec 4)
    (s : State) : Outcome :=
  .next (s.issue (coreKey k) { b with v := .sfu fn vd vs sf tf pr } [])

/-- R185. Soft maximum of one row. -/
def execVsmax (k : CoreId) (b : Bundle) (sf tf : BitVec 3) (ss sd sh : BitVec 5) (s : State) : Outcome :=
  .next (s.issue (coreKey k) { b with v := .smax sf tf ss sd sh } [])

/-- R188. Row normalisation by mean and variance. -/
def execVnorm (k : CoreId) (b : Bundle) (sf tf : BitVec 3) (ss sd sh se : BitVec 5) (gb : Bool) (sg : BitVec 5)
    (s : State) : Outcome :=
  .next (s.issue (coreKey k) { b with v := .norm sf tf ss sd sh se gb sg } [])

/-- R199. Exchanges the active and shadow SFU banks. -/
def execSfswap (k : CoreId) (b : Bundle) (s : State) : Outcome :=
  .next (s.issue (coreKey k) { b with v := .sfswap } [])

/-- R355. Decodes detection boxes. -/
def execVboxd (k : CoreId) (b : Bundle) (ss sd sh sp : BitVec 5) (s : State) : Outcome :=
  .next (s.issue (coreKey k) { b with v := .boxd ss sd sh sp } [])

/-- R357. Overlap suppression of scored boxes. -/
def execVnms (k : CoreId) (b : Bundle) (ss sd sh sp : BitVec 5) (s : State) : Outcome :=
  .next (s.issue (coreKey k) { b with v := .nms ss sd sh sp } [])

/-- R310. Fills lanes with generator draws. -/
def execVrng (k : CoreId) (b : Bundle) (vd si : BitVec 5) (stream : BitVec 4) (s : State) : Outcome :=
  .next (s.issue (coreKey k) { b with v := .rng vd si stream } [])

/-- R311. Moves a statistics or error slot into lanes. -/
def execVgetst (k : CoreId) (b : Bundle) (vd : BitVec 5) (sel : BitVec 2) (slot : BitVec 4) (s : State) : Outcome :=
  .next (s.issue (coreKey k) { b with v := .getst vd sel slot } [])

/-- R290. Loads a double into a scalar register. -/
def execSld (k : CoreId) (b : Bundle) (sd sa : BitVec 5) (off : BitVec 20) (s : State) : Outcome :=
  .next (s.issue (coreKey k) { b with m := .sld sd sa off } [])

/-- R290. Stores a scalar register as a double. -/
def execSst (k : CoreId) (b : Bundle) (ss sa : BitVec 5) (off : BitVec 20) (s : State) : Outcome :=
  .next (s.issue (coreKey k) { b with m := .sst ss sa off } [])

/-- R290. Loads 64 elements into a vector register. -/
def execVld (k : CoreId) (b : Bundle) (vd : BitVec 5) (fmt : BitVec 3) (sa : BitVec 5) (off : BitVec 20)
    (s : State) : Outcome :=
  .next (s.issue (coreKey k) { b with m := .vld vd fmt sa off } [])

/-- R290. Stores the active lanes' elements. -/
def execVst (k : CoreId) (b : Bundle) (vs : BitVec 5) (fmt : BitVec 3) (sa : BitVec 5) (off : BitVec 20)
    (pr : BitVec 4) (s : State) : Outcome :=
  .next (s.issue (coreKey k) { b with m := .vst vs fmt sa off pr } [])

/-- R314. Submits a DMA descriptor to a core queue. -/
def execDmaq (k : CoreId) (b : Bundle) (q : BitVec 2) (sd sa : BitVec 5) (s : State) : Outcome :=
  .next (s.issue (coreKey k) { b with m := .dmaq q sd sa } [])

/-- R315. Holds until a DMA sequence number retires. -/
def execDwait (k : CoreId) (b : Bundle) (q : BitVec 2) (sa : BitVec 5) (s : State) : Outcome :=
  .next (s.issue (coreKey k) { b with m := .dwait q sa } [])

/-- R316. Sends slots on a static armature route. -/
def execAsend (k : CoreId) (b : Bundle) (route : BitVec 12) (ns : BitVec 8) (ss sd : BitVec 5) (cen : Bool)
    (sc : BitVec 5) (s : State) : Outcome :=
  .next (s.issue (coreKey k) { b with m := .asend route ns ss sd cen sc } [])

/-- R299. 64-bit scalar addition. -/
def execAdd (k : CoreId) (b : Bundle) (sd sa sb : BitVec 5) (s : State) : Outcome :=
  .next (s.issue (coreKey k) { b with c := .alu .add sd sa sb } [])

/-- R299. 64-bit scalar subtraction. -/
def execSub (k : CoreId) (b : Bundle) (sd sa sb : BitVec 5) (s : State) : Outcome :=
  .next (s.issue (coreKey k) { b with c := .alu .sub sd sa sb } [])

/-- R299. 64-bit scalar multiplication keeping the low bits. -/
def execMul (k : CoreId) (b : Bundle) (sd sa sb : BitVec 5) (s : State) : Outcome :=
  .next (s.issue (coreKey k) { b with c := .alu .mul sd sa sb } [])

/-- R299. Scalar bitwise AND. -/
def execAnd (k : CoreId) (b : Bundle) (sd sa sb : BitVec 5) (s : State) : Outcome :=
  .next (s.issue (coreKey k) { b with c := .alu .and sd sa sb } [])

/-- R299. Scalar bitwise OR. -/
def execOr (k : CoreId) (b : Bundle) (sd sa sb : BitVec 5) (s : State) : Outcome :=
  .next (s.issue (coreKey k) { b with c := .alu .or sd sa sb } [])

/-- R299. Scalar bitwise XOR. -/
def execXor (k : CoreId) (b : Bundle) (sd sa sb : BitVec 5) (s : State) : Outcome :=
  .next (s.issue (coreKey k) { b with c := .alu .xor sd sa sb } [])

/-- R299. Scalar shift left. -/
def execShl (k : CoreId) (b : Bundle) (sd sa sb : BitVec 5) (s : State) : Outcome :=
  .next (s.issue (coreKey k) { b with c := .alu .shl sd sa sb } [])

/-- R299. Scalar logical shift right. -/
def execShr (k : CoreId) (b : Bundle) (sd sa sb : BitVec 5) (s : State) : Outcome :=
  .next (s.issue (coreKey k) { b with c := .alu .shr sd sa sb } [])

/-- R299. Scalar arithmetic shift right. -/
def execSar (k : CoreId) (b : Bundle) (sd sa sb : BitVec 5) (s : State) : Outcome :=
  .next (s.issue (coreKey k) { b with c := .alu .sar sd sa sb } [])

/-- R291. Adds a sign-extended immediate. -/
def execAddi (k : CoreId) (b : Bundle) (sd sa : BitVec 5) (imm : BitVec 32) (s : State) : Outcome :=
  .next (s.issue (coreKey k) { b with c := .addi sd sa imm } [])

/-- R291. Moves a sign-extended immediate. -/
def execMovi (k : CoreId) (b : Bundle) (sd : BitVec 5) (imm : BitVec 32) (s : State) : Outcome :=
  .next (s.issue (coreKey k) { b with c := .movi sd imm } [])

/-- R291. Sets the high word of a scalar register. -/
def execMovhi (k : CoreId) (b : Bundle) (sd : BitVec 5) (imm : BitVec 32) (s : State) : Outcome :=
  .next (s.issue (coreKey k) { b with c := .movhi sd imm } [])

/-- R292. Scalar compare into a predicate register. -/
def execScmp (k : CoreId) (b : Bundle) (pd : BitVec 3) (sa sb : BitVec 5) (cc : BitVec 3) (s : State) : Outcome :=
  .next (s.issue (coreKey k) { b with c := .scmp pd sa sb cc } [])

/-- R291. Predicate AND. -/
def execPand (k : CoreId) (b : Bundle) (pd pa pb : BitVec 3) (s : State) : Outcome :=
  .next (s.issue (coreKey k) { b with c := .palu .and pd pa pb } [])

/-- R291. Predicate OR. -/
def execPor (k : CoreId) (b : Bundle) (pd pa pb : BitVec 3) (s : State) : Outcome :=
  .next (s.issue (coreKey k) { b with c := .palu .or pd pa pb } [])

/-- R291. Predicate XOR. -/
def execPxor (k : CoreId) (b : Bundle) (pd pa pb : BitVec 3) (s : State) : Outcome :=
  .next (s.issue (coreKey k) { b with c := .palu .xor pd pa pb } [])

/-- R291. Predicate NOT. -/
def execPnot (k : CoreId) (b : Bundle) (pd pa : BitVec 3) (s : State) : Outcome :=
  .next (s.issue (coreKey k) { b with c := .pnot pd pa } [])

/-- R291. Moves a scalar into a predicate. -/
def execPmov (k : CoreId) (b : Bundle) (pd : BitVec 3) (sa : BitVec 5) (s : State) : Outcome :=
  .next (s.issue (coreKey k) { b with c := .pmov pd sa } [])

/-- R291. Moves a predicate into a scalar. -/
def execSmovp (k : CoreId) (b : Bundle) (sd : BitVec 5) (pa : BitVec 3) (s : State) : Outcome :=
  .next (s.issue (coreKey k) { b with c := .smovp sd pa } [])

/-- R298. Branch taking effect after two delay bundles. -/
def execBr (k : CoreId) (b : Bundle) (cond : BitVec 2) (pn : BitVec 3) (tgt : BitVec 12) (s : State) : Outcome :=
  .next (s.issue (coreKey k) { b with c := .br cond pn tgt } [])

/-- R229. Signals a sync counter with an increment. -/
def execSsig (k : CoreId) (b : Bundle) (sc : BitVec 5) (inc : BitVec 16) (s : State) : Outcome :=
  .next (s.issue (coreKey k) { b with c := .ssig sc inc } [])

/-- R231. Waits on a sync counter for a target. -/
def execSwait (k : CoreId) (b : Bundle) (pd : BitVec 3) (consume tmode : Bool) (sc st : BitVec 5)
    (timeout : BitVec 24) (s : State) : Outcome :=
  .next (s.issue (coreKey k) { b with c := .swait pd consume tmode sc st timeout } [])

/-- R253. Marks a yield point, where a latched pre-emption stops the core. -/
def execYield (k : CoreId) (b : Bundle) (s : State) : Outcome :=
  .next (s.issue (coreKey k) { b with c := .yield } [])

/-- R249. Ends the core's part of the job. -/
def execHalt (k : CoreId) (b : Bundle) (s : State) : Outcome :=
  .next (s.issue (coreKey k) { b with c := .halt } [])

/-- R312. Clears selected arithmetic flags. -/
def execFclr (k : CoreId) (b : Bundle) (mask : BitVec 4) (s : State) : Outcome :=
  .next (s.issue (coreKey k) { b with c := .fclr mask } [])

/-- R311. Moves one statistics or error entry into a scalar. -/
def execSgetst (k : CoreId) (b : Bundle) (sd : BitVec 5) (sel : BitVec 2) (slot : BitVec 4) (entry : BitVec 6)
    (s : State) : Outcome :=
  .next (s.issue (coreKey k) { b with c := .sgetst sd sel slot entry } [])

/-- R313. Reads the step counter into a scalar. -/
def execSstep (k : CoreId) (b : Bundle) (sd : BitVec 5) (s : State) : Outcome :=
  .next (s.issue (coreKey k) { b with c := .sstep sd } [])

/-- R283, R324. The bundle as 256 bits; it issues with no effect when a slot holds no listed encoding. A bundle that
decodes whole is no illegal encoding, and nothing happens. -/
def execIllegalEncoding (k : CoreId) (w : BitVec 256) (s : State) : Outcome :=
  let (b, bad) := decodeBundle w
  .next (if bad.isEmpty then s else s.issue (coreKey k) b bad)

/-- R218, R324. -/
def execInstructionRange (k : CoreId) (s : State) : Outcome := .next (s.rangeIssue (coreKey k))

end Sys2Proof.Machine
end

