-- ==== Sys2Proof/Machine/Jobs.lean ====
section
/-! DEFINITION. Time events of cores, counters and the armature, and the life of a job (R246 to R261, R352, R385, R396,
R437, R438, R583, R648, R789). An event whose condition does not hold changes nothing. -/
namespace Sys2Proof.Machine
open Sys2Proof

/-! ## Landings, signals, timeouts, frames, refresh -/

/-- R293. The earliest result that core `k` has in flight lands. -/
def execResultLand (k : CoreId) (s : State) : Outcome :=
  match minKey ((s.core (coreKey k)).flights.map (·.due)) with
  | none => .next s
  | some d => .next (s.through d)

/-- R234, R235. The earliest signals on their way to a counter are applied, and waiting SWAITs compare. -/
def execSyncSignalApply (id : BitVec 15) (s : State) : Outcome :=
  match minKey ((s.sigs.filter (fun g => g.ctr == id.toNat)).map (·.due)) with
  | none => .next s
  | some d => .next (s.through d)

/-- R233. The timeout of the SWAIT of core `k` expires, unless the wait is satisfied first. -/
def execSyncWaitTimeout (k : CoreId) (s : State) : Outcome :=
  match (s.core (coreKey k)).wait with
  | none => .next s
  | some w => .next (if w.timeout = 0 then s else s.through (w.issued + w.timeout))

/-- R38. The next armature frame begins. -/
def execArmatureFrameStart (s : State) : Outcome := .next (s.toEdge (s.now / 8192 * 8192 + 8192))

/-- R317. The next slot of the ASENDs of core `k` lands. -/
def execAsendSlotLand (k : CoreId) (s : State) : Outcome :=
  match minKey ((s.core (coreKey k)).sends.flatMap (fun r => r.slots.map (·.due))) with
  | none => .next s
  | some d => .next (s.through d)

/-- An error that a refresh read finds at plinth offset `o` (R645, R648). -/
def State.scrubError (p o : Nat) (uncorr poison : Bool) (s : State) : State :=
  let r := { Rec.base 0x09 (if uncorr then 2 else 0) 0 (some p) none with addr := plinthBase p + o / 64 * 64, aspace := 1 }
  let s := s.plnFlag p (if uncorr then 2 else 1)
  if uncorr then
    let s := s.updPed p (fun x => { x with plnErr := BitVec.ofNat 64 (o / 64 * 64) })
    (if poison then s.setPoison ((plinthBase p + o) / 64) true else s).errUE r
  else s.errCE r

/-- R396, R648. A bank is refreshed and scrubbed in its window of the current frame, or of the next when that has passed.
`errs` are the errors that its rows hold: the plinth offset, and whether it is uncorrectable. An armed PLN_INJ_ECC is
reported by this read, at an offset that no rule fixes, and changes no stored bit. -/
def execRefreshWindow (p : Fin 20) (bank : Fin 64) (errs : List (BitVec 32 × Bool)) (s : State) : Outcome :=
  if s.gated then .next s else
  let lo := s.now / 8192 * 8192 + 128 * bank.val
  let lo := if s.now ≤ lo + 16 then lo else lo + 8192
  let s := s.advance (max s.now lo)
  let off := plnBlock p.val + 0x10
  let a := s.arm off bank.val
  let s := if a = 0 then s else
    let (v, s) := (s.disarm off bank.val).drawFree
    s.scrubError p.val (v.toNat % 10240 * 0x40000 + bank.val * 4096 + v.toNat / 10240 % 64 * 64) (a != 1) false
  let s := (errs.filter (fun e => decide (e.1.toNat < 0xA0000000) && e.1.toNat / 4096 % 64 == bank.val)).foldl
    (fun s e => s.scrubError p.val e.1.toNat e.2 true) s
  .next (s.advance (lo + 16))

/-! ## Jobs -/

/-- Places of a job's cores: cluster index, cluster, logical core. -/
def Cast.places (c : Cast) : List (Nat × Nat × Nat) :=
  (numbered c.clus).flatMap (fun ic => (rangeFrom 0 c.ncore).map (fun l => (ic.1, ic.2, l)))

/-- Does another job hold one of these clusters? -/
def State.clustersBusy (s : State) (clus : List Nat) : Bool :=
  s.jobs.any (fun kv => match kv.2 with
    | some j => (j.st == .running || j.st == .stopping && (s.jobCores kv.1).length != 0) && j.clus.any clus.contains
    | none => false)

/-- Is a job resident on a cluster (R53)? -/
def State.residentOn (s : State) (clus : Nat) : Bool := s.clustersBusy [clus]

/-- Drop the bytes below `upto` of a memory and put others in their place. -/
def overlay (upto : Nat) (m below : Memory) : Memory :=
  Tbl.keep (fun k _ => decide (k < upto)) below ++ Tbl.keep (fun k _ => decide (upto ≤ k)) m

def memOfBytes (bs : List Byte) : Memory := Memory.write 0 bs []

/-- The state of a core when its job starts (R88, R100, R166, R202, R247). A held queue stays held (R426). -/
def Core.begin (j t csf : Nat) (img : CoreImg) (args : List (BitVec 64)) (c : Core) : Core :=
  let q := fun (d : DQueue) => { d with next := 0, entries := [], checkEnd := 0, chk := none, faultWrite := false, faultDva := 0 }
  { c with
    st := .run, ycount := 0, pc := 0, brq := [], stepHeld := 0, stepFrom := some t, issued := 0, ready := t, job := some j
    aflags := 0, sreg := (numbered (args.take 8)).foldl (fun m e => Tbl.set 0 e.1 e.2 m) [], preg := [], vreg := []
    tile := [], tkind := [], stat := [], err := []
    bank0 := (numbered img.sfu).foldl (fun b e => if sfuWinOk e.1 then b.setByte e.1 e.2 else b) SfuBank.zero
    bank1 := .zero, active := false
    cstore := overlay (csf * 0x10000) c.cstore (memOfBytes img.data)
    istore := Memory.write 0 img.code c.istore
    supplied := (rangeFrom 0 img.bundles).map (fun b => (b, true))
    memops := [], wait := none, hold := none, q0 := q c.q0, q1 := q c.q1, q2 := q c.q2, q3 := q c.q3 }

/-- R247: every core and counter of the job. -/
def State.launch (j : Nat) (jb : Job) (s : State) : State :=
  let t := s.now
  let s := s.setJob j (some { jb with st := .running })
  let s := s.updSq jb.sq (fun q => { q with entries := q.entries.map (fun e =>
    if e.seq = jb.seq then { e with phase := .running } else e) })
  let s := (numbered jb.clus).foldl (fun s ic =>
    s.updClu ic.2 (fun c => { c with store := overlay (jb.cast.clf * 0x10000) c.store (memOfBytes (jb.cast.climgs.getD ic.1 [])), relCount := 0 })) s
  -- logical cores from N on show IDLE (R248)
  let s := jb.clus.foldl (fun s cl => ((rangeFrom 0 16).map (fun q => cl * 16 + q)).foldl (fun s key =>
    let c := s.core key
    if c.insvc && decide (jb.cast.ncore ≤ c.lcore) then s.setCore key { c with st := .idle } else s) s) s
  let s := jb.cast.places.foldl (fun s pl =>
    match s.physOf pl.2.1 pl.2.2 with
    | some key => s.updCore key (Core.begin j t jb.cast.csf
        (jb.cast.imgs.getD (pl.1 * jb.cast.ncore + pl.2.2) ⟨0, [], [], []⟩) jb.args)
    | none => s) s
  jb.cast.ctrs.foldl (fun s c => ((s.ctrPut c.1 c.2).ctrUnmark c.1).rewait c.1) s

/-- Does the host queue let the entry of a job begin: accepted, not behind a failure, its FENCE met (R572, R578)? -/
def State.entryMayRun (s : State) (sq seq : Nat) : Bool :=
  let q := s.sq sq
  let i := (q.entries.map (·.seq)).findIdx (· == seq)
  match q.entries.find? (fun e => e.seq == seq) with
  | some e => e.phase == .accepted && !e.doomed && !laterThan q.entries q.held i &&
      (!e.desc.fence || (q.entries.take i).all (fun x => x.phase == .complete))
  | none => false

/-- Has a job that started, and is not complete, a cluster and a counter in common with this one (R258)? -/
def State.ctrsShared (s : State) (jb : Job) : Bool :=
  s.jobs.any (fun kv => match kv.2 with
    | some v => v.st != .staged && v.clus.any jb.clus.contains && v.cast.ctrs.any (fun c => (jb.cast.ctrs.map (·.1)).contains c.1)
    | none => false)

/-- May the job start: staged, its entry free to begin, the module not shutting down (R760), every cluster free, in the
job's niche (R50), its counters not those of a job that waits there (R258), and every core it uses in service? -/
def State.canStart (s : State) (jb : Job) : Bool :=
  jb.st == .staged && s.entryMayRun jb.sq jb.seq && s.pwr.stop == 0 && !s.clustersBusy jb.clus &&
  !s.ctrsShared jb && jb.clus.all (s.niche jb.niche).has && jb.cast.places.all (fun pl => (s.physOf pl.2.1 pl.2.2).isSome)

/-- Does a running reset or test hold one of these clusters (R656, R676)? -/
def RstRun.onClus (r : RstRun) (cl : Nat) : Bool :=
  r.holds && match r.scope with
  | 1 => r.ped * 8 + r.clus == cl
  | 2 => r.ped * 8 + r.clus == cl
  | 4 => r.ped == cl / 8
  | _ => false

/-- Was a core of the cluster substituted in the present cycle (R690)? -/
def State.substNow (s : State) (cl : Nat) : Bool := (s.freshAt (bstBlock (cl / 8) + 0x28)).getLsbD (cl % 8)

/-- Is one of the job's clusters under reset or test, or was a core of it substituted in this cycle? -/
def State.inTest (s : State) (jb : Job) : Bool :=
  s.ras.rsts.any (fun r => jb.clus.any r.onClus) || jb.clus.any s.substNow

/-- Is every DMA entry of the job's cores retired, and every relief command of its clusters complete (R249, R352)? -/
def State.jobDrained (s : State) (j : Nat) (jb : Job) : Bool :=
  (s.jobCores j).all (fun k => let c := s.core k
    c.q0.entries.isEmpty && c.q1.entries.isEmpty && c.q2.entries.isEmpty && c.q3.entries.isEmpty) &&
  ((s.jobCores j).isEmpty || jb.clus.all (fun cl => let c := s.clu cl; c.relQ.isEmpty && c.relRun.isNone))

/-- A core whose job ends (R260, R789). -/
def Core.endJob (now : Nat) (st : CoreSt) (c : Core) : Core :=
  { c with st := st, job := none, stepHeld := c.step now, stepFrom := none, wait := none, hold := none }

/-- The job completes with a code: its cores show IDLE and its entry completes. -/
def State.finishJob (j code : Nat) (s : State) : State :=
  match s.job j with
  | none => s
  | some jb =>
    let left := if jb.saved.isEmpty then [] else s.leftCores j jb
    let s := (s.jobCores j).foldl (fun s k => s.updCore k (Core.endJob s.now .idle)) s
    let s := left.foldl (fun s k => s.updCore k (Core.stopAs .idle)) s
    let s := jb.saved.foldl (fun s v => s.updClu (v.key / 16) (fun c => if c.saveJob = some j then { c with saveJob := none } else c)) s
    let s := s.setJob j none
    if h : jb.sq < 512 then s.completeEntry (.sq ⟨jb.sq, h⟩) jb.seq code false false else s

/-- Jobs that started on a cluster in the present cycle complete BUSY: a test or a substitution of that cycle is taken first
(R679, R690). -/
def State.bounceStarts (cl : Nat) (s : State) : State :=
  s.jobs.foldl (fun s kv => match kv.2 with
    | some jb =>
      if jb.st = .running ∧ jb.clus.contains cl ∧ (s.jobCores kv.1).any (fun k => (s.core k).stepFrom == some s.now && (s.core k).stepHeld == 0) then
        s.finishJob kv.1 cBusy
      else s
    | none => s) s

/-- R246, R247. The staged job starts on the next frame edge. A start that meets a test, reset or substitution of its cluster
completes BUSY (R679, R690). A barrier job starts by BARRIER_JOB_START. -/
def execJobStart (j : BitVec 32) (s : State) : Outcome :=
  match s.job j.toNat with
  | none => .next s
  | some jb =>
    if s.canStart jb ∧ ¬ jb.bar ∧ ¬ s.gated then
      let s := s.toEdge (frameEdge s.now)
      .next (if ¬ s.canStart jb then s else if s.inTest jb then s.finishJob j.toNat cBusy else s.launch j.toNat jb)
    else .next s

/-- The step counter of a core's job in the CK_T domain (R375). -/
def State.tStep (s : State) (key : Nat) : Nat := ((s.core key).step s.now).toNat / 32

/-- The completion conditions of R249. -/
def State.jobEnded (s : State) (j : Nat) (jb : Job) : Bool :=
  jb.st == .running && (s.jobCores j).all (fun k => (s.core k).st == .halted) && s.jobDrained j jb

/-- The code with which a job that halted completes (R249, R647). -/
def Job.endCode (jb : Job) : Nat := jb.failCode.getD cDone

/-- R249, R647. -/
def execJobComplete (j : BitVec 32) (s : State) : Outcome :=
  match s.job j.toNat with
  | none => .next s
  | some jb => .next (if s.jobEnded j.toNat jb then s.finishJob j.toNat jb.endCode else s)

/-- Jobs that a Function Level Reset ends complete in sequence order (Table 14.9). -/
def State.flrTurn (s : State) (jb : Job) : Bool :=
  !(s.sq jb.sq).releasing ||
  (s.sq jb.sq).entries.all (fun e => e.phase == .complete || decide (jb.order ≤ e.job.getD jb.order))

/-- R221, R789. -/
def execJobStoppedComplete (j : BitVec 32) (s : State) : Outcome :=
  match s.job j.toNat with
  | none => .next s
  | some jb => .next (if jb.st = .stopping ∧ s.jobDrained j.toNat jb ∧ s.flrTurn jb then s.finishJob j.toNat jb.stopCode else s)

/-- R583. A job that meets the conditions of R249 completes instead. -/
def execJobTimeLimit (j : BitVec 32) (s : State) : Outcome :=
  match s.job j.toNat with
  | none => .next s
  | some jb =>
    if jb.tlimit = 0 ∨ jb.st ≠ .running then .next s
    else if s.jobEnded j.toNat jb then .next (s.finishJob j.toNat jb.endCode)
    else .next (s.stopJob j.toNat cTimeout none)

/-! ## Pre-emption -/

/-- R252. A job of a higher class latches a pre-emption of the running jobs on its clusters, unless their counters
overlap (R258). The lower number is the higher class. The stop index is compared modulo 65,536, as YCOUNT counts; where the
cores' counts straddle a wrap, the largest wrapped count is taken (DESIGN CHOICE, log 108). -/
def State.requestPreempt (jb : Job) (s : State) : State :=
  s.jobs.foldl (fun s kv =>
    match kv.2 with
    | some v =>
      if v.st = .running ∧ jb.cls < v.cls ∧ v.stopIdx.isNone ∧ v.clus.any jb.clus.contains ∧
          ¬ (v.cast.ctrs.any (fun c => (jb.cast.ctrs.map (·.1)).contains c.1)) then
        let y := ((s.jobCores kv.1).map (fun k => (s.core k).ycount.toNat)).foldl max 0
        s.setJob kv.1 (some { v with stopIdx := some ((y + 1) % 65536), preCast := some jb.cast })
      else s
    | none => s) s

/-- Has a queue a parked entry? -/
def DQueue.parked (d : DQueue) : Bool := d.entries.any (fun e => e.phase == .parked)

def Core.queues (c : Core) : List DQueue := [c.q0, c.q1, c.q2, c.q3]

/-- The slots of an ASEND that have not entered by cycle `t`; they keep its signal. -/
def SendRec.unsent (t : Nat) (r : SendRec) : SendRec := { r with slots := r.slots.filter (fun x => decide (t < 2 * x.enter)) }

/-- The slots that have; the signal stays with them when they are all. -/
def SendRec.entered (t : Nat) (r : SendRec) : SendRec :=
  { r with slots := r.slots.filter (fun x => decide (2 * x.enter ≤ t)), ctr := if (r.unsent t).slots.isEmpty then r.ctr else none }

/-- What a stop in place keeps of a core before its context is saved. -/
def Core.heldBack (t key : Nat) (c : Core) : SavedCore :=
  { key := key, ctx := none, halted := false, istore := [], supplied := [], bank0 := .zero, bank1 := .zero, active := false, upto := 0,
    cstore := [], q0 := .reset, q1 := .reset, q2 := .reset, q3 := .reset
    sends := (c.sends.map (SendRec.unsent t)).filter (fun r => !r.slots.isEmpty), hold := c.hold
    wait := c.wait.map (fun w => { w with issued := w.issued - c.stepFrom.getD 0, cmp := none }) }

/-- A core stopped in place in cycle `t`: what has not entered the armature is withdrawn, and frees the send port. -/
def Core.stopHere (t : Nat) (c : Core) : Core :=
  { c with
    st := if c.st.active then .suspended else c.st, wait := none, hold := none
    sendFree := if c.sends.any (fun r => !(r.unsent t).slots.isEmpty) then min c.sendFree t else c.sendFree
    sends := (c.sends.map (SendRec.entered t)).filter (fun r => !r.slots.isEmpty) }

/-- R437. Every core stops on the next frame edge; slots not yet in the armature are kept back. -/
def execStopInPlace (j : BitVec 32) (s : State) : Outcome :=
  match s.job j.toNat with
  | none => .next s
  | some jb =>
    let ks := s.jobCores j.toNat
    if jb.st = .running ∧ jb.stopIdx.isSome ∧ ¬ jb.inPlace ∧ ¬ s.gated ∧ ks.any (fun k => (s.core k).queues.any DQueue.parked) then
      let s := s.toEdge (frameEdge s.now)
      let jb := (s.job j.toNat).getD jb
      if jb.st ≠ .running then .next s
      else
        let held := ks.map (fun k => (s.core k).heldBack s.now (clusOfCore k * 16 + (s.core k).lcore))
        let s := ks.foldl (fun s k => s.updCore k (Core.stopHere s.now)) s
        .next (s.setJob j.toNat (some { jb with inPlace := true, saved := held }))
    else .next s

/-- May a queue wait out a context save: empty, or stopped at a parked entry (R254, R437)? -/
def DQueue.savable (inPlace : Bool) (d : DQueue) : Bool :=
  d.entries.isEmpty || (inPlace && d.parked && d.entries.all (fun e => e.phase != .running))

/-- Is the job ready for its context save? A job stopped in place may have no core that was still issuing. -/
def State.canSuspend (s : State) (j : Nat) (jb : Job) : Bool :=
  jb.st == .running && jb.stopIdx.isSome &&
  (s.jobCores j).all (fun k => let c := s.core k
    (c.st == .suspended || c.st == .halted) && c.queues.all (DQueue.savable jb.inPlace)) &&
  (jb.inPlace || (s.jobCores j).any (fun k => (s.core k).st == .suspended)) &&
  jb.clus.all (fun cl => let c := s.clu cl; c.relQ.isEmpty && c.relRun.isNone)

/-- The last cycle in which something that the job's cores or relief engines issued lands, signals included (R254). -/
def State.lastLanding (s : State) (j : Nat) (jb : Job) : Nat :=
  ((s.jobCores j).flatMap (fun k => let c := s.core k
    c.flights.map (·.due) ++ c.sends.flatMap (fun r => r.slots.map (·.due))) ++
   (s.sigs.filter (fun g => match g.clus with | some c => jb.clus.contains c | none => false)).map (·.due)).foldl max s.now

/-- Read the save area of a cluster through its detector, for a core of job `j`; an uncorrectable error stops that job (R644,
R646). -/
def State.saveRead (clus : Nat) (j : Nat) (cause : Option Nat) (s : State) : State :=
  let o := clusPage clus + 0x200
  let r := { Rec.base 0x02 1 cUncorrectable (some (clus / 8)) ((s.job j).map (·.niche)) with unit := clus % 8 * 16 }
  match s.arm o 0 with
  | 0 => s
  | 1 => (s.disarm o 0).errCE { r with sev := 0, code := 0 }
  | _ => ((s.disarm o 0).errUE r).stopJob j cUncorrectable cause

/-- The older context in a cluster's save area moves to the plinth save region (R257). -/
def State.moveContext (j cl : Nat) (s : State) : State :=
  match (s.clu cl).saveJob with
  | none => s
  | some o =>
    if o = j then s
    else
      let s := s.saveRead cl o none
      s.updJob o (fun jb => { jb with saved := jb.saved.map (fun v =>
        if v.key / 16 = cl ∧ v.ctx.isNone then { v with ctx := some (s.contextOf v) } else v) })

/-- Bytes of the core store and cluster store of a place that the pre-empting cast's footprints overlap (R256). -/
def Job.overlapped (jb : Job) (cl lcore : Nat) : Nat × Nat :=
  match jb.preCast with
  | some p =>
    if p.clus.contains cl then (if lcore < p.ncore then min p.csf jb.cast.csf * 0x10000 else 0, min p.clf jb.cast.clf * 0x10000)
    else (0, 0)
  | none => (0, 0)

/-- What the save of core `k` of a job keeps beside the register context (R256, R438). -/
def Core.saved (jb : Job) (key : Nat) (c : Core) : SavedCore :=
  let up := (jb.overlapped (key / 16) c.lcore).1
  let old := jb.saved.find? (fun v => v.key == key)
  { key := key, ctx := none, halted := c.st == .halted, istore := c.istore, supplied := c.supplied, bank0 := c.bank0
    bank1 := c.bank1, active := c.active, upto := up, cstore := Tbl.keep (fun a _ => decide (a < up)) c.cstore
    q0 := c.q0, q1 := c.q1, q2 := c.q2, q3 := c.q3
    sends := (old.map (·.sends)).getD [], hold := old.bind (·.hold), wait := old.bind (·.wait) }

/-- A core whose job is suspended. Queues keep their held state (R426). -/
def Core.suspend (now : Nat) (c : Core) : Core :=
  let clr := fun (d : DQueue) => { d with entries := [], chk := none, faultWrite := false, faultDva := 0 }
  { c.endJob now .suspended with q0 := clr c.q0, q1 := clr c.q1, q2 := clr c.q2, q3 := clr c.q3 }

/-- The context of a job whose cores have stopped is saved, and the job is suspended (R255 to R257). -/
def State.saveJob (j : Nat) (jb : Job) (s : State) : State :=
  let ks := s.jobCores j
  let saved := ks.map (fun k => (s.core k).saved jb (clusOfCore k * 16 + (s.core k).lcore))
  let savedClus := jb.clus.map (fun cl =>
    let up := (jb.overlapped cl 0).2
    (⟨cl, Tbl.keep (fun a _ => decide (a < up)) (s.clu cl).store, up, (s.clu cl).relCount⟩ : SavedClus))
  let s := jb.clus.foldl (fun s cl => s.moveContext j cl) s
  let s := ks.foldl (fun s k => (s.updClu (clusOfCore k) (fun c =>
    { c with store := saveContext (s.core k).lcore ((s.core k).context s.now) c.store })).updCore k (Core.suspend s.now)) s
  let s := jb.clus.foldl (fun s cl => s.updClu cl (fun c => { c with saveJob := some j })) s
  s.setJob j (some { jb with st := .suspended, stopIdx := none, preCast := none, saved := saved, savedClus := savedClus })

/-- R254 to R257, R261. The context is saved and the job suspended, once nothing it issued is in flight. A non-resumable
job completes PREEMPTED. -/
def execJobSuspend (j : BitVec 32) (s : State) : Outcome :=
  match s.job j.toNat with
  | none => .next s
  | some jb =>
    if ¬ s.canSuspend j.toNat jb ∨ s.gated then .next s
    else
      let s := s.through (s.lastLanding j.toNat jb)
      match s.job j.toNat with
      | none => .next s
      | some jb =>
        .next (if ¬ s.canSuspend j.toNat jb then s
          else if jb.nonres then s.finishJob j.toNat cPreempted else s.saveJob j.toNat jb)

/-- A saved core taken up again at the edge `t` with its context (R255, R256, R259, R426). -/
def Core.restore (j t : Nat) (v : SavedCore) (ctx : Memory) (c : Core) : Core :=
  let o := c.withContext ctx
  let from_ := t - o.stepHeld.toNat
  let hold := match v.hold with
    | some (.retire q n) =>
      let d := match q with | 0 => v.q0 | 1 => v.q1 | 2 => v.q2 | _ => v.q3
      if d.outstanding n then v.hold else none
    | _ => none
  let q := fun (d cur : DQueue) => { d with held := cur.held }
  { o with
    st := if v.halted then .halted else if v.wait.isSome then .wait else if hold.isSome then .hold else .run
    stepFrom := some from_, ready := t, job := some j, bank0 := v.bank0, bank1 := v.bank1, active := v.active
    cstore := overlay v.upto c.cstore v.cstore, istore := v.istore, supplied := v.supplied
    wait := v.wait.map (fun w => { w with issued := w.issued + from_, cmp := some t }), hold := hold, memops := []
    q0 := q v.q0 c.q0, q1 := q v.q1 c.q1, q2 := q v.q2 c.q2, q3 := q v.q3 c.q3 }

/-- Saved ASEND slots enter again from the edge on, those of one route behind each other (R318, R438). -/
def State.resend (key : Nat) (r : SendRec) (s : State) : State :=
  s.bookSend key r.route ((r.slots.map (·.dst)).headD 0) (r.slots.flatMap (·.bytes)) r.ctr s.now

/-- One core of a suspended job goes on at the present edge: its context is read back (R644), its saved slots enter again. -/
def State.restoreCore (j : Nat) (v : SavedCore) (s : State) : State :=
  match s.physOf (v.key / 16) (v.key % 16) with
  | none => s
  | some key =>
    let s1 := s.updCore key (Core.restore j s.now v (s.contextOf v))
    let s2 := if v.ctx.isNone then s1.saveRead (v.key / 16) j (some key) else s1
    v.sends.foldl (fun s r => s.resend key r) s2

/-- May a suspended job resume: its clusters free, its cores in service? -/
def State.canResume (s : State) (jb : Job) : Bool :=
  jb.st == .suspended && !s.clustersBusy jb.clus && jb.saved.all (fun v => (s.physOf (v.key / 16) (v.key % 16)).isSome)

/-- A suspended job goes on at the present edge (R259, R353, R438). -/
def State.resumeJob (j : Nat) (jb : Job) (s : State) : State :=
  let s := s.setJob j (some { jb with st := .running, saved := [], savedClus := [], inPlace := false })
  let s := jb.saved.foldl (fun s v => s.restoreCore j v) s
  jb.savedClus.foldl (fun s v => s.updClu v.key (fun c =>
    { c with store := overlay v.upto c.store v.store, relCount := v.relCount
             saveJob := if c.saveJob = some j then none else c.saveJob })) s

/-- R259, R438. A suspended job resumes on the next frame edge, when its clusters are free and in service. -/
def execJobResume (j : BitVec 32) (s : State) : Outcome :=
  match s.job j.toNat with
  | none => .next s
  | some jb =>
    if ¬ s.canResume jb ∨ s.gated then .next s
    else
      let s := s.toEdge (frameEdge s.now)
      match s.job j.toNat with
      | none => .next s
      | some jb => .next (if s.canResume jb then s.resumeJob j.toNat jb else s)

end Sys2Proof.Machine
end

