-- ==== Sys2Proof/Machine/Dma.lean ====
section
/-! DEFINITION. The commands of the DMA engine and the relief engine. What happens in a cycle that the rules fix (R346, R350, R365,
R414, R421) happens when time reaches it, so a command that names such an event moves time that far; what no rule times happens
now. -/
namespace Sys2Proof.Machine
open Sys2Proof

/-- R419, R420. The front entries of a queue that have completed retire. -/
def execDmaEntryRetire (q : QRef) (s : State) : Outcome := .next (s.retireAll q)

/-- The cycle in which the check of a core queue's next entry ends, if nothing intervenes (R396, R414). -/
def State.checkEndAt (s : State) (k : CoreId) (q : Fin 4) : Option Nat :=
  let run := fun (todo : List (Bool × Nat)) (t : Nat) =>
    todo.foldl (fun t pg => refreshClear (s.pteOffset (.core k q) pg.2) t + 16) t
  let d := (s.core (coreKey k)).dq q.val
  match d.chk with
  | some c => some (match c.todo with | [] => c.next | _ :: rest => run rest (c.next + 16))
  | none => (s.nextCheck (.core k q)).map (fun e => run (s.checkPages (.core k q) e.desc) (d.checkStart e + 8))

/-- R413 to R415. The check of the queue's next COPY or FILL ends. -/
def State.endCheck (q : QRef) (s : State) : State :=
  match q with
  | .sq n => s.checkSq n
  | .core k qn => match s.checkEndAt k qn with
    | some t => s.through t
    | none => s

def execDmaDescriptorCheck (q : QRef) (s : State) : Outcome := .next (s.endCheck q)

/-- An accepted entry begins (R421, R434, R436): an on-chip entry in the cycle its channel gives it, another now. -/
def State.beginEntry (q : QRef) (seq : Nat) (s : State) : State :=
  match s.qEntry q seq with
  | none => s
  | some e =>
    if !s.mayBegin q e then s
    else if s.onChip q e then s.through (s.onChipAt q e)
    else
      let s := s.qUpd q seq (fun e => { e with phase := .running, stamp := s.now, began := !s.qRt8 q })
      if s.qRt8 q then
        let r := s.reach q seq false
        if r.1 then (let r := r.2.reach q seq true
                     if r.1 then r.2.qUpd q seq (fun e => { e with began := true }) else r.2) else r.2
      else s

def execDmaEntryBegin (q : QRef) (seq : BitVec 32) (s : State) : Outcome := .next (s.beginEntry q seq.toNat)

/-- Move the next destination segment of a begun entry, once R297 lets it land. -/
def State.moveNext (q : QRef) (seq : Nat) (s : State) : State :=
  match s.qEntry q seq with
  | none => s
  | some e =>
    let t := if e.phase = .running ∧ e.moved < e.desc.bytes then s.landFree q e (s.nextPiece q e).2.1 (s.nextPiece q e).2.2 s.now else s.now
    if s.now < t then (if s.gated then s else (s.advance t).moveChunk q seq) else s.moveChunk q seq

def State.moveNextN (q : QRef) (seq : Nat) : Nat → State → State
  | 0, s => s
  | n + 1, s => State.moveNextN q seq n (s.moveNext q seq)

/-- Move the next `n` destination segments of a begun entry of operation `op`. -/
def State.transfer (op : Nat) (q : QRef) (seq n : Nat) (s : State) : State :=
  match s.qEntry q seq with
  | some e => if e.desc.op = op then State.moveNextN q seq n s else s
  | none => s

/-- A host-memory read that the host will answer with an error fails as an armed HIF_INJ_HOSTREAD makes it fail (R443,
R571). -/
def State.hostFault (f : Bool) (e : HostErr) (s : State) : State :=
  match e with
  | .ok => s
  | .unsupported => s.setArm 0x38 (if f then 1 else 0) 1
  | .poisoned => s.setArm 0x38 (if f then 1 else 0) 2

/-- R412. A begun COPY moves the bytes of its next `n` destination segments. One that is accepted and has not begun reads its next
`n` source segments ahead (R429, R431). -/
def execCopy (q : QRef) (seq : BitVec 32) (n : Nat) (e : HostErr) (s : State) : Outcome :=
  let reads : Bool := match s.qEntry q seq.toNat with
    | some x => x.desc.op == 1 && x.desc.sk == 2 && x.phase == .running && decide (x.moved < x.desc.bytes) && n != 0
    | none => false
  let waits : Bool := match s.qEntry q seq.toNat with
    | some x => x.phase == .accepted
    | none => false
  .next (if waits then State.runAheadN q seq.toNat n s
    else (if reads then s.hostFault (s.entFn q seq.toNat) e else s).transfer 1 q seq.toNat n)

/-- R412. A begun FILL writes its next `n` destination segments. -/
def execFill (q : QRef) (seq : BitVec 32) (n : Nat) (s : State) : Outcome := .next (s.transfer 2 q seq.toNat n)

/-- R417, R418, R424. The last byte lands, and the entry completes and signals. An on-chip entry does so in its own cycle. -/
def State.endEntry (q : QRef) (seq : Nat) (s : State) : State :=
  match s.qEntry q seq with
  | none => s
  | some e =>
    if e.phase ≠ .running ∨ e.job.isSome then s
    else if s.onChip q e then s.through e.stamp
    else
      let t := if e.moved < e.desc.bytes then s.entryFree q e s.now else s.now
      let s := if s.now < t then s.advance t else s
      let s := if s.now < t then s else State.moveN q seq e.desc.chunks s
      (s.endMoved q seq).releaseHolds

def execDmaEntryComplete (q : QRef) (seq : BitVec 32) (s : State) : Outcome := .next (s.endEntry q seq.toNat)

/-! ## DMA_QCMD (Table 10.16) -/

/-- Does a core page discard writes: its core in a running reset (R660), or the module not ready (R759)? -/
def State.coreInReset (s : State) (key : Nat) : Bool :=
  decide (s.pwr.phase < 11) || s.ras.rsts.any (fun r => r.hits (.cstore key 0))

/-- R426. -/
def execResume (k : CoreId) (q : Fin 4) (s : State) : Outcome :=
  .next (if s.coreInReset (coreKey k) then s else s.qResume (.core k q))

/-- R435. A parked entry restarts at its fault point, with a new walk. -/
def execRetry (k : CoreId) (q : Fin 4) (s : State) : Outcome :=
  if s.coreInReset (coreKey k) then .next s
  else
    match (s.qEntries (.core k q)).find? (fun e => e.phase == .parked) with
    | none => .next s
    | some e =>
      let s := s.qUpd (.core k q) e.seq (fun e => { e with phase := .running })
      let s := s.updCore (coreKey k) (fun c => c.setDq q.val { c.dq q.val with faultWrite := false, faultDva := 0 })
      let r := s.reach (.core k q) e.seq false
      let s := if r.1 then (r.2.reach (.core k q) e.seq true).2 else r.2
      .next s

/-- R427, R435. What may retire in this cycle retires first (Table 10.9). -/
def execCancel (k : CoreId) (q : Fin 4) (s : State) : Outcome :=
  if s.coreInReset (coreKey k) then .next s
  else
    let s := (s.retireAll (.core k q)).qCancel (.core k q)
    let s := s.updCore (coreKey k) (fun c => c.setDq q.val { c.dq q.val with faultWrite := false, faultDva := 0 })
    .next (s.retireAll (.core k q))

/-! ## The relief engine -/

/-- R346, R347. The engine of a cluster starts the next queued command. -/
def execReliefCommandStart (c : ClusId) (s : State) : Outcome :=
  .next (match (s.clu (clusKey c)).relStart s.now with
    | some t => s.advance t
    | none => s)

/-- R350, R351. The running command completes. -/
def execReliefCommandComplete (c : ClusId) (s : State) : Outcome :=
  .next (match (s.clu (clusKey c)).relRun with
    | some r => s.through r.endAt
    | none => s)

end Sys2Proof.Machine
end

