-- ==== Sys2Proof/Machine/Media.lean ====
section
/-! DEFINITION. What the media engines share: command rings (R452 to R457, R496), translated memory (R456), and picture
arithmetic. -/
namespace Sys2Proof.Machine
open Sys2Proof

/-! ## Rings -/

/-- Rings of a pedestal: kind 0 pixel, 1 entropy, 2 Skim. -/
def ringKey (kind e c : Nat) : Nat := (2 * kind + e) * 4 + c

def State.ring (s : State) (p key : Nat) : Ring := Tbl.get Ring.reset (s.ped p).rings key
def State.updRing (p key : Nat) (f : Ring → Ring) (s : State) : State :=
  s.updPed p (fun x => { x with rings := Tbl.set Ring.reset key (f (Tbl.get Ring.reset x.rings key)) x.rings })

def Ring.size (r : Ring) : Nat := bits r.cfg.toNat 3 0
/-- Pending commands (Table 11.16). -/
def Ring.pending (r : Ring) : Nat := (r.tail - r.head).toNat
/-- Capacity; a disabled ring holds none. -/
def Ring.cap (r : Ring) : Nat := if r.size = 0 then 0 else 2 ^ r.size

/-- MPA of a ring entry. -/
def ringAddr (p : Nat) (r : Ring) (idx : Nat) : Nat :=
  plinthBase p + r.base.toNat / 64 * 64 + 64 * (idx % 2 ^ r.size)

/-- The entry at an index (Table 11.2). -/
def State.ringCmd (s : State) (p key idx : Nat) : RingCmd :=
  let a := ringAddr p (s.ring p key) idx
  let f := fun o n => leNat (s.mpaBytes (a + o) n)
  let c := f 0 4
  { ring := key, idx := idx, op := bits c 3 0, cen := bitAt c 4, stream := f 8 2, ctr := f 12 4 % 2 ^ 15, inc := f 14 2
    arg := f 16 8 }

/-- A producer-index write (R496). -/
def State.ringTail (p key : Nat) (v : BitVec 16) (s : State) : State :=
  s.updRing p key (fun r => if (v - r.head).toNat ≤ r.cap then { r with tail := v } else { r with overrun := true })

/-- HEAD moves past entries that have completed. -/
def Ring.advanceN : Nat → Ring → Ring
  | 0, r => r
  | n + 1, r => if r.head ≠ r.take ∧ ¬ r.out.contains r.head.toNat then Ring.advanceN n { r with head := r.head + 1 } else r

def Ring.advance (r : Ring) : Ring := Ring.advanceN (r.out.length + r.cap + 1) r

/-- May a command signal its counter? A Skim job's counter belongs to its niche (Table 10.7, R546); none lies past the last
pedestal. -/
def State.ringSignals (s : State) (c : RingCmd) : Bool :=
  c.cen && decide (c.ctr / 1024 < 20) && (c.ring / 8 != 2 || (s.niche (c.stream % 32)).ownsCtr c.ctr)

/-- Complete a taken command: STATUS, signal, HEAD, hold (R452, R457). -/
def State.ringDone (p : Nat) (c : RingCmd) (code : Nat) (s : State) : State :=
  let r := s.ring p c.ring
  let s := s.mpaStore (ringAddr p r c.idx + 4) (leBytes (2 ^ 31 + code) 4)
  let s := s.updRing p c.ring (fun r => Ring.advance
    { r with out := r.out.filter (· ≠ c.idx), held := r.held || !(code == cDone || code == cBusy || code == cOrderHeld) })
  if s.ringSignals c then s.signalNow c.ctr c.inc else s

/-- Take the next entry of a ring. -/
def State.ringTake (p key : Nat) (s : State) : State :=
  s.updRing p key (fun r => { r with take := r.take + 1, out := r.out ++ [r.take.toNat] })

/-- Is there an entry to take? -/
def Ring.more (r : Ring) : Bool := r.take != r.tail && r.size != 0

/-- RESUME (R457). -/
def State.ringResume (p key : Nat) (s : State) : State := s.updRing p key (fun r => { r with held := false, overrun := false })

/-- Every pending command of the ring completes with a code (CANCEL: R457; a reset: R659); `skip` are left to end by
themselves. -/
def State.ringCancel (p key : Nat) (skip : List Nat) (code : Nat) (s : State) : State :=
  let r := s.ring p key
  let idxs := (r.out ++ (rangeFrom 0 (r.tail - r.take).toNat).map (fun i => (r.take + BitVec.ofNat 16 i).toNat)).filter
    (fun i => !skip.contains i)
  let s := s.updRing p key (fun r => { r with
    take := r.tail, out := r.out ++ (rangeFrom 0 (r.tail - r.take).toNat).map (fun i => (r.take + BitVec.ofNat 16 i).toNat) })
  let s := idxs.foldl (fun s i => s.ringDone p (s.ringCmd p key i) code) s
  s.updRing p key (fun r => { r with held := false, overrun := false })

/-! ## Engines out of service, under reset, in a shutdown -/

def engBlock (kind e : Nat) : Nat := if kind = 2 then hSkim else if kind = 1 then hEnt e else hPix e

/-- Is the engine in a running reset or test (R660)? -/
def State.engInReset (s : State) (p kind e : Nat) : Bool :=
  s.ras.rsts.any (fun r => r.ped == p && (r.scope == 4 || (r.scope == 3 && r.unit == 2 * kind + e)))

/-- A write to an engine's registers; it is discarded while the engine is in reset (R660) or the module not ready (R759). -/
def State.engReg (p kind e : Nat) (g : State → State) (s : State) : Host.Outcome State Fault Refusal :=
  .next (if s.engInReset p kind e ∨ s.pwr.phase < 11 then s else g s)

/-- May an engine take commands: no shutdown (R760), and no running reset or test of it (R660)? -/
def State.engRuns (s : State) (p kind e : Nat) : Bool :=
  s.pwr.stop == 0 && decide (11 ≤ s.pwr.phase) &&
  !s.engInReset p kind e

/-! ## Translated memory -/

/-- Bytes that a command uses at a DVA. -/
structure Need where
  dva : Nat
  len : Nat
  write : Bool

/-- Translations that reach the target of a reset. -/
def State.mapsHit (s : State) (r : RstRun) (m : List PageMap) : Bool := m.any (fun x => r.hits (s.loc x.mpa))

/-- What translation found, for a request that meets a running reset: RESET_ABORT (R660). -/
def State.orReset (s : State) (code : Option Nat) (m : List PageMap) : Option Nat :=
  if code.isNone ∧ s.ras.rsts.any (fun r => s.mapsHit r m) then some cResetAbort else code

/-- Translate everything a command uses (R456): the first failure in the order of Table 10.7, or the translations. -/
def State.needs (p niche : Nat) (ns : List Need) (s : State) : Option Nat × List PageMap × State :=
  let rc := Rec.base 0 1 0 none (some niche)
  let r := (ns.filter (fun n => n.len != 0)).foldl (fun (acc : List Nat × List PageMap × State) n =>
    let x := acc.2.2.resolveDva rc p niche n.write n.dva 0 n.len 1
    (acc.1 ++ x.codes, acc.2.1 ++ x.map, x.st)) ([], [], s)
  (r.2.2.orReset (tableOrder r.1) r.2.1, r.2.1, r.2.2)

/-- A byte at a translated DVA. -/
def State.dvaByte (s : State) (m : List PageMap) (a : Nat) : Byte :=
  match mapDva m a with
  | some x => s.mpaByte x
  | none => 0

def State.dvaLe (s : State) (m : List PageMap) (a n : Nat) : Nat := leNat ((rangeFrom a n).map (s.dvaByte m))

/-- Read bytes at an MPA for a unit of pedestal `p`: from another pedestal they come in the dynamic share, where a lost slot
fails them (R43, R649). -/
def State.farRead (p : Nat) (r : Rec) (a n : Nat) (s : State) : List Byte × Nat × State :=
  let (b, c, s) := s.readRun r a n
  let (lost, s) := s.dynCross r (s.spotPed (.mpa a)) p
  (b, if c = cDone ∧ lost then cUncorrectable else c, s)

/-- Write bytes at an MPA from pedestal `p`: the first slot that is lost delivers no payload (R43, R649). -/
def State.farWrite (p : Nat) (r : Rec) (a : Nat) (bs : List Byte) (s : State) : State :=
  let (lost, s) := s.dynCross r p (s.spotPed (.mpa a))
  let n := if lost then 64 - a % 64 else 0
  State.mpaStore (a + n) (bs.drop n) s

/-- Has a slot of the dynamic share been lost between two states? -/
def slotLost (a b : State) : Bool := Tbl.get 0 a.ras.uecnt 0x0D != Tbl.get 0 b.ras.uecnt 0x0D

/-- Work whose bytes a lost slot carried ends UNCORRECTABLE (R649). -/
def lostCode (s0 s : State) (code : Nat) : Nat := if code = cDone ∧ slotLost s0 s then cUncorrectable else code

/-- Read translated bytes through the detectors, for a unit of pedestal `p`: bytes and first failure. -/
def State.dvaRead (p : Nat) (m : List PageMap) (niche a n : Nat) (s : State) : List Byte × Nat × State :=
  (pagePieces (2 ^ 16) (n + 1) a n).foldl (fun acc pc =>
    match mapDva m pc.1 with
    | some x =>
      let (b, c, s) := acc.2.2.farRead p (Rec.base 0 1 0 none (some niche)) x pc.2
      (acc.1 ++ b, if acc.2.1 = cDone then c else acc.2.1, s)
    | none => acc) ([], cDone, s)

/-- Write translated bytes, from a unit of pedestal `p`. -/
def State.dvaWrite (p : Nat) (m : List PageMap) (a : Nat) (bs : List Byte) (s : State) : State :=
  ((pagePieces (2 ^ 16) (bs.length + 1) a bs.length).foldl (fun (acc : List Byte × State) pc =>
    (acc.1.drop pc.2, match mapDva m pc.1 with
      | some x => acc.2.farWrite p (Rec.base 0 1 0 none none) x (acc.1.take pc.2)
      | none => acc.2)) (bs, s)).2

/-- Translate and read in one go: bytes, code of the first failure. -/
def State.fetchDva (p niche a n : Nat) (s : State) : List Byte × Nat × State :=
  match s.needs p niche [⟨a, n, false⟩] with
  | (some c, _, s) => ([], c, s)
  | (none, m, s) => s.dvaRead p m niche a n

/-- Translate and write in one go: the code of the first failure. -/
def State.storeDva (p niche a : Nat) (bs : List Byte) (s : State) : Nat × State :=
  match s.needs p niche [⟨a, bs.length, true⟩] with
  | (some c, _, s) => (c, s)
  | (none, m, s) =>
    let t := s.dvaWrite p m a bs
    (lostCode s t cDone, t)

/-- Was an error corrected between two states? -/
def corrected (a b : State) : Bool := a.ras.cecnt != b.ras.cecnt

/-! ## Context and stream records -/

def ctxAddr (s : State) (p stream : Nat) : Nat := plinthBase p + (s.ped p).pixCtxBase.toNat + 512 * stream
def recAddr (s : State) (p stream : Nat) : Nat := plinthBase p + (s.ped p).entCtxBase.toNat + 128 * stream

/-- A record of `n` bytes as a memory of its own. -/
def recordOf (bs : List Byte) : Memory := Memory.write 0 bs []

def State.ctxOf (s : State) (p stream : Nat) : Memory := recordOf (s.mpaBytes (ctxAddr s p stream) 512)
def State.srecOf (s : State) (p stream : Nat) : Memory := recordOf (s.mpaBytes (recAddr s p stream) 128)

/-- Change a field of a record. -/
def setField (m : Memory) (o n v : Nat) : Memory := Memory.write o (leBytes v n) m

def cfgOf (c : Memory) : Nat := c.le 0 4
def ctxValid (c : Memory) : Bool := bitAt (cfgOf c) 0
def ctxClass (c : Memory) : Nat := bits (cfgOf c) 2 1
def ctxDepth (c : Memory) : Nat := bits (cfgOf c) 3 3
def ctxB (c : Memory) : Nat := 8 * 2 ^ bits (cfgOf c) 5 4
def ctxNiche (c : Memory) : Nat := bits (cfgOf c) 10 6
def ctxPeng (c : Memory) : Nat := bits (cfgOf c) 11 11
def ctxEeng (c : Memory) : Nat := bits (cfgOf c) 12 12
def ctxW (c : Memory) : Nat := c.le 4 2
def ctxH (c : Memory) : Nat := c.le 6 2
def ctxMaxref (c : Memory) : Nat := c.le 8 1
def ctxNbuf (c : Memory) : Nat := c.le 9 1
def ctxRp (c : Memory) : Nat := c.le 10 1
def ctxLag (c : Memory) : Nat := c.le 11 1
def ctxPstride (c : Memory) : Nat := c.le 12 2
def ctxLambda (c : Memory) : Nat := c.le 14 2
def ctxBuflist (c : Memory) : Nat := c.le 16 8
def ctxQmap (c : Memory) : Nat := c.le 24 8
def ctxLatq (c : Memory) : Nat := c.le 32 8
def ctxLqk (c : Memory) : Nat := bits (c.le 40 4) 3 0
def ctxLqfill (c : Memory) : Nat := c.le 44 4 % 2 ^ 15
def ctxLqfree (c : Memory) : Nat := c.le 48 4 % 2 ^ 15
def ctxRcctr (c : Memory) : Nat := c.le 52 4 % 2 ^ 15
def ctxRcmirror (c : Memory) : Nat := c.le 56 8
/-- RCSTATE fields (Table 11.8). -/
def rcTarget (c : Memory) : Nat := c.le 0x40 4
def rcBmin (c : Memory) : Nat := c.le 0x44 4
def rcDebt (c : Memory) : Nat := c.le 0x48 4
def rcQbase (c : Memory) : Nat := c.le 0x4C 1
def rcQmin (c : Memory) : Nat := c.le 0x4D 1
def rcQmax (c : Memory) : Nat := c.le 0x4E 1
def rcDqmax (c : Memory) : Nat := c.le 0x4F 1
def rcKq (c : Memory) : Nat := c.le 0x50 2
def rcFrame (c : Memory) : Nat := c.le 0x54 4
def rcCycle (c : Memory) : Nat := c.le 0x58 4
def rcBand (c : Memory) : Nat := c.le 0x5C 1
/-- Reference slots (Table 11.6). -/
def slotMark (c : Memory) (i : Nat) : Nat := bits (c.le (0x80 + 16 * i) 1) 6 5
def slotBuf (c : Memory) (i : Nat) : Nat := bits (c.le (0x80 + 16 * i) 1) 4 0
def slotLt (c : Memory) (i : Nat) : Nat := bits (c.le (0x81 + 16 * i) 1) 3 0
def slotClean (c : Memory) (i : Nat) : Nat := c.le (0x82 + 16 * i) 2
def slotFrame (c : Memory) (i : Nat) : Nat := c.le (0x84 + 16 * i) 4
def slotCycle (c : Memory) (i : Nat) : Nat := c.le (0x88 + 16 * i) 4

def ctxCols (c : Memory) : Nat := ceilDiv (ctxW c) (ctxB c)
def ctxRows (c : Memory) : Nat := ceilDiv (ctxH c) (ctxB c)
def ctxS (c : Memory) : Nat := 1 + ctxDepth c
/-- Bytes of the three planes, and of the motion field (R449, R450). -/
def ctxPlanes (c : Memory) : Nat := ctxPstride c * ctxH c * 3 / 2
def cellsW (c : Memory) : Nat := ceilDiv (ctxW c) 8
def ctxMfBytes (c : Memory) : Nat := 4 * cellsW c * ceilDiv (ctxH c) 8

/-- Block columns of a refresh band, first and past the last (R475). -/
def bandCols (c : Memory) (i : Nat) : Nat × Nat :=
  (i * ctxCols c / ctxRp c, (i + 1) * ctxCols c / ctxRp c)

/-! ## Integer helpers -/

def clampI (x lo hi : Int) : Int := if x < lo then lo else if hi < x then hi else x

/-- Exp-Golomb mapping of a signed difference (R461, R504). -/
def mapSigned (d : Int) : Nat := if 0 < d then (2 * d - 1).toNat else (-2 * d).toNat

/-- bits(d) of R461. -/
def costBits (d : Int) : Nat := 2 * Nat.log2 (mapSigned d + 1) + 1

def median3 (a b c : Int) : Int := max (min a b) (min (max a b) c)

/-- The word of a motion-field cell (R450). -/
def mvWord (v : Option (Int × Int)) : Nat :=
  match v with
  | none => 0x80008000
  | some (x, y) => (x % 65536).toNat + 65536 * (y % 65536).toNat

def mvOfWord (w : Nat) : Option (Int × Int) :=
  if w = 0x80008000 then none else some (sext 16 (w % 65536), sext 16 (w / 65536))

/-- Vectors of the neighbours of block `i` (column `x`, row `y`): left, above, above-right, above-left; none when absent or
intra (R459, R461, R515). `top` is the first block row of the substream. -/
def mvAt (mvs : List (Option (Int × Int))) (cols top : Nat) (x y : Int) : Option (Int × Int) :=
  if x < 0 ∨ (cols : Int) ≤ x ∨ y < top then none else ((mvs[(y * cols + x).toNat]?).getD none)

/-- The predictor of R461. -/
def mvPred (mvs : List (Option (Int × Int))) (cols top x y : Nat) : Int × Int :=
  let z := fun (v : Option (Int × Int)) => v.getD (0, 0)
  let l := z (mvAt mvs cols top ((x : Int) - 1) y)
  let a := z (mvAt mvs cols top x ((y : Int) - 1))
  let r := z (mvAt mvs cols top ((x : Int) + 1) ((y : Int) - 1))
  (median3 l.1 a.1 r.1, median3 l.2 a.2 r.2)

/-- First block row of the substream that holds block row `r` (R510). -/
def subOf (rows nsub r : Nat) : Nat := ((rangeFrom 0 nsub).filter (fun j => decide (j * rows / nsub ≤ r))).length - 1
def subTop (rows nsub r : Nat) : Nat := subOf rows nsub r * rows / nsub

/-- The offset of the first region that holds a block's centre (R480, R481). -/
def roiOffset (rois : List (Nat × Nat × Nat × Nat × Int)) (cx cy : Nat) : Int :=
  match rois.find? (fun r => decide (r.1 ≤ cx) && decide (cx < r.2.2.1) && decide (r.2.1 ≤ cy) && decide (cy < r.2.2.2.1)) with
  | some r => r.2.2.2.2
  | none => 0

/-- Centre sample of a block (R459). -/
def centreOf (c : Memory) (x y : Nat) : Nat × Nat :=
  let b := ctxB c
  (min (x * b + b / 2) (ctxW c - 1), min (y * b + b / 2) (ctxH c - 1))

/-- One row of the quality map (R481). -/
def mapRow (c : Memory) (rois : List (Nat × Nat × Nat × Nat × Int)) (mvs : List (Option (Int × Int))) (q : Int) (y : Nat) :
    List Byte :=
  (rangeFrom 0 (ctxCols c)).map (fun x =>
    let ce := centreOf c x y
    let v := (clampI (q + roiOffset rois ce.1 ce.2) 0 63).toNat
    BitVec.ofNat 8 (v + (if ((mvs[y * ctxCols c + x]?).getD none).isNone then 128 else 0)))

/-- Write one block's vector to the motion-field cells it owns (chapter 11, after R451). -/
def State.writeCells (p : Nat) (m : List PageMap) (mf : Nat) (c : Memory) (x y : Nat) (v : Option (Int × Int)) (s : State) : State :=
  let n := ctxB c / 8
  (rangeFrom 0 n).foldl (fun s j => (rangeFrom 0 n).foldl (fun s i =>
    let cx := x * n + i
    let cy := y * n + j
    if 8 * cx < ctxW c ∧ 8 * cy < ctxH c then s.dvaWrite p m (mf + 4 * (cy * cellsW c + cx)) (leBytes (mvWord v) 4) else s) s) s

end Sys2Proof.Machine
end

