-- ==== Sys2Proof/Machine/Search.lean ====
section
/-! DEFINITION. Motion search and prediction of the pixel engine (R459 to R466, R476), over pictures read as planes. -/
namespace Sys2Proof.Machine
open Sys2Proof

/-- The codes of a plane by column and row. -/
abbrev Plane := Int → Int → Int

/-- A motion vector in quarter samples: x, y. -/
abbrev Mv := Int × Int

/-! ## Pictures in memory (R448, R449) -/

/-- Byte offset and row stride of plane 0 (luma), 1 (Cb), 2 (Cr); `k` scales the strides (R451). -/
def planeOff (c : Memory) (pl k : Nat) : Nat :=
  match pl with
  | 0 => 0
  | 1 => k * ctxPstride c * ctxH c
  | _ => k * ctxPstride c * ctxH c * 5 / 4
def planeStride (c : Memory) (pl k : Nat) : Nat := if pl = 0 then k * ctxPstride c else k * ctxPstride c / 2
def planeW (c : Memory) (pl : Nat) : Nat := if pl = 0 then ctxW c else ctxW c / 2
def planeH (c : Memory) (pl : Nat) : Nat := if pl = 0 then ctxH c else ctxH c / 2

/-- Largest code (R464). -/
def maxCode (c : Memory) : Int := 2 ^ (8 + 2 * ctxDepth c) - 1

/-- DVA of a sample. -/
def sampleDva (c : Memory) (base pl x y : Nat) : Nat := base + planeOff c pl 1 + y * planeStride c pl 1 + x * ctxS c

/-- A plane, with edge replication (R466). A 10-bit code above 1,023 reads as 1,023 (R448). -/
def State.plane (s : State) (m : List PageMap) (c : Memory) (base pl : Nat) : Plane := fun x y =>
  let x := (clampI x 0 ((planeW c pl : Int) - 1)).toNat
  let y := (clampI y 0 ((planeH c pl : Int) - 1)).toNat
  min (s.dvaLe m (sampleDva c base pl x y) (ctxS c) : Int) (maxCode c)

/-! ## Interpolation (R464, R465) -/

/-- Table 11.5. -/
def tap (phase t : Nat) : Int :=
  match phase, t with
  | 0, 1 => 64
  | 1, 0 => -4 | 1, 1 => 54 | 1, 2 => 16 | 1, 3 => -2
  | 2, 0 => -4 | 2, 1 => 36 | 2, 2 => 36 | 2, 3 => -4
  | 3, 0 => -2 | 3, 1 => 16 | 3, 2 => 54 | 3, 3 => -4
  | _, _ => 0

def lumaPred (ref : Plane) (maxc x y : Int) (v : Mv) : Int :=
  let xi := x + v.1 / 4
  let yi := y + v.2 / 4
  let fx := (v.1 % 4).toNat
  let fy := (v.2 % 4).toNat
  let h := fun (j : Int) => ((rangeFrom 0 4).map (fun (t : Nat) => tap fx t * ref (xi - 1 + t) j)).foldl (· + ·) 0
  clampI (rsh (((rangeFrom 0 4).map (fun (t : Nat) => tap fy t * h (yi - 1 + t))).foldl (· + ·) 0) 12) 0 maxc

def chromaPred (ref : Plane) (maxc x y : Int) (v : Mv) : Int :=
  let xi := x + v.1 / 8
  let yi := y + v.2 / 8
  let fx := v.1 % 8
  let fy := v.2 % 8
  clampI (rsh ((8 - fx) * (8 - fy) * ref xi yi + fx * (8 - fy) * ref (xi + 1) yi + (8 - fx) * fy * ref xi (yi + 1) +
    fx * fy * ref (xi + 1) (yi + 1)) 6) 0 maxc

/-- The prediction of a sample of a plane; none: intra (R466). -/
def predSample (ref : Nat → Plane) (c : Memory) (pl : Nat) (x y : Nat) (v : Option Mv) : Int :=
  match v with
  | none => 2 ^ (7 + 2 * ctxDepth c)
  | some v => if pl = 0 then lumaPred (ref 0) (maxCode c) x y v else chromaPred (ref pl) (maxCode c) x y v

/-! ## Cost and search (R459 to R462, R476) -/

/-- A block: first sample and size inside the picture. -/
structure Blk where
  x : Nat
  y : Nat
  w : Nat
  h : Nat
  deriving DecidableEq, Repr

def blkOf (c : Memory) (bx bry : Nat) : Blk :=
  let b := ctxB c
  ⟨bx * b, bry * b, min b (ctxW c - bx * b), min b (ctxH c - bry * b)⟩

/-- Sum of absolute differences of a block at a vector. -/
def sad (src ref : Plane) (maxc : Int) (b : Blk) (v : Mv) : Nat :=
  ((rangeFrom b.y b.h).map (fun (y : Nat) => ((rangeFrom b.x b.w).map (fun (x : Nat) =>
    (src x y - lumaPred ref maxc x y v).natAbs)).foldl (· + ·) 0)).foldl (· + ·) 0

/-- R461. -/
def mvCost (src ref : Plane) (c : Memory) (b : Blk) (pred v : Mv) : Nat :=
  sad src ref (maxCode c) b v + (ctxLambda c * (costBits (v.1 - pred.1) + costBits (v.2 - pred.2)) + 8) / 16

/-- R476: may a block use a vector? `ext`: the effective clean extent when the block is clean. -/
def mvAllowed (c : Memory) (b : Blk) (ext : Option Nat) (v : Mv) : Bool :=
  match ext with
  | none => true
  | some e => decide ((b.x : Int) + v.1 / 4 + ctxB c - 1 + (if v.1 % 8 = 0 then 0 else 2) < e)

/-- Is a position in range (R462) and allowed? -/
def mvLegal (c : Memory) (b : Blk) (ext : Option Nat) (v : Mv) : Bool :=
  decide (-4096 ≤ v.1) && decide (v.1 ≤ 4096) && decide (-4096 ≤ v.2) && decide (v.2 ≤ 4096) && mvAllowed c b ext v

/-- Visit positions in order: the best vector with its cost; only a strictly lower cost replaces it. -/
def visit (ok : Mv → Bool) (cost : Mv → Nat) (best : Option (Mv × Nat)) (vs : List Mv) : Option (Mv × Nat) :=
  vs.foldl (fun best v =>
    if ok v then
      match best with
      | none => some (v, cost v)
      | some b => if cost v < b.2 then some (v, cost v) else some b
    else best) best

/-- Candidates as integer samples, out of range and repeats dropped (R460). -/
def intCandidates (cs : List (Option Mv)) : List Mv :=
  (cs.filterMap id).foldl (fun acc v =>
    let u : Mv := (rtaDiv v.1 4, rtaDiv v.2 4)
    if u.1.natAbs ≤ 1024 ∧ u.2.natAbs ≤ 1024 ∧ ¬ acc.contains u then acc ++ [u] else acc) []

/-- Integer displacements about a centre, dy before dx. -/
def squareAbout (v : Mv) : List Mv :=
  (rangeFrom 0 33).flatMap (fun (j : Nat) => (rangeFrom 0 33).map (fun (i : Nat) =>
    ((v.1 + 4 * ((i : Int) - 16), v.2 + 4 * ((j : Int) - 16)) : Mv)))

/-- The eight neighbours at a step (R462). -/
def eightAbout (d : Int) (v : Mv) : List Mv :=
  ([(-1, -1), (0, -1), (1, -1), (-1, 0), (1, 0), (-1, 1), (0, 1), (1, 1)] : List Mv).map (fun n => (v.1 + d * n.1, v.2 + d * n.2))

/-- The search of a block: its vector, none when it has no allowed position, and every position whose cost was taken. Each
stage goes about the best position at its start. -/
def searchBlock (ok : Mv → Bool) (cost : Mv → Nat) (cands : List (Option Mv)) : Option Mv × List Mv :=
  let c0 := (intCandidates cands).map (fun u => ((4 * u.1, 4 * u.2) : Mv))
  match visit ok cost none c0 with
  | none => (none, [])
  | some b0 =>
    let c1 := squareAbout b0.1
    let b1 := (visit ok cost (some b0) c1).getD b0
    let c2 := eightAbout 2 b1.1
    let b2 := (visit ok cost (some b1) c2).getD b1
    let c3 := eightAbout 1 b2.1
    let b3 := (visit ok cost (some b2) c3).getD b2
    (some b3.1, (c0 ++ c1 ++ c2 ++ c3).filter ok)

/-! ## Samples that costs and predictions use (R468) -/

/-- First and last sample that an axis of a prediction reads, for positions `a` to `a + n - 1`; `q` quarter (luma) or eighth
units. -/
def axisSpan (q : Int) (a n : Nat) (m : Int) : Int × Int :=
  let lo := (a : Int) + m / q
  let hi := (a : Int) + n - 1 + m / q
  if m % q = 0 then (lo, hi) else if q = 4 then (lo - 1, hi + 2) else (lo, hi + 1)

/-- Runs of bytes of a plane that a prediction reads, as DVA and length. -/
def predRuns (c : Memory) (base pl : Nat) (b : Blk) (v : Mv) : List (Nat × Nat) :=
  let q : Int := if pl = 0 then 4 else 8
  let d := if pl = 0 then 1 else 2
  let xs := axisSpan q (b.x / d) (b.w / d) v.1
  let ys := axisSpan q (b.y / d) (b.h / d) v.2
  let cx := fun (x : Int) => (clampI x 0 ((planeW c pl : Int) - 1)).toNat
  let y0 := (clampI ys.1 0 ((planeH c pl : Int) - 1)).toNat
  let y1 := (clampI ys.2 0 ((planeH c pl : Int) - 1)).toNat
  (rangeFrom y0 (y1 + 1 - y0)).map (fun y => (sampleDva c base pl (cx xs.1) y, (cx xs.2 + 1 - cx xs.1) * ctxS c))

/-- Runs of bytes of a block of a picture. -/
def blkRuns (c : Memory) (base pl : Nat) (b : Blk) : List (Nat × Nat) :=
  let d := if pl = 0 then 1 else 2
  (rangeFrom (b.y / d) (b.h / d)).map (fun y => (sampleDva c base pl (b.x / d) y, b.w / d * ctxS c))

end Sys2Proof.Machine
end

