-- ==== Sys2Proof/Machine/Pixel.lean ====
section
/-! DEFINITION. The pixel engines (chapter 11): rings, stream contexts, motion search, prediction, reconstruction, the
reference pool, gradual refresh and the quality map. -/
namespace Sys2Proof.Machine
open Sys2Proof

/-! ## Frame records (Table 11.3) -/

def frFlags (f : Memory) : Nat := f.le 0 4
def frGvalid (f : Memory) : Bool := bitAt (frFlags f) 0
def frGmvv (f : Memory) : Bool := bitAt (frFlags f) 1
def frFintra (f : Memory) : Bool := bitAt (frFlags f) 2
def frNoref (f : Memory) : Bool := bitAt (frFlags f) 3
def frCurLong (f : Memory) : Bool := bitAt (frFlags f) 4
def frLtidx (f : Memory) : Nat := bits (frFlags f) 8 5
def frNroi (f : Memory) : Nat := bits (frFlags f) 15 9
def frRsel (f : Memory) : Nat := bits (frFlags f) 19 16
def frBudget (f : Memory) : Nat := f.le 4 4
def frSrc (f : Memory) : Nat := f.le 8 8
def frGvf (f : Memory) : Nat := f.le 0x10 8
def frRoi (f : Memory) : Nat := f.le 0x18 8
def frGmv (f : Memory) : Nat := f.le 0x20 4
def frBand (f : Memory) : Nat := f.le 0x24 2
def frFcarry (f : Memory) : Nat := f.le 0x26 2
def frRes (f : Memory) : Nat := f.le 0x28 8
def frMf (f : Memory) : Nat := f.le 0x30 8
def frPred (f : Memory) : Nat := f.le 0x38 8
def frOp (f : Memory) (i : Nat) : Nat := f.le (0x40 + 2 * i) 2

/-! ## The reference table (Table 11.6, R470 to R473) -/

/-- The sixteen slots of a context record. -/
def slotIdx : List Nat := rangeFrom 0 16

def markedSlots (c : Memory) : List Nat := slotIdx.filter (fun i => slotMark c i != 0)

/-- Make a slot unused. -/
def unmark (i : Nat) (c : Memory) : Memory := setField c (0x80 + 16 * i) 1 (slotBuf c i)

/-- R470: the lowest-numbered frame buffer that no marked slot holds. -/
def freeBuf (c : Memory) : Nat :=
  ((rangeFrom 0 (ctxNbuf c)).find? (fun b => !(markedSlots c).any (fun i => slotBuf c i == b))).getD 0

/-- Make a slot long-term with an index; another long-term slot of that index becomes unused. -/
def makeLong (i lt : Nat) (c : Memory) : Memory :=
  let c := slotIdx.foldl (fun c j => if j ≠ i ∧ slotMark c j = 2 ∧ slotLt c j = lt then unmark j c else c) c
  setField (setField c (0x80 + 16 * i) 1 (slotBuf c i + 64)) (0x81 + 16 * i) 1 lt

/-- One reference operation (Table 11.7); none: BAD_DESCRIPTOR. -/
def refOp (o : Nat) (c : Memory) : Option Memory :=
  let i := bits o 7 4
  match bits o 3 0 with
  | 1 => if slotMark c i = 0 then none else some (unmark i c)
  | 2 => if slotMark c i = 1 then some (makeLong i (bits o 11 8) c) else none
  | 3 => some (slotIdx.foldl (fun c j => if slotMark c j = 1 then unmark j c else c) c)
  | _ => none

/-- A list of operations, up to its end mark. -/
def refOps : List Nat → Memory → Option Memory
  | [], c => some c
  | o :: os, c => if bits o 3 0 = 0 then some c else (refOp o c).bind (refOps os)

/-- R473: the table after the list, or BAD_DESCRIPTOR. -/
def refList (fr c : Memory) : Option Memory :=
  (refOps ((rangeFrom 0 8).map (frOp fr)) c).bind (fun d =>
    if ctxMaxref c < (slotIdx.filter (fun i => slotMark d i == 2)).length then none else some d)

/-- The short-term slot with the lowest FRAME. -/
def oldestShort (c : Memory) : Option Nat :=
  (slotIdx.filter (fun i => slotMark c i == 1)).foldl (fun best i =>
    match best with
    | none => some i
    | some b => if slotFrame c i < slotFrame c b then some i else some b) none

/-- While more than MAXREF slots are marked, the oldest short-term slot becomes unused. -/
def trimRefs : Nat → Memory → Memory
  | 0, c => c
  | n + 1, c =>
    if ctxMaxref c < (markedSlots c).length then
      match oldestShort c with
      | some i => trimRefs n (unmark i c)
      | none => c
    else c

/-- The lowest unused slot. -/
def unusedSlot (c : Memory) : Option Nat := slotIdx.find? (fun i => slotMark c i == 0)

/-- Long-term slots of an index become unused. -/
def dropLong (lt : Nat) (c : Memory) : Memory :=
  slotIdx.foldl (fun c j => if slotMark c j = 2 ∧ slotLt c j = lt then unmark j c else c) c

/-- R472: the current frame enters the slot that is the lowest unused after the list. Where the list leaves every slot marked,
the long-term slot that the frame displaces gives way, else the oldest short-term slot (DEDUCED). -/
def enterFrame (fr : Memory) (clean : Nat) (c : Memory) : Memory :=
  if frNoref fr then c
  else
    let d := if frCurLong fr then dropLong (frLtidx fr) c else c
    let slot := match unusedSlot c with
      | some i => (some i, d)
      | none => match unusedSlot d with
        | some i => (some i, d)
        | none => (oldestShort d, match oldestShort d with | some i => unmark i d | none => d)
    match slot with
    | (none, c) => c
    | (some i, c) =>
      let o := 0x80 + 16 * i
      let c := setField c o 1 (c.le 0x180 1 % 32 + (if frCurLong fr then 64 else 32))
      let c := setField c (o + 1) 1 (if frCurLong fr then frLtidx fr else 0)
      let c := setField c (o + 2) 2 clean
      let c := setField c (o + 4) 4 (rcFrame c)
      setField c (o + 8) 4 (rcCycle c)

/-- R471, R472 in order. -/
def applyRefs (fr : Memory) (clean : Nat) (c : Memory) : Memory :=
  trimRefs 16 (enterFrame fr clean ((refList fr c).getD c))

/-! ## Refresh (R475 to R478) -/

def ctxCycle (c : Memory) : Nat := rcCycle c
def ctxFirstCarry (c : Memory) : Nat := c.le 0x188 2
def ctxCurbuf (c : Memory) : Nat := c.le 0x180 4 % 32

/-- Does a block column lie in a band? -/
def inBand (c : Memory) (band bx : Nat) : Bool :=
  ctxRp c != 0 && decide (band < ctxRp c) && decide ((bandCols c band).1 ≤ bx) && decide (bx < (bandCols c band).2)

/-- Luma extent of a band. -/
def bandBs (c : Memory) (i : Nat) : Nat := (bandCols c i).1 * ctxB c
def bandBe (c : Memory) (i : Nat) : Nat := min (ctxW c) ((bandCols c i).2 * ctxB c)

/-- The clean extent that binds a block (R476); none when it is not clean. -/
def cleanExt (c : Memory) (rsel : Nat) (b : Blk) : Option Nat :=
  if ctxRp c ≠ 0 ∧ b.x + ctxB c ≤ bandBs c (rcBand c) then
    some (if slotCycle c rsel = rcCycle c then slotClean c rsel else 0)
  else none

/-- The frame's CLEAN_X (Table 11.8a). -/
def frameClean (fr c : Memory) : Nat :=
  if frFintra fr then ctxW c
  else if ctxRp c = 0 then 0
  else if ctxFirstCarry c < ctxRows c then bandBs c (rcBand c) else bandBe c (rcBand c)

/-- BAND and CYCLE after RECON (Table 11.8a). -/
def refreshNext (fr c : Memory) : Memory :=
  if frFintra fr ∨ ctxRp c = 0 then setField c 0x5C 1 0
  else if ctxFirstCarry c < ctxRows c then c
  else if rcBand c + 1 < ctxRp c then setField c 0x5C 1 (rcBand c + 1)
  else setField (setField c 0x5C 1 0) 0x58 4 (rcCycle c + 1)

/-- R478. -/
def refreshPoint (fr c : Memory) : Bool := frFintra fr || rcBand c == 0

/-! ## CTXSET (R446) -/

def between (lo hi x : Nat) : Bool := decide (lo ≤ x) && decide (x ≤ hi)
/-- Bytes `lo` to `hi - 1` of a record are 0. -/
def zeroBytes (c : Memory) (lo hi : Nat) : Bool := (c.bytes lo (hi - lo)).all (· == 0)

/-- Does a counter field name a counter of the pedestal, its reserved bits 0? -/
def ctrField (c : Memory) (p o : Nat) : Bool := c.le o 4 < 2 ^ 15 && c.le o 4 / 1024 == p

/-- Table 11.8 and R483. -/
def rcStateOk (c : Memory) : Bool :=
  decide (rcQmin c ≤ rcQmax c) && decide (rcQmax c ≤ 63) && rcBmin c != 0 && rcKq c != 0 &&
  zeroBytes c 0x52 0x54 && zeroBytes c 0x5D 0x60 && zeroBytes c 0x64 0x80

/-- Table 11.6. -/
def slotOk (c : Memory) (i : Nat) : Bool :=
  slotMark c i != 3 && decide (c.le (0x80 + 16 * i) 1 < 128) && decide (c.le (0x81 + 16 * i) 1 < 16) &&
  zeroBytes c (0x8C + 16 * i) (0x90 + 16 * i)

def ctxOk (p : Nat) (c : Memory) : Bool :=
  decide (cfgOf c < 2 ^ 13) && between 64 8192 (ctxW c) && ctxW c % 8 == 0 && between 64 4352 (ctxH c) && ctxH c % 8 == 0 &&
  between 1 16 (ctxMaxref c) && between (ctxMaxref c + 1) 32 (ctxNbuf c) && between 1 8 (ctxLag c) &&
  ctxPstride c % 128 == 0 && decide (ctxW c * ctxS c ≤ ctxPstride c) && decide (c.le 0x28 4 < 16) &&
  between 2 10 (ctxLqk c) && ctrField c p 0x2C && ctrField c p 0x30 && ctrField c p 0x34 &&
  decide (ctxRp c ≤ ctxCols c) && rcStateOk c && slotIdx.all (slotOk c) && decide (c.le 0x180 4 < 32) &&
  decide (c.le 0x184 4 < 2 ^ 16) && zeroBytes c 0x18A 0x200

/-! ## Taking commands (R453 to R457, R495) -/

def pixBlock (p : Nat) : Nat := pedBase p + 0x100000

/-- Does the stream have a frame command that is not complete? -/
def State.pixBusy (s : State) (p stream : Nat) : Bool :=
  let x := s.ped p
  x.frames.any (fun f => f.pix.cmd.stream == stream) || x.pixSaved.any (fun c => c.2.cmd.stream == stream) ||
  x.pixRun.any (fun kv => match kv.2 with | some c => c.cmd.stream == stream | none => false)

/-- Does the stream have any command that is not complete, of a pixel or entropy engine (R56, R447)? -/
def State.streamBusy (s : State) (p stream : Nat) : Bool :=
  s.pixBusy p stream || (s.ped p).units.any (fun u => u.stream == stream) || (s.ped p).decs.any (fun d => d.cmd.stream == stream)

/-- Does the rate controller of an engine hold as many frames as it can (R495)? -/
def State.rcFull (s : State) (p e : Nat) : Bool := decide (32 ≤ ((s.ped p).frames.filter (fun f => f.peng == e)).length)

/-- Does a command wait at the head of its ring? -/
def State.pixWaits (s : State) (p e : Nat) (c : RingCmd) : Bool :=
  (c.op != 1 && s.pixBusy p c.stream) || (c.op == 2 && s.rcFull p e)

/-- The next entry of a ring, its stream number in bits [11:0]. -/
def State.nextCmd (s : State) (p key : Nat) : RingCmd :=
  let c := s.ringCmd p key (s.ring p key).take.toNat
  { c with stream := c.stream % 4096 }

/-- Entries of a held ring complete ORDER_HELD at their turn (R457). -/
def State.drainHeld (p key : Nat) : Nat → State → State
  | 0, s => s
  | n + 1, s =>
    let r := s.ring p key
    if r.held ∧ r.more then State.drainHeld p key n ((s.ringTake p key).ringDone p (s.ringCmd p key r.take.toNat) cOrderHeld)
    else s

/-- What a ring offers: a saved command, or the entry at its head. -/
inductive Offer where
  | saved (c : PixCmd)
  | fresh (c : RingCmd)
  deriving DecidableEq, Repr

def State.pixSavedOn (s : State) (p e key : Nat) : Option PixCmd :=
  ((s.ped p).pixSaved.find? (fun c => c.1 == e && c.2.cmd.ring == key)).map (·.2)

def State.pixOffer (s : State) (p e key : Nat) : Option Offer :=
  match s.pixSavedOn p e key with
  | some c => if c.cmd.op == 2 && s.rcFull p e then none else some (.saved c)
  | none =>
    let r := s.ring p key
    if r.more ∧ ¬ r.held ∧ ¬ s.pixWaits p e (s.nextCmd p key) then some (.fresh (s.nextCmd p key)) else none

/-- The offer of the highest-priority ring that has one (R454). -/
def State.pixPick (s : State) (p e : Nat) : Option Offer :=
  if s.engRuns p 0 e then (rangeFrom 0 4).findSome? (fun c => s.pixOffer p e (ringKey 0 e c)) else none

/-- Complete what ends at its turn before the engine's next command: ORDER_HELD on held rings, reserved opcodes, commands of
an engine that is out of service (R686; for pixel and entropy engines DEDUCED from the row of Skim). -/
def State.pixSettleN (p e : Nat) : Nat → State → State
  | 0, s => s
  | n + 1, s =>
    let s := (rangeFrom 0 4).foldl (fun s c => s.drainHeld p (ringKey 0 e c) 65536) s
    match s.pixPick p e with
    | some (.fresh c) =>
      if s.badWithPlinth p (hPix e) then State.pixSettleN p e n ((s.ringTake p c.ring).ringDone p c cUnsupported)
      else if c.op = 0 ∨ 5 < c.op then State.pixSettleN p e n ((s.ringTake p c.ring).ringDone p c cBadDescriptor) else s
    | _ => s

def State.pixSettle (p e : Nat) (s : State) : State :=
  if (Tbl.get none (s.ped p).pixRun e).isSome then s else s.pixSettleN p e 65536

/-- Sticky error bits. -/
def State.pixFlag (p e : Nat) (b : BitVec 4) (s : State) : State :=
  (s.updPed p (fun x => { x with pixErr := Tbl.upd 0 e (· ||| b) x.pixErr })).mark (pedBase p + 0x100004 + 0x1000 * e) b.toNat

/-- Note what a command's reads met since `s0` (Table 11.12). -/
def State.pixNote (s0 : State) (p e code : Nat) (s : State) : State :=
  let s := if corrected s0 s then s.pixFlag p e 1 else s
  if code = cUncorrectable then s.pixFlag p e 2 else if code = cPoisonedInput then s.pixFlag p e 4 else s

/-- A command ends: the engine is free, and its ring entry completes. -/
def State.pixEnd (p e : Nat) (c : RingCmd) (code : Nat) (s : State) : State :=
  ((s.updPed p (fun x => { x with pixRun := Tbl.set none e none x.pixRun })).ringDone p c code).pixSettle p e

/-- Read a stream's context record through the detectors. -/
def State.ctxRead (p stream : Nat) (s : State) : Memory × Nat × State :=
  let (b, c, s) := s.readRun (Rec.base 0 1 0 (some p) none) (ctxAddr s p stream) 512
  (recordOf b, c, s)

def State.ctxWrite (p stream : Nat) (c : Memory) (s : State) : State := s.mpaStore (ctxAddr s p stream) (c.bytes 0 512)

/-- Take a fresh command of an opcode and read its context record; it fails when the record cannot be read, and, unless it
sets the record, when the stream is not valid or not of this ring and engine (R453). -/
def State.pixTake (p e op : Nat) (s : State) : Option (RingCmd × Memory × Nat) × State :=
  let s := s.pixSettle p e
  if (Tbl.get none (s.ped p).pixRun e).isSome then (none, s)
  else
    match s.pixPick p e with
    | some (.fresh c) =>
      if c.op ≠ op then (none, s)
      else
        let s0 := s
        let s := s.ringTake p c.ring
        let (_, k0, s) := s.readRun (Rec.base 0 1 0 (some p) none) (ringAddr p (s.ring p c.ring) c.idx) 64
        let (x, k1, s) := s.ctxRead p c.stream
        let s := State.pixNote s0 p e (firstCode [k0, k1]) s
        let wrong := ctxClass x != c.ring % 4 || ctxPeng x != e
        let k2 := if op = 1 then (if ctxValid x ∧ wrong then cBadDescriptor else cDone)
          else if !ctxValid x || wrong then cBadDescriptor else cDone
        (some (c, x, firstCode [k0, k1, k2]), s)
    | _ => (none, s)

/-- CTXSET: set a stream's context record (R446, R447). `n`: the niche that translates ARG while the stream's record is not
valid. -/
def execCtxset (g : EngId) (n : Fin 32) (s : State) : Host.Outcome State Fault Refusal :=
  let p := g.p.val
  let e := g.e.val
  match s.pixTake p e 1 with
  | (none, s) => .next s
  | (some (c, x, k), s) =>
    if k ≠ cDone then .next (s.pixEnd p e c k)
    else if s.streamBusy p c.stream then .next (s.pixEnd p e c cBusy)
    else
      let niche := if ctxValid x then ctxNiche x else n.val
      let s0 := s
      let (b, k, s) := s.fetchDva p niche c.arg 512
      let s := State.pixNote s0 p e k s
      let y := recordOf b
      let wrong := !ctxValid x && (ctxClass y != c.ring % 4 || ctxPeng y != e)
      if k ≠ cDone then .next (s.pixEnd p e c k)
      else if wrong || !ctxOk p y then .next (s.pixEnd p e c cBadDescriptor)
      else if ctxValid y && (s.badWithPlinth p (hPix (ctxPeng y)) || s.bad p (hEnt (ctxEeng y))) then .next (s.pixEnd p e c cUnsupported)
      else
        let s := s.ctxWrite p c.stream y
        let s := s.updPed p (fun d => { d with lqIdx := Tbl.set 0 c.stream 0 d.lqIdx })
        .next (s.pixEnd p e c cDone)

/-- CTXGET: copy a stream's context record to ARG. -/
def execCtxget (g : EngId) (s : State) : Host.Outcome State Fault Refusal :=
  let p := g.p.val
  let e := g.e.val
  match s.pixTake p e 5 with
  | (none, s) => .next s
  | (some (c, x, k), s) =>
    if k ≠ cDone then .next (s.pixEnd p e c k)
    else
      let s0 := s
      let (k, s) := s.storeDva p (ctxNiche x) c.arg (x.bytes 0 512)
      .next ((State.pixNote s0 p e k s).pixEnd p e c k)

/-! ## Starting a frame command -/

/-- Is every block of an ENCFRAME's frame intra (R470)? -/
def allIntraEnc (c fr : Memory) : Bool := frFintra fr || (rangeFrom 0 (ctxCols c)).all (inBand c (rcBand c))

/-- The records of a region list. -/
def roisOf (bs : List Byte) (n : Nat) : List (Nat × Nat × Nat × Nat × Int) :=
  (rangeFrom 0 n).map (fun i =>
    let f := fun o k => leNat ((bs.drop (16 * i + o)).take k)
    (f 0 2, f 2 2, f 4 2, f 6 2, sext 8 (f 8 1)))

/-- Number of the frame buffer that a frame command names: RECON writes CURBUF, the others read the buffer of slot RSEL. -/
def bufIdx (op : Nat) (c fr : Memory) : Nat := if op = 4 then ctxCurbuf c else slotBuf c (frRsel fr)

/-- Everything but frame buffers that a frame command uses, by opcode (R456). -/
def frameNeeds (op : Nat) (c fr : Memory) : List Need :=
  let bl : Need := ⟨ctxBuflist c, 8 * max (ctxNbuf c) (bufIdx op c fr + 1), false⟩
  match op with
  | 2 => [bl, ⟨frSrc fr, ctxPlanes c, false⟩, ⟨frGvf fr, if frGvalid fr then ctxMfBytes c else 0, false⟩,
      ⟨frRoi fr, 16 * frNroi fr, false⟩, ⟨frMf fr, ctxMfBytes c, true⟩, ⟨frPred fr, ctxPlanes c, true⟩,
      ⟨ctxQmap c, ctxCols c * ctxRows c, true⟩]
  | 3 => [bl, ⟨frMf fr, ctxMfBytes c, false⟩, ⟨frMf fr, if frFcarry fr < ctxRows c then ctxMfBytes c else 0, true⟩,
      ⟨frPred fr, ctxPlanes c, true⟩]
  | _ => [bl, ⟨frPred fr, ctxPlanes c, false⟩, ⟨frRes fr, ctxPlanes c * 2 / ctxS c, false⟩,
      ⟨frMf fr, ctxMfBytes c, false⟩, ⟨ctxRcmirror c, 64, true⟩]

/-- Motion-field cell word at a luma position. -/
def State.cellAt (s : State) (m : List PageMap) (mf : Nat) (c : Memory) (x y : Nat) : Option Mv :=
  mvOfWord (s.dvaLe m (mf + 4 * (y / 8 * cellsW c + x / 8)) 4)

/-- The vector that DECFRAME takes for a block (R467). -/
def State.decVec (s : State) (m : List PageMap) (c fr : Memory) (bx y : Nat) : Option Mv :=
  if frFintra fr ∨ inBand c (frBand fr) bx then none else s.cellAt m (frMf fr) c (bx * ctxB c) (y * ctxB c)

/-- Is every block of a DECFRAME's frame intra? -/
def State.allIntraDec (s : State) (m : List PageMap) (c fr : Memory) : Bool :=
  frFintra fr || (decide (ctxRows c ≤ frFcarry fr) && (rangeFrom 0 (ctxRows c)).all (fun y =>
    (rangeFrom 0 (ctxCols c)).all (fun bx => (s.decVec m c fr bx y).isNone)))

/-- May a frame command read the buffer of slot RSEL? ENCFRAME may, unless its frame is FORCE_INTRA: a block outside the band
predicts from it, and a carry row inherits from it (R487). -/
def State.readsRef (s : State) (op : Nat) (m : List PageMap) (c fr : Memory) : Bool :=
  if op = 2 then !frFintra fr else op == 3 && !s.allIntraDec m c fr

/-- Does a frame command fail BAD_DESCRIPTOR, were its addresses sound (R458, R470, R473)? -/
def State.frameBad (s : State) (op : Nat) (m : List PageMap) (c fr : Memory) : Bool :=
  match op with
  | 2 => decide (64 < frNroi fr) || (slotMark c (frRsel fr) == 0 && !allIntraEnc c fr)
  | 3 => slotMark c (frRsel fr) == 0 && !s.allIntraDec m c fr
  | _ => (refList fr c).isNone

/-- The context with which a frame command runs: CURBUF set (R470), and in a FORCE_INTRA frame the new CYCLE (R477). -/
def startCtx (op : Nat) (c fr : Memory) : Memory :=
  if op = 4 then c
  else
    let c := setField c 0x180 4 (freeBuf c)
    if frFintra fr then setField c 0x58 4 (rcCycle c + 1) else c

/-- The start of a frame command: every DVA that it uses is translated, BUFLIST and the region list are read, and the first
failure in the order of Table 10.7 stands (R456); else the command ready to run. A frame whose RSEL slot is unused because all
its blocks are intra still inherits, in its carry rows, from the buffer that the slot's BUF names (DESIGN CHOICE, log 109). -/
def State.pixBegin (p : Nat) (cmd : RingCmd) (c : Memory) (s : State) : Nat × Option PixCmd × State :=
  let niche := ctxNiche c
  let (b, k, s) := s.fetchDva p niche cmd.arg 128
  if k ≠ cDone then (k, none, s)
  else
    let fr := recordOf b
    let (k0, m, s) := s.needs p niche (frameNeeds cmd.op c fr)
    let bad := if (cmd.op ≠ 3 ∨ k0.isNone) ∧ s.frameBad cmd.op m c fr then [cBadDescriptor] else []
    let (lb, k1, s) := s.dvaRead p m niche (ctxBuflist c + 8 * bufIdx cmd.op c fr) 8
    let buf := leNat lb
    let (k2, m', s) := if k1 = cDone ∧ lb.length = 8 ∧ (cmd.op = 4 ∨ s.readsRef cmd.op m c fr) then
        s.needs p niche [⟨buf, ctxPlanes c + ctxMfBytes c, cmd.op == 4⟩] else (none, [], s)
    match tableOrder (bad ++ k0.toList ++ k2.toList) with
    | some k => (k, none, s)
    | none =>
      let (rb, k3, s) := if cmd.op = 2 then s.dvaRead p m niche (frRoi fr) (16 * frNroi fr) else ([], cDone, s)
      let k := firstCode [k1, k3]
      if k ≠ cDone then (k, none, s)
      else (cDone, some ⟨cmd, startCtx cmd.op c fr, fr, m ++ m', buf, [], 0, roisOf rb (if cmd.op = 2 then frNroi fr else 0)⟩, s)

/-! ## Rows -/

/-- Read runs of bytes through the detectors; the first failure. -/
def State.runsRead (p : Nat) (m : List PageMap) (niche : Nat) (runs : List (Nat × Nat)) (s : State) : Nat × State :=
  runs.foldl (fun acc r =>
    if acc.1 ≠ cDone then acc
    else
      let (_, k, s) := acc.2.dvaRead p m niche r.1 r.2
      (k, s)) (cDone, s)

/-- The injection of reference reads (R468, Table 11.13): a code. -/
def State.refInject (p e niche : Nat) (s : State) : Nat × State :=
  let off := pixBlock p + e * 0x1000 + 8
  let r := { Rec.base 0x0F 1 cUncorrectable (some p) (some niche) with unit := e }
  match s.arm off 0 with
  | 0 => (cDone, s)
  | 1 => (cDone, ((s.disarm off 0).errCE { r with sev := 0 }).pixFlag p e 1)
  | _ => (cUncorrectable, (s.disarm off 0).errUE r)

/-- Read samples that a cost or a prediction of the reference uses. -/
def State.refRead (p e : Nat) (m : List PageMap) (niche : Nat) (runs : List (Nat × Nat)) (s : State) : Nat × State :=
  if runs.isEmpty then (cDone, s)
  else
    let (k, s) := s.refInject p e niche
    if k ≠ cDone then (k, s) else s.runsRead p m niche runs.eraseDups

/-- Read ahead (R468): reference samples that the engine's own schedule takes, beyond those of the block being searched. An
uncorrectable error met here alone sets PREFETCH and makes a record of severity 2, and the command continues. -/
def State.prefetch (p e : Nat) (m : List PageMap) (niche : Nat) (runs : List (Nat × Nat)) (s : State) : State :=
  let found := fun (s : State) (f : Found) => match f with
    | .ce r => (s.report (.ce r)).pixFlag p e 1
    | .ue r => (s.errUE { r with sev := 2, code := 0 }).pixFlag p e 8
    | .poison r => (s.record { r with sev := 2, code := 0 } 1).pixFlag p e 4
  (runs.flatMap (fun r => pagePieces (2 ^ 16) (r.2 + 1) r.1 r.2)).foldl (fun s pc =>
    match mapDva m pc.1 with
    | none => s
    | some a => (segPieces (pc.2 + 1) a pc.2).foldl (fun s q =>
        let rc := Rec.base 0 2 0 (some p) (some niche)
        let x := s.injFind (pixBlock p + e * 0x1000 + 8) 0 { rc with det := 0x0F, unit := e }
        let y := x.2.2.segFind rc q.1 q.2
        ((x.2.1 ++ y.2.1).foldl found y.2.2).evP p 0x06 1) s) s

/-- The reference samples read ahead of a block: luma blocks of the picture, which the implementation chooses. -/
def prefetchRuns (c : Memory) (ref bx y : Nat) : List (Nat × Nat) :=
  (Config.prefetch (rcFrame c) bx y).flatMap (fun q =>
    if q.1 < ctxCols c ∧ q.2 < ctxRows c then blkRuns c ref 0 (blkOf c q.1 q.2) else [])

/-- Read a motion-field or game-field cell through the detectors; the code. -/
def State.cellRead (p : Nat) (m : List PageMap) (mf niche : Nat) (c : Memory) (x y : Nat) (s : State) : Nat × State :=
  s.runsRead p m niche [(mf + 4 * (y / 8 * cellsW c + x / 8), 4)]

/-- Write the prediction of a block to PRED (R464 to R466). -/
def State.writePred (p : Nat) (m : List PageMap) (c : Memory) (dst ref : Nat) (b : Blk) (v : Option Mv) (s : State) : State :=
  (rangeFrom 0 3).foldl (fun s pl =>
    let d := if pl = 0 then 1 else 2
    (rangeFrom (b.y / d) (b.h / d)).foldl (fun s y =>
      let row := (rangeFrom (b.x / d) (b.w / d)).flatMap (fun x =>
        leBytes (predSample (fun pl => s.plane m c ref pl) c pl x y v).toNat (ctxS c))
      s.dvaWrite p m (sampleDva c dst pl (b.x / d) y) row) s) s

/-- Runs of the reference that the prediction of a block uses. -/
def usedRuns (c : Memory) (ref : Nat) (b : Blk) (v : Option Mv) : List (Nat × Nat) :=
  match v with
  | none => []
  | some v => (rangeFrom 0 3).flatMap (fun pl => predRuns c ref pl b v)

/-- The candidates of a block (Table 11.4a). -/
def State.candidates (s : State) (k : PixCmd) (ref top bx y : Nat) : List (Option Mv) :=
  let c := k.ctx
  let ce := centreOf c bx y
  let at_ := fun (dx dy : Int) => mvAt k.mvs (ctxCols c) top ((bx : Int) + dx) ((y : Int) + dy)
  [if frGvalid k.fr then s.cellAt k.maps (frGvf k.fr) c ce.1 ce.2 else none,
   s.cellAt k.maps (ref + ctxPlanes c) c ce.1 ce.2, at_ (-1) 0, at_ 0 (-1), at_ 1 (-1), at_ (-1) (-1),
   if frGmvv k.fr then some (sext 16 (frGmv k.fr % 65536), sext 16 (frGmv k.fr / 65536)) else none, some (0, 0)]

/-- NSUB of a stream. -/
def State.nsub (s : State) (p stream : Nat) : Nat := max 1 (s.srecOf p stream |>.le 0x0A 1)

/-- One block of ENCFRAME: search, motion field, prediction. -/
def State.encBlock (p e : Nat) (k : PixCmd) (bx : Nat) (s : State) : Nat × PixCmd × State :=
  let c := k.ctx
  let y := k.row
  let b := blkOf c bx y
  let ref := k.buf
  let niche := ctxNiche c
  let top := subTop (ctxRows c) (s.nsub p k.cmd.stream) y
  let src := s.plane k.maps c (frSrc k.fr) 0
  let rl := s.plane k.maps c ref 0
  let pred := mvPred k.mvs (ctxCols c) top bx y
  let ok := mvLegal c b (cleanExt c (frRsel k.fr) b)
  let intra := frFintra k.fr || inBand c (rcBand c) bx
  let r : Option Mv × List Mv := if intra then (none, [])
    else searchBlock ok (mvCost src rl c b pred) (s.candidates k ref top bx y)
  let s := if intra then s else s.prefetch p e k.maps niche (prefetchRuns c ref bx y)
  let ce := centreOf c bx y
  let (e0, s) := if intra then (cDone, s) else s.runsRead p k.maps niche (blkRuns c (frSrc k.fr) 0 b)
  let (e1, s) := if !intra && frGvalid k.fr then s.cellRead p k.maps (frGvf k.fr) niche c ce.1 ce.2 else (cDone, s)
  let (e2, s) := if intra then (cDone, s) else s.cellRead p k.maps (ref + ctxPlanes c) niche c ce.1 ce.2
  let (e3, s) := s.refRead p e k.maps niche (r.2.flatMap (predRuns c ref 0 b) ++ usedRuns c ref b r.1)
  let code := firstCode [e0, e1, e2, e3]
  if code ≠ cDone then (code, k, s)
  else
    let s := s.writeCells p k.maps (frMf k.fr) c bx y r.1
    (cDone, { k with mvs := k.mvs ++ [r.1] }, s.writePred p k.maps c (frPred k.fr) ref b r.1)

/-- The vector that a carry block inherits (R487); none in a FORCE_INTRA frame (R479). -/
def State.inherited (s : State) (m : List PageMap) (c fr : Memory) (ref bx y : Nat) : Option Mv :=
  if frFintra fr then none
  else
    let ce := centreOf c bx y
    some ((s.cellAt m (ref + ctxPlanes c) c ce.1 ce.2).getD (0, 0))

/-- One block of DECFRAME (R467, R487). -/
def State.decBlock (p e : Nat) (k : PixCmd) (bx : Nat) (s : State) : Nat × PixCmd × State :=
  let c := k.ctx
  let y := k.row
  let b := blkOf c bx y
  let ref := k.buf
  let niche := ctxNiche c
  let carry := decide (frFcarry k.fr ≤ y)
  let ce := centreOf c bx y
  let v := if carry then s.inherited k.maps c k.fr ref bx y else s.decVec k.maps c k.fr bx y
  let (e0, s) := if frFintra k.fr || (!carry && inBand c (frBand k.fr) bx) then (cDone, s)
    else if carry then s.cellRead p k.maps (ref + ctxPlanes c) niche c ce.1 ce.2
    else s.cellRead p k.maps (frMf k.fr) niche c (bx * ctxB c) (y * ctxB c)
  let (e1, s) := s.refRead p e k.maps niche (usedRuns c ref b v)
  let code := firstCode [e0, e1]
  if code ≠ cDone then (code, k, s)
  else
    let s := if carry then s.writeCells p k.maps (frMf k.fr) c bx y v else s
    (cDone, k, s.writePred p k.maps c (frPred k.fr) ref b v)

/-- One block of RECON (R471). -/
def State.reconBlock (p : Nat) (k : PixCmd) (bx : Nat) (s : State) : Nat × PixCmd × State :=
  let c := k.ctx
  let b := blkOf c bx k.row
  let buf := k.buf
  let kx := 2 / ctxS c
  let res := fun pl x y => frRes k.fr + planeOff c pl kx + y * planeStride c pl kx + 2 * x
  let runs := (rangeFrom 0 3).flatMap (fun pl =>
    let d := if pl = 0 then 1 else 2
    blkRuns c (frPred k.fr) pl b ++ (rangeFrom (b.y / d) (b.h / d)).map (fun y => (res pl (b.x / d) y, b.w / d * 2)))
  let (code, s) := s.runsRead p k.maps (ctxNiche c) runs
  if code ≠ cDone then (code, k, s)
  else (cDone, k, (rangeFrom 0 3).foldl (fun s pl =>
    let d := if pl = 0 then 1 else 2
    (rangeFrom (b.y / d) (b.h / d)).foldl (fun s (y : Nat) =>
      let row := (rangeFrom (b.x / d) (b.w / d)).flatMap (fun (x : Nat) =>
        let v : Int := s.plane k.maps c (frPred k.fr) pl x y + ((s.dvaLe k.maps (res pl x y) 2 : Int) - 32768)
        leBytes (clampI v 0 (maxCode c)).toNat (ctxS c))
      s.dvaWrite p k.maps (sampleDva c buf pl (b.x / d) y) row) s) s)

/-- The blocks of a row, until one fails. -/
def State.pixBlocks (f : PixCmd → Nat → State → Nat × PixCmd × State) (k : PixCmd) : List Nat → State → Nat × PixCmd × State
  | [], s => (cDone, { k with row := k.row + 1 }, s)
  | bx :: rest, s =>
    match f k bx s with
    | (code, k', s') => if code = cDone then State.pixBlocks f k' rest s' else (code, k', s')

/-- One block row of a frame command. -/
def State.pixRow (p e : Nat) (k : PixCmd) (s : State) : Nat × PixCmd × State :=
  let cols := rangeFrom 0 (ctxCols k.ctx)
  match k.cmd.op with
  | 2 => State.pixBlocks (fun k bx s => s.encBlock p e k bx) k cols s
  | 3 => State.pixBlocks (fun k bx s => s.decBlock p e k bx) k cols s
  | _ => State.pixBlocks (fun k bx s => s.reconBlock p k bx) k cols s

/-! ## The rate controller's quality map (R481, R482) -/

/-- Write row `r` of the quality map and signal RCCTR. -/
def State.qmapRow (p : Nat) (k : PixCmd) (q : Int) (r : Nat) (s : State) : State :=
  let s := s.dvaWrite p k.maps (ctxQmap k.ctx + r * ctxCols k.ctx) (mapRow k.ctx k.rois k.mvs q r)
  s.signalNow (ctxRcctr k.ctx) 1

/-- enc_init (R497). -/
def Enc.init : Enc := ⟨0, 0xFFFFFFFF, none, 0, 0, []⟩

/-- ENCFRAME hands its frame to the rate controller: the substreams start, and the first LAG rows of the quality map are
decided (R485, R506, R510). -/
def State.handOff (p e : Nat) (k : PixCmd) (s : State) : State :=
  let x := s.srecOf p k.cmd.stream
  let rows := ctxRows k.ctx
  let setB := bitAt (x.le 0 4) 2
  let f : EncFrame :=
    { pix := k, peng := e, eeng := ctxEeng k.ctx, srec := x,
      subs := (rangeFrom 0 (min (max 1 (x.le 0x0A 1)) rows)).map (fun _ => Enc.init),
      slot := x.le (if setB then 0x09 else 0x08) 1, epoch := x.le (if setB then 0x06 else 0x04) 2, row := 0, lens := [],
      carry := none, mapped := min (ctxLag k.ctx) rows }
  let s := s.updPed p (fun d => { d with frames := d.frames ++ [f], pixRun := Tbl.set none e none d.pixRun })
  ((rangeFrom 0 f.mapped).foldl (fun s r => s.qmapRow p k (rcQbase k.ctx) r) s).pixSettle p e

/-- RECON ends (R471 to R474, R477). -/
def State.reconEnd (p e : Nat) (k : PixCmd) (s : State) : State :=
  let c := k.ctx
  let buf := k.buf
  let s0 := s
  let (_, code, s) := s.dvaRead p k.maps (ctxNiche c) (frMf k.fr) (ctxMfBytes c)
  let s := State.pixNote s0 p e code s
  if code ≠ cDone then s.pixEnd p e k.cmd code
  else
    let s := s.dvaWrite p k.maps (buf + ctxPlanes c) ((rangeFrom (frMf k.fr) (ctxMfBytes c)).map (s.dvaByte k.maps))
    let c := applyRefs k.fr (frameClean k.fr c) c
    let c := refreshNext k.fr c
    let c := setField c 0x54 4 (rcFrame c + 1)
    let s := s.dvaWrite p k.maps (ctxRcmirror c) (c.bytes 0x40 64)
    (s.ctxWrite p k.cmd.stream c).pixEnd p e k.cmd (lostCode s0 s cDone)

/-- A frame command whose rows are done. -/
def State.pixFinish (p e : Nat) (k : PixCmd) (s : State) : State :=
  match k.cmd.op with
  | 2 => s.handOff p e k
  | 3 => (s.ctxWrite p k.cmd.stream (setField k.ctx 0x188 2 (frFcarry k.fr))).pixEnd p e k.cmd cDone
  | _ => s.reconEnd p e k

/-- Does a ring above the running command's have a command to take (R455)? -/
def State.pixHigher (s : State) (p e : Nat) (k : PixCmd) : Bool :=
  (rangeFrom 0 (k.cmd.ring % 4)).any (fun c => (s.pixOffer p e (ringKey 0 e c)).isSome)

/-- Run up to `n` block rows; a row boundary with a command waiting on a higher ring stops the run. -/
def State.pixRows (p e : Nat) (k : PixCmd) : Nat → State → State
  | 0, s => s.updPed p (fun x => { x with pixRun := Tbl.set none e (some k) x.pixRun })
  | n + 1, s =>
    let s0 := s
    match s.pixRow p e k with
    | (code, k', s) =>
      let code := lostCode s0 s code
      let s := State.pixNote s0 p e code s
      if code ≠ cDone then s.pixEnd p e k.cmd code
      else if ctxRows k'.ctx ≤ k'.row then s.pixFinish p e k'
      else if s.pixHigher p e k' then s.updPed p (fun x => { x with pixRun := Tbl.set none e (some k') x.pixRun })
      else State.pixRows p e k' n s

/-- Begin, resume or continue a frame command and run up to `rows` block rows. -/
def State.pixFrame (p e op rows : Nat) (s : State) : State :=
  let s := s.pixSettle p e
  match Tbl.get none (s.ped p).pixRun e with
  | some k => if k.cmd.op = op ∧ ¬ s.pixHigher p e k then s.pixRows p e k rows else s
  | none =>
    match s.pixPick p e with
    | some (.saved k) =>
      if k.cmd.op = op then
        (s.updPed p (fun x => { x with pixSaved := x.pixSaved.filter (fun y => y.2.cmd ≠ k.cmd) })).pixRows p e k rows
      else s
    | _ =>
      match s.pixTake p e op with
      | (none, s) => s
      | (some (c, x, code), s) =>
        if code ≠ cDone then s.pixEnd p e c code
        else
          let s0 := s
          match s.pixBegin p c x with
          | (code, none, s) => (State.pixNote s0 p e code s).pixEnd p e c code
          | (_, some k, s) => (State.pixNote s0 p e cDone s).pixRows p e k rows

/-- ENCFRAME: motion-search a frame, up to `rows` block rows of it, and hand it to rate control (R459 to R468). -/
def execEncframe (g : EngId) (rows : Nat) (s : State) : Host.Outcome State Fault Refusal :=
  .next (s.pixFrame g.p.val g.e.val 2 rows)

/-- DECFRAME: form a decoder's prediction picture (R467). -/
def execDecframe (g : EngId) (rows : Nat) (s : State) : Host.Outcome State Fault Refusal :=
  .next (s.pixFrame g.p.val g.e.val 3 rows)

/-- RECON: reconstruct a frame and update references and refresh state (R471 to R474). -/
def execRecon (g : EngId) (rows : Nat) (s : State) : Host.Outcome State Fault Refusal :=
  .next (s.pixFrame g.p.val g.e.val 4 rows)

/-- PIX_ROW_BOUNDARY: a command on a higher ring pre-empts the running one, whose NEXTROW is saved (R455). -/
def execPixRowBoundary (g : EngId) (s : State) : Host.Outcome State Fault Refusal :=
  let p := g.p.val
  let e := g.e.val
  match Tbl.get none (s.ped p).pixRun e with
  | some k =>
    if s.pixHigher p e k then
      let s := s.mpaStore (ctxAddr s p k.cmd.stream + 0x184) (leBytes k.row 4)
      let k := { k with ctx := setField k.ctx 0x184 4 k.row }
      .next (s.updPed p (fun x => { x with pixRun := Tbl.set none e none x.pixRun, pixSaved := x.pixSaved ++ [(e, k)] }))
    else .next s
  | none => .next s

/-- PIX_RTAIL write (R496). -/
def execPixRtailWrite (g : EngId) (c : Fin 4) (v : BitVec 16) (s : State) : Host.Outcome State Fault Refusal :=
  s.engReg g.p.val 0 g.e.val (fun s => (s.ringTail g.p.val (ringKey 0 g.e.val c.val) v).pixSettle g.p.val g.e.val)

/-- PIX_RCMD RESUME (R457). -/
def execPixResume (g : EngId) (c : Fin 4) (s : State) : Host.Outcome State Fault Refusal :=
  s.engReg g.p.val 0 g.e.val (State.ringResume g.p.val (ringKey 0 g.e.val c.val))

/-- Every pending command of a ring completes with a code, the running one, a saved one and those that rate control holds
among them. -/
def State.pixDrop (p e c code : Nat) (s : State) : State :=
  let key := ringKey 0 e c
  let s := s.updPed p (fun x => { x with
    pixRun := (match Tbl.get none x.pixRun e with
      | some k => if k.cmd.ring = key then Tbl.set none e none x.pixRun else x.pixRun
      | none => x.pixRun),
    pixSaved := x.pixSaved.filter (fun y => y.2.cmd.ring ≠ key),
    units := x.units.filter (fun u => !(u.for_ == .frame &&
      x.frames.any (fun f => f.pix.cmd.stream == u.stream && f.pix.cmd.ring == key))),
    frames := x.frames.filter (fun f => f.pix.cmd.ring ≠ key) })
  s.ringCancel p key [] code

/-- PIX_RCMD CANCEL (R457). -/
def execPixCancel (g : EngId) (c : Fin 4) (s : State) : Host.Outcome State Fault Refusal :=
  s.engReg g.p.val 0 g.e.val (fun s => (s.pixDrop g.p.val g.e.val c.val cCancelled).pixSettle g.p.val g.e.val)

end Sys2Proof.Machine
end

