-- ==== Sys2Proof/Machine/Coder.lean ====
section
/-! DEFINITION. The range coder, tables, values and bypass codes (R497 to R504), and CRC-framed units (R521). -/
namespace Sys2Proof.Machine
open Sys2Proof

/-! ## Encoder (R497, R498) -/

def Enc.emit (b : Nat) (x : Enc) : Enc := { x with out := BitVec.ofNat 8 b :: x.out }

def Enc.emitN (b : Nat) : Nat → Enc → Enc
  | 0, x => x
  | n + 1, x => Enc.emitN b n (x.emit b)

/-- shift_low. -/
def Enc.shiftLow (x : Enc) : Enc :=
  let y : Enc :=
    if x.low < 0xFF000000 ∨ 2 ^ 32 ≤ x.low then
      let c := x.low / 2 ^ 32
      let y := match x.cache with
        | some k => x.emit ((k + c) % 256)
        | none => x
      let y := Enc.emitN ((0xFF + c) % 256) x.npend y
      { y with npend := 0, cache := some (x.low / 2 ^ 24 % 256) }
    else { x with npend := x.npend + 1 }
  { y with low := x.low * 256 % 2 ^ 32, nshift := x.nshift + 1 }

/-- renorm: at most four steps bring any range of at least 1 to 2^24. -/
def Enc.renorm : Nat → Enc → Enc
  | 0, x => x
  | n + 1, x => if x.range < 2 ^ 24 then Enc.renorm n (Enc.shiftLow { x with range := x.range * 256 }) else x

/-- enc_sym: cumulative frequencies `lo` and `hi` of the symbol. -/
def Enc.sym (lo hi : Nat) (x : Enc) : Enc :=
  let r := x.range / 2 ^ 15
  Enc.renorm 4 { x with low := x.low + r * lo, range := r * (hi - lo) }

/-- enc_bit. -/
def Enc.bit (b : Bool) (x : Enc) : Enc :=
  let r := x.range / 2
  Enc.renorm 4 { x with range := r, low := if b then x.low + r else x.low }

/-- Bits of `v`, most significant of `n` first. -/
def Enc.bits (v : Nat) : Nat → Enc → Enc
  | 0, x => x
  | n + 1, x => Enc.bits v n (x.bit (bitAt v n))

/-- enc_flush: the substream's bytes. -/
def Enc.flush (x : Enc) : List Byte := ((x.shiftLow.shiftLow.shiftLow.shiftLow.shiftLow).out).reverse

/-- R498. -/
def Enc.committed (x : Enc) : Nat := 4 + x.nshift

/-- R503. -/
def Enc.golomb (u : Nat) (x : Enc) : Enc :=
  let k := Nat.log2 (u + 1)
  Enc.bits (u + 1) (k + 1) (Enc.bits 0 k x)

/-! ## Decoder (R497) -/

/-- Renormalise; none: FORMAT_ERROR. -/
def Dec.renorm : Nat → Dec → Option Dec
  | 0, x => some x
  | n + 1, x =>
    if x.range < 2 ^ 24 then
      match x.rest with
      | [] => none
      | b :: bs => Dec.renorm n ⟨(x.code * 256 + b.toNat) % 2 ^ 32, x.range * 256, bs⟩
    else some x

/-- dec_init. -/
def Dec.init (bs : List Byte) : Option Dec :=
  if bs.length < 4 then none else some ⟨beNat (bs.take 4), 0xFFFFFFFF, bs.drop 4⟩

/-- The symbol whose interval holds `v`, and the interval. -/
def findSym (v : Nat) : List Nat → Nat → Option (Nat × Nat × Nat)
  | a :: b :: cs, i => if a ≤ v ∧ v < b then some (i, a, b) else findSym v (b :: cs) (i + 1)
  | _, _ => none

/-- dec_sym over cumulative frequencies. -/
def Dec.sym (c : List Nat) (x : Dec) : Option (Nat × Dec) :=
  let r := x.range / 2 ^ 15
  let v := x.code / r
  if 32768 ≤ v then none
  else (findSym v c 0).bind (fun s =>
    (Dec.renorm 4 ⟨x.code - r * s.2.1, r * (s.2.2 - s.2.1), x.rest⟩).map (fun d => (s.1, d)))

/-- dec_bit. -/
def Dec.bit (x : Dec) : Option (Bool × Dec) :=
  let r := x.range / 2
  if 2 * r ≤ x.code then none
  else
    let b := decide (r ≤ x.code)
    (Dec.renorm 4 ⟨if b then x.code - r else x.code, r, x.rest⟩).map (fun d => (b, d))

def Dec.bits : Nat → Nat → Dec → Option (Nat × Dec)
  | 0, v, x => some (v, x)
  | n + 1, v, x => x.bit.bind (fun r => Dec.bits n (2 * v + (if r.1 then 1 else 0)) r.2)

/-- Leading zeros of an Exp-Golomb code; more than 17 fail (R504). -/
def Dec.zeros : Nat → Nat → Dec → Option (Nat × Dec)
  | 0, _, _ => none
  | fuel + 1, k, x => x.bit.bind (fun r => if r.1 then some (k, r.2) else Dec.zeros fuel (k + 1) r.2)

/-- R503 read back. -/
def Dec.golomb (x : Dec) : Option (Nat × Dec) :=
  (Dec.zeros 18 0 x).bind (fun z => (Dec.bits z.1 1 z.2).map (fun r => (r.1 - 1, r.2)))

/-- The signed difference that an Exp-Golomb code stands for. -/
def unmapSigned (u : Nat) : Int := if u % 2 = 1 then ((u + 1) / 2 : Nat) else -((u / 2 : Nat) : Int)

/-! ## Tables (R500, R501) -/

structure Table where
  n : Nat
  esc : Bool
  off : Int
  c : List Nat
  deriving DecidableEq, Repr

def rising : List Nat → Bool
  | a :: b :: cs => decide (a < b) && rising (b :: cs)
  | _ => true

/-- A valid record's table. -/
def tableOf (bs : List Byte) : Option Table :=
  let f := fun o k => leNat ((bs.drop o).take k)
  let n := f 0 1 + 1
  let c := (rangeFrom 0 (n + 1)).map (fun k => f (4 + 2 * k) 2)
  if n < 2 ∨ 2 ≤ f 1 1 ∨ f 0x206 2 ≠ 0 ∨ c.head? ≠ some 0 ∨ c.getLast? ≠ some 32768 ∨ !rising c then none
  else some ⟨n, bitAt (f 1 1) 0, sext 16 (f 2 2), c⟩

/-- Largest value with a symbol of its own. -/
def Table.top (t : Table) : Int := t.off + t.n - (if t.esc then 2 else 1)

/-- Code a symbol. -/
def Table.put (t : Table) (s : Nat) (x : Enc) : Enc := x.sym ((t.c[s]?).getD 0) ((t.c[s + 1]?).getD 0)

/-- R502: the coder after a value, and the symbols and codes coded; none: FORMAT_ERROR. -/
def Table.code (t : Table) (v : Int) (x : Enc) : Option (Enc × Nat) :=
  if t.off ≤ v ∧ v ≤ t.top then some (t.put (v - t.off).toNat x, 1)
  else if t.esc then
    let u := if t.top < v then 2 * (v - t.off - t.n + 1) else 2 * (t.off - v) - 1
    some ((t.put (t.n - 1) x).golomb u.toNat, 2)
  else none

/-- R504: a value read back, with the symbols and codes read for it, whether or not it fails. -/
def Table.decode (t : Table) (x : Dec) : Option (Int × Dec) × Nat :=
  let ranged := fun (v : Int) (x : Dec) => if -32768 ≤ v ∧ v ≤ 32767 then some (v, x) else none
  match x.sym t.c with
  | none => (none, 0)
  | some r =>
    if t.esc ∧ r.1 = t.n - 1 then
      match r.2.golomb with
      | none => (none, 1)
      | some g =>
        (ranged (if g.1 % 2 = 0 then t.off + t.n - 1 + ((g.1 / 2 : Nat) : Int) else t.off - (((g.1 + 1) / 2 : Nat) : Int)) g.2, 2)
    else (ranged (t.off + r.1) r.2, 1)

/-! ## Units (R521) -/

def unitBytes (utype : Nat) (payload : List Byte) : List Byte :=
  [BitVec.ofNat 8 utype, 1, 0, 0] ++ beBytes payload.length 4 ++ beBytes (crc32 payload).toNat 4 ++ payload

/-- Motion elements of a row (R512): `band` tells the blocks without an element. -/
def encMotion (mvs : List (Option Mv)) (cols top y : Nat) (band : Nat → Bool) (x : Enc) : Enc × Nat :=
  (rangeFrom 0 cols).foldl (fun acc bx =>
    if band bx then acc
    else
      match (mvs[y * cols + bx]?).getD none with
      | none => (acc.1.bit true, acc.2)
      | some v =>
        let p := mvPred mvs cols top bx y
        ((((acc.1.bit false).golomb (mapSigned (v.1 - p.1))).golomb (mapSigned (v.2 - p.2))), acc.2 + 2)) (x, 0)

/-- One motion element read back, with the codes read for it. -/
def decBlockMv (cols top y bx : Nat) (mvs : List (Option Mv)) (x : Dec) : Option (Option Mv × Dec) × Nat :=
  match x.bit with
  | none => (none, 0)
  | some b =>
    if b.1 then (some (none, b.2), 0)
    else
      match b.2.golomb with
      | none => (none, 0)
      | some gx =>
        match gx.2.golomb with
        | none => (none, 1)
        | some gy =>
          let p := mvPred mvs cols top bx y
          let v : Mv := (p.1 + unmapSigned gx.1, p.2 + unmapSigned gy.1)
          (if v.1.natAbs ≤ 4096 ∧ v.2.natAbs ≤ 4096 then some (some v, gy.2) else none, 2)

/-- Motion elements of a row read back: all vectors and the decoder; and the codes read, `n` before them. -/
def decMotion (cols top y : Nat) (band : Nat → Bool) (skip : Bool) : List Nat → List (Option Mv) → Dec → Nat →
    Option (List (Option Mv) × Dec) × Nat
  | [], mvs, x, n => (some (mvs, x), n)
  | bx :: rest, mvs, x, n =>
    if skip || band bx then decMotion cols top y band skip rest (mvs ++ [none]) x n
    else
      match decBlockMv cols top y bx mvs x with
      | (none, k) => (none, n + k)
      | (some r, k) => decMotion cols top y band skip rest (mvs ++ [r.1]) r.2 (n + k)

end Sys2Proof.Machine
end

