-- ==== Sys2Proof/Machine/Entropy.lean ====
section
/-! DEFINITION. The entropy engines (chapter 12): static tables, rows and substreams, the latent and output queues, units,
rate control, and the engine's commands. -/
namespace Sys2Proof.Machine
open Sys2Proof

def entBlock (p : Nat) : Nat := pedBase p + 0x180000

/-! ## Stream records (Table 12.9) -/

def srValid (x : Memory) : Bool := bitAt (x.le 0 4) 0
def srDecode (x : Memory) : Bool := bitAt (x.le 0 4) 1
def srSetB (x : Memory) : Bool := bitAt (x.le 0 4) 2
def srNsub (x : Memory) : Nat := x.le 0x0A 1
def srAbudget (x : Memory) : Nat := x.le 0x0C 4
def srOutq (x : Memory) : Nat := x.le 0x10 8
def srOqk (x : Memory) : Nat := x.le 0x18 4 % 16
def srOqfree (x : Memory) : Nat := x.le 0x1C 4 % 2 ^ 15
def srOqdone (x : Memory) : Nat := x.le 0x20 4 % 2 ^ 15
def srApkt (x : Memory) : Nat := x.le 0x24 4
def srAlatq (x : Memory) : Nat := x.le 0x28 8
def srAlqk (x : Memory) : Nat := x.le 0x30 4 % 16
def srAlqfill (x : Memory) : Nat := x.le 0x34 4 % 2 ^ 15
def srAlqfree (x : Memory) : Nat := x.le 0x38 4 % 2 ^ 15
/-- Slot and epoch of set A or B. -/
def srSet (x : Memory) (b : Bool) : Nat × Nat := (x.le (if b then 0x09 else 0x08) 1, x.le (if b then 0x06 else 0x04) 2)

/-- R533. -/
def srecOk (p : Nat) (ctx x : Memory) : Bool :=
  decide (x.le 0 4 < 8) && decide (x.le 0x08 1 < 16) && decide (x.le 0x09 1 < 16) && between 1 64 (srNsub x) &&
  decide (srNsub x ≤ ctxRows ctx) && zeroBytes x 0x0B 0x0C && between 15 320 (srAbudget x) &&
  between 2 10 (x.le 0x18 4) && ctrField x p 0x1C && ctrField x p 0x20 && between 2 10 (x.le 0x30 4) &&
  ctrField x p 0x34 && ctrField x p 0x38 && zeroBytes x 0x3C 0x40 && zeroBytes x 0x58 0x80

/-! ## Shared operations -/

def State.entFlag (p e : Nat) (b : BitVec 5) (s : State) : State :=
  (s.updPed p (fun x => { x with entErr := Tbl.upd 0 e (· ||| b) x.entErr })).mark (pedBase p + 0x180004 + 0x1000 * e) b.toNat

/-- Note what the engine's reads met since `s0`, and how work ended (Table 12.14). -/
def State.entNote (s0 : State) (p e code : Nat) (s : State) : State :=
  let s := if corrected s0 s then s.entFlag p e 1 else s
  if code = cUncorrectable then s.entFlag p e 2
  else if code = cPoisonedInput then s.entFlag p e 4
  else if code = cFormatError then s.entFlag p e 16 else s

/-- An engine looks at a counter in step 3 of Table 06.4, after what reaches the counter in this cycle: the counter's ECC is
checked as a SWAIT's compare checks it (R241, R267, Table 06.23). -/
def State.ctrLook (id : Nat) (s : State) : State :=
  let s := s.closeAt id
  let off := sycBlock (id / 1024) + 0x4004
  let r := { Rec.base 0x08 0 0 (some (id / 1024)) (s.ctrNiche id) with synd := some (id % 1024) }
  match s.arm off (id % 1024) with
  | 0 => s
  | 1 => ((s.disarm off (id % 1024)).sycFlag (id / 1024) 2).errCE r
  | _ => (((s.disarm off (id % 1024)).sycFlag (id / 1024) 4).errUE { r with sev := 1, code := cUncorrectable }).updPed (id / 1024)
      (fun p => { p with ctrBad := Tbl.set false (id % 1024) true p.ctrBad })

/-- Step 3 of Table 06.4 for an engine: take 1 from a counter that holds at least 1. While a counter is marked with an
uncorrectable error the engine waits (DESIGN CHOICE, log 49). -/
def State.ctrTake (id : Nat) (s : State) : Option State :=
  let s := s.ctrLook id
  if (s.ctrVal id).toNat = 0 ∨ Tbl.get false (s.ped (id / 1024)).ctrBad (id % 1024) then none
  else some (s.ctrPut id (s.ctrVal id - 1))

def State.countSyms (p e n : Nat) (s : State) : State :=
  (s.updPed p (fun x => { x with entSym := Tbl.upd 0 e (· + BitVec.ofNat 64 n) x.entSym })).evP p 0x07 n

/-- What coding a row's elements carries along. -/
structure Coding where
  code : Nat
  /-- tables checked in this row, by TIX -/
  tabs : List (Nat × Table)
  syms : Nat
  st : State

/-- The tables of a row: the DVA and number of its records, and the unit's static slot. -/
structure TabSrc where
  p : Nat
  e : Nat
  niche : Nat
  tbl : Nat
  ntbl : Nat
  slot : Nat

/-- A lookup in the static store meets parity (R535). -/
def State.staticParity (t : TabSrc) (s : State) : Nat × State :=
  let off := entBlock t.p + t.e * 0x1000 + 8
  if s.arm off t.slot = 0 then (cDone, s)
  else (cUncorrectable, (((s.disarm off t.slot).entFlag t.p t.e 8).errUE
    { Rec.base 0x10 1 cUncorrectable (some t.p) (some t.niche) with unit := t.e, synd := some t.slot }))

/-- The table that a TIX names (R508), checked before its first use in the row (R501). -/
def Coding.table (t : TabSrc) (tix : Nat) (k : Coding) : Option Table × Coding :=
  let static := decide (0x8000 ≤ tix)
  let n := if static then Tbl.get 0 (k.st.ped t.p).etabN (16 * t.e + t.slot) else t.ntbl
  let i := tix % 0x8000
  if n ≤ i then (none, { k with code := cFormatError })
  else
    let (pc, s) := if static then k.st.staticParity t else (cDone, k.st)
    if pc ≠ cDone then (none, { k with code := pc, st := s })
    else
      match k.tabs.find? (fun x => x.1 == tix) with
      | some x => (some x.2, { k with st := s })
      | none =>
        let (bs, c, s) := if static then ((s.ped t.p).etab.bytes ((16 * t.e + t.slot) * 65536 + 520 * i) 520, cDone, s)
          else s.fetchDva t.p t.niche (t.tbl + 520 * i) 520
        if c ≠ cDone then (none, { k with code := c, st := s })
        else
          match tableOf bs with
          | none => (none, { k with code := cFormatError, st := s })
          | some x => (some x, { k with tabs := (tix, x) :: k.tabs, st := s })

/-- Code symbol elements, given as words (R517). -/
def encElements (t : TabSrc) (words : List Nat) (k : Coding) (x : Enc) : Coding × Enc :=
  words.foldl (fun acc w =>
    if acc.1.code ≠ cDone then acc
    else
      match acc.1.table t (w / 65536) with
      | (none, k) => (k, acc.2)
      | (some tb, k) =>
        match tb.code (sext 16 (w % 65536)) acc.2 with
        | none => ({ k with code := cFormatError }, acc.2)
        | some r => ({ k with syms := k.syms + r.2 }, r.1)) (k, x)

/-- Decode symbol elements whose TIX are given: the values. -/
def decElements (t : TabSrc) (tixs : List Nat) (k : Coding) (x : Dec) : Coding × Dec × List Int :=
  tixs.foldl (fun acc tix =>
    if acc.1.code ≠ cDone then acc
    else
      match acc.1.table t tix with
      | (none, k) => (k, acc.2)
      | (some tb, k) =>
        match tb.decode acc.2.1 with
        | (none, n) => ({ k with code := cFormatError, syms := k.syms + n }, acc.2)
        | (some r, n) => ({ k with syms := k.syms + n }, r.2, acc.2.2 ++ [r.1])) (k, x, [])

/-- The little-endian words of bytes. -/
def wordsOf (bs : List Byte) (n : Nat) : List Nat := (rangeFrom 0 n).map (fun i => leNat ((bs.drop (4 * i)).take 4))

/-! ## Latent-queue entries (R489, Table 12.5) -/

structure LqEntry where
  dva : Nat
  row : Nat
  nsym : Nat
  sym : Nat
  tbl : Nat
  nhyp : Nat
  ntbl : Nat
  tblrdy : Nat
  deriving DecidableEq, Repr

/-- Read an entry: it, or a failure. NHYP above NSYM or NTBL above 32,768 is a FORMAT_ERROR. -/
def State.lqRead (p niche a : Nat) (s : State) : Option LqEntry × Nat × State :=
  let (b, c, s) := s.fetchDva p niche a 64
  if c ≠ cDone then (none, c, s)
  else
    let f := fun o n => leNat ((b.drop o).take n)
    let e : LqEntry := ⟨a, f 0 2, f 4 4, f 8 8, f 16 8, f 24 4, f 28 4, f 32 4 % 2 ^ 15⟩
    if 32768 < e.ntbl ∨ e.nsym < e.nhyp then (none, cFormatError, s) else (some e, cDone, s)

/-! ## Encoding rows (R484 to R486, R491, R492, R511 to R514) -/

def EncFrame.ctx (f : EncFrame) : Memory := f.pix.ctx
def EncFrame.rows (f : EncFrame) : Nat := ctxRows f.pix.ctx
/-- R484. -/
def EncFrame.budget (f : EncFrame) : Nat :=
  let t := if frBudget f.pix.fr = 0 then rcTarget f.ctx else frBudget f.pix.fr
  max (rcBmin f.ctx) (t - rcDebt f.ctx)
/-- R485. -/
def EncFrame.qRow (f : EncFrame) (r : Nat) : Int :=
  let c := f.ctx
  if r < ctxLag c then rcQbase c
  else
    let j := r - ctxLag c
    let e : Int := (((f.lens[j]?).getD 0 : Nat) : Int) - ((f.budget * (j + 1) / f.rows : Nat) : Int)
    let rb := max 1 (f.budget / f.rows)
    let dq := clampI (rtaDiv (e * rcKq c) (16 * rb)) (-(rcDqmax c : Int)) (rcDqmax c)
    clampI ((rcQbase c : Int) - dq) (rcQmin c) (rcQmax c)

/-- Committed length of a frame. -/
def lenOf (subs : List Enc) : Nat := (subs.map Enc.committed).foldl (· + ·) 0

def EncFrame.sub (f : EncFrame) : Nat := subOf f.rows f.subs.length f.row
def EncFrame.top (f : EncFrame) : Nat := subTop f.rows f.subs.length f.row

/-- Put the substream of the row back, count the row, and decide the next quality-map row (R482). -/
def State.rowDone (p : Nat) (f : EncFrame) (x : Enc) (s : State) : EncFrame × State :=
  let f1 : EncFrame := { f with subs := f.subs.set f.sub x, row := f.row + 1 }
  let f2 : EncFrame := { f1 with lens := f1.lens ++ [lenOf f1.subs] }
  if f2.mapped < f2.rows then
    ({ f2 with mapped := f2.mapped + 1 }, s.qmapRow p f2.pix (f2.qRow f2.mapped) f2.mapped)
  else (f2, s)

/-- Code one row in full: elements 1 to 5. -/
def encRow (f : EncFrame) (t : TabSrc) (words : List Nat) (s : State) : Coding × Enc :=
  let c := f.ctx
  let x := ((f.subs[f.sub]?).getD Enc.init).bit false
  let x := Enc.bits (f.qRow f.row).toNat 6 x
  let (x, n) := if frFintra f.pix.fr then (x, 0) else encMotion f.pix.mvs (ctxCols c) f.top f.row (inBand c (rcBand c)) x
  encElements t words ⟨cDone, [], n, s⟩ x

/-- End a frame of the rate controller with a failure: its ENCFRAME completes. -/
def State.frameFail (p : Nat) (f : EncFrame) (code : Nat) (s : State) : State :=
  let s := s.updPed p (fun x => { x with frames := x.frames.filter (fun g => g.pix.cmd ≠ f.pix.cmd) })
  (s.ringDone p f.pix.cmd code).pixSettle p f.peng

/-- Big-endian header of a video frame (Table 12.8). -/
def EncFrame.header (f : EncFrame) (subLens : List Nat) : List Byte :=
  let c := f.ctx
  let fr := f.pix.fr
  let b := fun (x : Bool) (n : Nat) => if x then 2 ^ n else 0
  let flags := b (refreshPoint fr c) 15 + b (frFintra fr) 14 + b (frNoref fr) 13 + b (frCurLong fr) 12 +
    frLtidx fr * 256 + frRsel fr * 16
  let ops := ((rangeFrom 0 8).map (frOp fr)).takeWhile (fun o => bits o 3 0 != 0)
  let rois := f.pix.rois
  beBytes (rcFrame c) 4 ++ beBytes (rcCycle c) 4 ++ beBytes flags 2 ++ beBytes (rcBand c) 1 ++ beBytes subLens.length 1 ++
  beBytes (f.carry.getD 0xFFFF) 2 ++ beBytes f.epoch 2 ++ beBytes rois.length 1 ++ beBytes ops.length 1 ++
  ops.flatMap (fun o => beBytes o 2) ++
  rois.flatMap (fun r => beBytes r.1 2 ++ beBytes r.2.1 2 ++ beBytes r.2.2.1 2 ++ beBytes r.2.2.2.1 2 ++
    [BitVec.ofInt 8 r.2.2.2.2]) ++
  subLens.flatMap (fun n => beBytes n 4)

/-- After the last row: the substreams are flushed and the unit waits to be written. -/
def State.frameCoded (p : Nat) (f : EncFrame) (s : State) : State :=
  let subs := f.subs.map Enc.flush
  let bytes := subs.flatMap id
  let u : PendUnit := { eeng := f.eeng, stream := f.pix.cmd.stream, for_ := .frame,
                        bytes := unitBytes 2 (f.header (subs.map (·.length)) ++ bytes),
                        tooBig := decide (2 ^ 24 < bytes.length), audio := false, slot := none }
  s.updPed p (fun x => { x with units := x.units ++ [u] })

def State.putFrame (p : Nat) (f : EncFrame) (s : State) : State :=
  s.updPed p (fun x => { x with frames := x.frames.map (fun g => if g.pix.cmd = f.pix.cmd then f else g) })

/-- Take a latent-queue entry and code its row (R490 to R492, R486, R513). -/
def State.takeRow (p : Nat) (f : EncFrame) (s : State) : State :=
  let c := f.ctx
  let stream := f.pix.cmd.stream
  let n := Tbl.get 0 (s.ped p).lqIdx stream
  let s0 := s
  let s := s.updPed p (fun x => { x with lqIdx := Tbl.set 0 stream (n + 1) x.lqIdx })
  let niche := ctxNiche c
  let fail := fun (code : Nat) (s : State) => (State.entNote s0 p f.eeng code s).frameFail p f code
  match s.lqRead p niche (ctxLatq c + 64 * (n % 2 ^ ctxLqk c)) with
  | (none, code, s) => fail code s
  | (some q, _, s) =>
    if q.row ≠ f.row then fail cFormatError s
    else
      let sub0 := (f.subs[f.sub]?).getD Enc.init
      let done := fun (f : EncFrame) (x : Enc) (s : State) =>
        let (f, s) := s.rowDone p f x
        let s := (State.entNote s0 p f.eeng cDone s).putFrame p f
        let s := if f.rows ≤ f.row then s.frameCoded p f else s
        s.signalNow (ctxLqfree c) 1
      if f.carry.isSome then done f (sub0.bit true) s
      else
        let (b, code, s) := s.fetchDva p niche q.sym (4 * q.nsym)
        if code ≠ cDone then fail code s
        else
          let (k, x) := encRow f ⟨p, f.eeng, niche, q.tbl, q.ntbl, f.slot⟩ (wordsOf b q.nsym) s
          let s := k.st.countSyms p f.eeng k.syms
          if k.code ≠ cDone then fail k.code s
          else if lenOf (f.subs.set f.sub x) + (f.rows - 1 - f.row) ≤ f.budget + 64 then done f x s
          else done { f with carry := some f.row } (sub0.bit true) s

/-- LATENT_ENTRY_TAKE: the entropy engine takes an encode entry when LQFILL is at least 1 and codes its row. -/
def execLatentEntryTake (g : EngId) (stream : BitVec 12) (s : State) : Host.Outcome State Fault Refusal :=
  let p := g.p.val
  match (s.ped p).frames.find? (fun f => f.eeng == g.e.val && f.pix.cmd.stream == stream.toNat && decide (f.row < f.rows)) with
  | none => .next s
  | some f =>
    match s.ctrTake (ctxLqfill f.ctx) with
    | none => .next (s.ctrLook (ctxLqfill f.ctx))
    | some s => .next (s.takeRow p f)

/-! ## Writing units (R534), and the end of ENCFRAME (R487, R488) -/

/-- Rewrite the motion field and prediction of the carry rows. -/
def State.rewriteCarry (p : Nat) (f : EncFrame) (s : State) : Nat × State :=
  let k := f.pix
  let c := k.ctx
  let ref := k.buf
  match f.carry with
  | none => (cDone, s)
  | some r0 =>
    let blocks := (rangeFrom r0 (f.rows - r0)).flatMap (fun y => (rangeFrom 0 (ctxCols c)).map (fun bx => (bx, y)))
    blocks.foldl (fun acc xy =>
      if acc.1 ≠ cDone then acc
      else
        let b := blkOf c xy.1 xy.2
        let ce := centreOf c xy.1 xy.2
        let v := acc.2.inherited k.maps c k.fr ref xy.1 xy.2
        let (e0, s) := if frFintra k.fr then (cDone, acc.2) else acc.2.cellRead p k.maps (ref + ctxPlanes c) (ctxNiche c) c ce.1 ce.2
        let (e1, s) := s.refRead p f.peng k.maps (ctxNiche c) (usedRuns c ref b v)
        let code := firstCode [e0, e1]
        if code ≠ cDone then (code, s)
        else (cDone, (s.writeCells p k.maps (frMf k.fr) c xy.1 xy.2 v).writePred p k.maps c (frPred k.fr) ref b v)) (cDone, s)

/-- R488. -/
def EncFrame.rcNext (f : EncFrame) (c : Memory) : Memory :=
  let lf := lenOf f.subs
  let bf := f.budget
  let step := clampI (rtaDiv (4 * ((lf : Int) - bf)) bf) (-2) 2
  let q := (clampI ((rcQbase c : Int) - step) (rcQmin c) (rcQmax c)).toNat
  setField (setField (setField c 0x48 4 (lf - bf)) 0x60 4 lf) 0x4C 1 q

/-- ENCFRAME completes once its unit is written. -/
def State.encEnd (p : Nat) (f : EncFrame) (code : Nat) (s : State) : State :=
  if code ≠ cDone then s.frameFail p f code
  else
    let s0 := s
    let (code, s) := s.rewriteCarry p f
    let s := State.pixNote s0 p f.peng code s
    if code ≠ cDone then s.frameFail p f code
    else
      let c := setField (f.rcNext f.ctx) 0x188 2 (f.carry.getD 0xFFFF)
      (s.ctxWrite p f.pix.cmd.stream c).frameFail p f cDone

/-- Does a command wait at the head of its ring (R454)? AENCODE waits for its queue entry too. An ECTXSET waits for what is
neither frame nor packet: for those in flight it completes BUSY (R533). -/
def State.entWaits (s : State) (p _e : Nat) (c : RingCmd) : Bool :=
  let x := s.ped p
  let header := x.units.any (fun u => match u.for_ with | .cmd k => k.stream == c.stream && !u.audio | .frame => false)
  let busy := x.decs.any (fun d => d.cmd.stream == c.stream) ||
    x.units.any (fun u => match u.for_ with | .cmd k => k.stream == c.stream | .frame => false)
  let sr := s.srecOf p c.stream
  (if c.op = 1 then header else busy) || (c.op == 4 && srValid sr && (s.ctrTake (srAlqfill sr)).isNone)

/-- The DECUNIT that an engine runs. -/
def State.entRunning (s : State) (p e : Nat) : Option DecUnit := (s.ped p).decs.find? (fun d => d.eeng == e && !d.saved)

/-- A pre-empted DECUNIT of a ring. -/
def State.entSavedOn (s : State) (p e key : Nat) : Option DecUnit :=
  (s.ped p).decs.find? (fun d => d.eeng == e && d.saved && d.cmd.ring == key)

/-- What an entropy engine may take up: a pre-empted DECUNIT, or the entry of a ring. -/
inductive EntOffer where
  | saved (d : DecUnit)
  | fresh (c : RingCmd)
  deriving DecidableEq, Repr

/-- The first offer among the rings above ring `lim` (R454): a pre-empted command comes before any other of its ring (R455). -/
def State.entOffer (s : State) (p e lim : Nat) : Option EntOffer :=
  if !s.engRuns p 1 e then none else (rangeFrom 0 lim).findSome? (fun c =>
    let key := ringKey 1 e c
    match s.entSavedOn p e key with
    | some d => some (.saved d)
    | none =>
      let r := s.ring p key
      let n := s.nextCmd p key
      if r.more && !r.held && !s.entWaits p e n then some (.fresh n) else none)

/-- Rings from which the engine may take: all while it runs no DECUNIT; at a row boundary of one those above its own (R455). -/
def State.entLim (s : State) (p e : Nat) : Nat :=
  match s.entRunning p e with
  | none => 4
  | some d => if d.entry.isNone then d.cmd.ring % 4 else 0

/-- The entry that the engine takes next. -/
def State.entPick (s : State) (p e : Nat) : Option RingCmd :=
  match s.entOffer p e (s.entLim p e) with
  | some (.fresh c) => some c
  | _ => none

/-- Complete what ends at its turn: ORDER_HELD on held rings, reserved opcodes. A pre-empted DECUNIT whose turn it is runs on. -/
def State.entSettleN (p e : Nat) : Nat → State → State
  | 0, s => s
  | n + 1, s =>
    let s := (rangeFrom 0 4).foldl (fun s c => s.drainHeld p (ringKey 1 e c) 65536) s
    match s.entOffer p e (s.entLim p e) with
    | some (.saved d) => s.updPed p (fun x => { x with decs := x.decs.map (fun k => if k.cmd = d.cmd then { k with saved := false } else k) })
    | some (.fresh c) =>
      if s.badWithPlinth p (hEnt e) then State.entSettleN p e n ((s.ringTake p c.ring).ringDone p c cUnsupported)
      else if c.op = 0 ∨ 5 < c.op then State.entSettleN p e n ((s.ringTake p c.ring).ringDone p c cBadDescriptor) else s
    | none => s

def State.entSettle (p e : Nat) (s : State) : State := s.entSettleN p e 65536

def State.entEnd (p e : Nat) (c : RingCmd) (code : Nat) (s : State) : State := (s.ringDone p c code).entSettle p e

/-- A unit's command ends; a written audio packet advances APKT. -/
def State.unitEnd (p : Nat) (u : PendUnit) (code : Nat) (s : State) : State :=
  match u.for_ with
  | .frame =>
    match (s.ped p).frames.find? (fun f => f.eeng == u.eeng && f.pix.cmd.stream == u.stream) with
    | some f => s.encEnd p f code
    | none => s
  | .cmd c =>
    let s := if u.audio ∧ code = cDone then
        s.mpaStore (recAddr s p u.stream + 0x24) (leBytes (srApkt (s.srecOf p u.stream) + 1) 4)
      else s
    s.entEnd p u.eeng c code

/-- Take a descriptor and write a unit (R534). -/
def State.writeUnit (p : Nat) (u : PendUnit) (s : State) : State :=
  let s0 := s
  let x := s.srecOf p u.stream
  let niche := ctxNiche (s.ctxOf p u.stream)
  let n := Tbl.get 0 (s.ped p).oqIdx u.stream
  let a := srOutq x + 16 * (n % 2 ^ srOqk x)
  let s := s.updPed p (fun y => { y with oqIdx := Tbl.set 0 u.stream (n + 1) y.oqIdx,
                                         units := y.units.filter (fun v => v ≠ u) })
  let (d, code, s) := s.fetchDva p niche a 16
  let (code, s) :=
    if code ≠ cDone then (code, s)
    else if u.tooBig ∨ leNat ((d.drop 8).take 4) < u.bytes.length then (cOutputFull, s)
    else s.storeDva p niche (leNat (d.take 8)) u.bytes
  let (rc, s) := s.storeDva p niche (a + 12) (leBytes (u.bytes.length % 2 ^ 24 + code * 2 ^ 24) 4)
  let s := s.signalNow (srOqdone x) 1
  let code := firstCode [code, rc]
  (State.entNote s0 p u.eeng code s).unitEnd p u code

/-- UNIT_WRITE: the engine takes an output descriptor, when OQFREE is at least 1, and writes the stream's next unit. -/
def execUnitWrite (g : EngId) (stream : BitVec 12) (s : State) : Host.Outcome State Fault Refusal :=
  let p := g.p.val
  match (s.ped p).units.find? (fun u => u.eeng == g.e.val && u.stream == stream.toNat) with
  | none => .next s
  | some u =>
    match s.ctrTake (srOqfree (s.srecOf p stream.toNat)) with
    | none => .next (s.ctrLook (srOqfree (s.srecOf p stream.toNat)))
    | some s => .next (s.writeUnit p u)

/-! ## Taking commands (R531) -/

/-- The DECUNIT that runs is pre-empted at its row boundary: its NEXTROW is saved in PROGRESS (R455). -/
def State.entPreempt (p e : Nat) (s : State) : State :=
  match s.entRunning p e with
  | none => s
  | some d =>
    let s := s.mpaStore (ctxAddr s p d.cmd.stream + 0x184) (leBytes d.row 4)
    s.updPed p (fun x => { x with decs := x.decs.map (fun k => if k.cmd = d.cmd then { k with saved := true } else k) })

/-- Take a fresh command of an opcode, with its context and stream records; it pre-empts a DECUNIT of a lower ring. It fails when a record cannot be read, or the
stream is not valid or not of this ring and engine (R453). -/
def State.entTake (p e op : Nat) (s : State) : Option (RingCmd × Memory × Memory × Nat) × State :=
  let s := s.entSettle p e
  match s.entPick p e with
  | none => (none, s)
  | some c =>
    if c.op ≠ op then (none, s)
    else
      let s0 := s
      let s := (s.entPreempt p e).ringTake p c.ring
      let r := Rec.base 0 1 0 (some p) none
      let (_, k0, s) := s.readRun r (ringAddr p (s.ring p c.ring) c.idx) 64
      let (x, k1, s) := s.ctxRead p c.stream
      let (b, k2, s) := s.readRun r (recAddr s p c.stream) 128
      let y := recordOf b
      let k := firstCode [k0, k1, k2]
      let s := State.entNote s0 p e k s
      let bad := !ctxValid x || ctxClass x != c.ring % 4 || ctxEeng x != e ||
        ((op == 3 || op == 4 || op == 5) && (!srValid y || srDecode y != (op == 3)))
      (some (c, x, y, if k ≠ cDone then k else if bad then cBadDescriptor else cDone), s)

/-- Does a stream have a frame or packet in flight (R533)? -/
def State.inFlight (s : State) (p stream : Nat) : Bool :=
  s.pixBusy p stream || (s.ped p).units.any (fun u => u.stream == stream && u.audio) ||
  (s.ped p).decs.any (fun d => d.cmd.stream == stream)

/-- ECTXSET: set a stream record (R533). -/
def execEctxset (g : EngId) (s : State) : Host.Outcome State Fault Refusal :=
  let p := g.p.val
  let e := g.e.val
  match s.entTake p e 1 with
  | (none, s) => .next s
  | (some (c, x, _, k), s) =>
    if k ≠ cDone then .next (s.entEnd p e c k)
    else if s.inFlight p c.stream then .next (s.entEnd p e c cBusy)
    else
      let s0 := s
      let (b, k, s) := s.fetchDva p (ctxNiche x) c.arg 128
      let s := State.entNote s0 p e k s
      if k ≠ cDone then .next (s.entEnd p e c k)
      else if !srecOk p x (recordOf b) then .next (s.entEnd p e c cBadDescriptor)
      else
        let s := s.mpaStore (recAddr s p c.stream) b
        let s := s.updPed p (fun y => { y with alqIdx := Tbl.set 0 c.stream 0 y.alqIdx, oqIdx := Tbl.set 0 c.stream 0 y.oqIdx })
        .next (s.entEnd p e c cDone)

/-- Is a static slot in use by a frame or packet in flight on the engine (R507)? -/
def State.slotUsed (s : State) (p e slot : Nat) : Bool :=
  let x := s.ped p
  x.frames.any (fun f => f.eeng == e && f.slot == slot) || x.decs.any (fun d => d.eeng == e && d.slot == slot) ||
  x.units.any (fun u => u.eeng == e && u.slot == some slot)

/-- ETABLOAD: load a static table slot (R505, R507). -/
def execEtabload (g : EngId) (s : State) : Host.Outcome State Fault Refusal :=
  let p := g.p.val
  let e := g.e.val
  match s.entTake p e 2 with
  | (none, s) => .next s
  | (some (c, x, _, k), s) =>
    if k ≠ cDone then .next (s.entEnd p e c k)
    else
      let s0 := s
      let (b, k, s) := s.fetchDva p (ctxNiche x) c.arg 16
      let f := fun o n => leNat ((b.drop o).take n)
      let count := f 8 2
      let slot := f 10 1
      let s := State.entNote s0 p e k s
      if k ≠ cDone then .next (s.entEnd p e c k)
      else if !between 1 126 count || decide (15 < slot) || f 11 5 != 0 then .next (s.entEnd p e c cBadDescriptor)
      else if s.slotUsed p e slot then .next (s.entEnd p e c cBusy)
      else
        let s0 := s
        let (t, k, s) := s.fetchDva p (ctxNiche x) (f 0 8) (520 * count)
        let s := State.entNote s0 p e k s
        if k ≠ cDone then .next (s.entEnd p e c k)
        else
          let key := 16 * e + slot
          let s := s.updPed p (fun y => { y with etab := Memory.write (key * 65536) t y.etab, etabN := Tbl.set 0 key count y.etabN })
          .next (s.entEnd p e c cDone)

/-- AENCODE: code the next audio-queue entry as one packet (R528 to R530). It waits while ALQFILL is 0. -/
def execAencode (g : EngId) (s : State) : Host.Outcome State Fault Refusal :=
  let p := g.p.val
  let e := g.e.val
  match s.entTake p e 4 with
  | (none, s) => .next s
  | (some (c, x, y, k), s) =>
    if k ≠ cDone then .next (s.entEnd p e c k)
    else
      match s.ctrTake (srAlqfill y) with
      | none => .next (s.entEnd p e c cFormatError)
      | some s =>
        let s0 := s
        let n := Tbl.get 0 (s.ped p).alqIdx c.stream
        let s := s.updPed p (fun d => { d with alqIdx := Tbl.set 0 c.stream (n + 1) d.alqIdx })
        let niche := ctxNiche x
        let fail := fun (code : Nat) (s : State) => (State.entNote s0 p e code s).entEnd p e c code
        match s.lqRead p niche (srAlatq y + 64 * (n % 2 ^ srAlqk y)) with
        | (none, code, s) => .next (fail code s)
        | (some q, _, s) =>
          let (b, code, s) := s.fetchDva p niche q.sym (4 * q.nsym)
          if code ≠ cDone then .next (fail code s)
          else
            let set := srSet y (srSetB y)
            let (k, enc) := encElements ⟨p, e, niche, q.tbl, q.ntbl, set.1⟩ (wordsOf b q.nsym) ⟨cDone, [], 0, s⟩ Enc.init
            let s := k.st.countSyms p e k.syms
            if k.code ≠ cDone then .next (fail k.code s)
            else
              let conceal := decide (srAbudget y < enc.committed)
              let hdr := beBytes (srApkt y) 4 ++ beBytes (srAbudget y * 2 / 5) 1 ++ [if conceal then 0x80 else 0] ++ beBytes set.2 2
              let u : PendUnit := { eeng := e, stream := c.stream, for_ := .cmd c,
                                    bytes := unitBytes 3 (hdr ++ (if conceal then [] else enc.flush)), tooBig := false, audio := true, slot := some set.1 }
              let s := (State.entNote s0 p e cDone s).updPed p (fun d => { d with units := d.units ++ [u] })
              .next ((s.signalNow (srAlqfree y) 1).entSettle p e)

/-- Payload of a stream header (Table 12.7). The audio channels, 0 to 2, and the frame rate, which no record gives, are free
values of the two records. -/
def streamHeader (x y : Memory) : List Byte :=
  let v := Config.streamFree ((x.bytes 0 512 ++ y.bytes 0 128).map (·.toNat))
  let flags := (if ctxDepth x = 1 then 2 ^ 15 else 0) + bits (cfgOf x) 5 4 * 2 ^ 13 + v.1 % 3 * 2 ^ 11
  beBytes 0x0100 2 ++ beBytes flags 2 ++ beBytes (ctxW x) 2 ++ beBytes (ctxH x) 2 ++ beBytes (ctxMaxref x) 1 ++
  beBytes (ctxRp x) 1 ++ [0, 0] ++ beBytes (v.2 % 2 ^ 32) 4 ++ y.bytes 0x40 16 ++ List.replicate 8 0

/-- ESTREAM: write a stream header (R523). -/
def execEstream (g : EngId) (s : State) : Host.Outcome State Fault Refusal :=
  let p := g.p.val
  let e := g.e.val
  match s.entTake p e 5 with
  | (none, s) => .next s
  | (some (c, x, y, k), s) =>
    if k ≠ cDone then .next (s.entEnd p e c k)
    else
      let u : PendUnit := { eeng := e, stream := c.stream, for_ := .cmd c, bytes := unitBytes 1 (streamHeader x y), tooBig := false,
                            audio := false, slot := none }
      .next ((s.updPed p (fun d => { d with units := d.units ++ [u] })).entSettle p e)

/-! ## Decoding (R518 to R530) -/

/-- A unit's payload, checked against its header (R521, R522); none: FORMAT_ERROR. A unit whose length disagrees with LEN fails
as well (DEDUCED). -/
def unitOf (bs : List Byte) : Option (Nat × List Byte) :=
  let f := fun o n => beNat ((bs.drop o).take n)
  let t := f 0 1
  let pay := bs.drop 12
  if bs.length < 12 ∨ f 1 1 ≠ 1 ∨ f 2 2 ≠ 0 ∨ f 4 4 ≠ pay.length ∨ f 8 4 ≠ (crc32 pay).toNat then none
  else if t = 0 ∨ (3 < t ∧ t < 0x80) then none
  else some (t, pay)

/-- A stream header agrees with the records (R524). -/
def headerAgrees (pay : List Byte) (x y : Memory) : Bool :=
  let f := fun o n => beNat ((pay.drop o).take n)
  bits (f 2 2) 15 15 == ctxDepth x && bits (f 2 2) 14 13 == bits (cfgOf x) 5 4 && f 4 2 == ctxW x && f 6 2 == ctxH x &&
  f 8 1 == ctxMaxref x && f 9 1 == ctxRp x && (pay.drop 16).take 16 == y.bytes 0x40 16

/-- The static slot of a unit's TEPOCH (R506). -/
def epochSlot (y : Memory) (t : Nat) : Option Nat :=
  if (srSet y false).2 = t then some (srSet y false).1
  else if (srSet y true).2 = t then some (srSet y true).1 else none

/-- Cut a list into pieces of given lengths. -/
def cutList : List Nat → List Byte → List (List Byte)
  | [], _ => []
  | n :: ns, bs => bs.take n :: cutList ns (bs.drop n)

/-- A video frame's parts, checked (R527): regions, substreams. -/
def videoParts (x : Memory) (pay : List Byte) : Option (List (Nat × Nat × Nat × Nat × Int) × List (List Byte)) :=
  let f := fun o n => beNat ((pay.drop o).take n)
  let nsub := f 11 1
  let nroi := f 16 1
  let nop := f 17 1
  let o1 := 18 + 2 * nop
  let o2 := o1 + 9 * nroi
  let o3 := o2 + 4 * nsub
  let lens := (rangeFrom 0 nsub).map (fun i => f (o2 + 4 * i) 4)
  let refresh := decide (f 10 1 = 0) || bitAt (f 8 2) 14
  if pay.length < 18 ∨ 8 < nop ∨ 64 < nroi ∨ nsub = 0 ∨ min 64 (ctxRows x) < nsub ∨ lens.any (fun n => decide (n < 4)) ∨
      o3 + lens.foldl (· + ·) 0 ≠ pay.length ∨ bitAt (f 8 2) 15 ≠ refresh then none
  else some ((rangeFrom 0 nroi).map (fun i =>
      let g := fun o n => f (o1 + 9 * i + o) n
      (g 0 2, g 2 2, g 4 2, g 6 2, sext 8 (g 8 1))), cutList lens (pay.drop o3))

/-- DECUNIT: begin to decode one unit (R522 to R532). A stream header or a skippable unit is done at once. -/
def execDecunit (g : EngId) (s : State) : Host.Outcome State Fault Refusal :=
  let p := g.p.val
  let e := g.e.val
  match s.entTake p e 3 with
  | (none, s) => .next s
  | (some (c, x, y, k), s) =>
    let s0 := s
    let stop := fun (code : Nat) (s : State) => Host.Outcome.next ((State.entNote s0 p e code s).entEnd p e c code)
    if k ≠ cDone then .next (s.entEnd p e c k)
    else
      let niche := ctxNiche x
      let (r, k, s) := s.fetchDva p niche c.arg 32
      let f := fun o n => leNat ((r.drop o).take n)
      if k ≠ cDone then stop k s
      else
        let (bs, k, s) := s.fetchDva p niche (f 0 8) (f 8 4)
        if k ≠ cDone then stop k s
        else
          match unitOf bs with
          | none => stop cFormatError s
          | some (t, pay) =>
            let h := fun o n => beNat ((pay.drop o).take n)
            let start : DecUnit :=
              { eeng := e, cmd := c, ctx := x, srec := y, audio := t == 3, hdr := pay.take 18, rois := [], subs := [], slot := 0,
                mf := f 16 8, row := 0, dec := none, mvs := [], entry := none, saved := false }
            let add := fun (d : DecUnit) (s : State) =>
              Host.Outcome.next ((State.entNote s0 p e cDone s).updPed p (fun z => { z with decs := z.decs ++ [d] }))
            match t with
            | 1 => if pay.length ≠ 40 then stop cFormatError s
              else stop (if headerAgrees pay x y then cDone else cUnsupported) s
            | 2 =>
              match videoParts x pay, epochSlot y (h 14 2) with
              | some (rois, subs), some slot =>
                match s.needs p niche [⟨f 16 8, ctxMfBytes x, true⟩, ⟨f 24 8, 64, true⟩, ⟨ctxQmap x, ctxCols x * ctxRows x, true⟩,
                    ⟨ctxLatq x, 64 * 2 ^ ctxLqk x, true⟩] with
                | (some k, _, s) => stop k s
                | (none, m, s) =>
                  let info := pay.take (18 + 2 * h 17 1)
                  let s := s.dvaWrite p m (f 24 8) (info ++ List.replicate (64 - info.length) 0)
                  add { start with rois := rois, subs := subs, slot := slot } s
              | _, _ => stop cFormatError s
            | 3 =>
              let conceal := bitAt (h 5 1) 7
              match epochSlot y (h 6 2) with
              | some slot =>
                if pay.length < 8 ∨ conceal ≠ (pay.length == 8) then stop cFormatError s
                else
                  match s.needs p niche [⟨srAlatq y, 64 * 2 ^ srAlqk y, true⟩] with
                  | (some k, _, s) => stop k s
                  | (none, _, s) => add { start with subs := if conceal then [] else [pay.drop 8], slot := slot } s
              | none => stop cFormatError s
            | _ => stop cDone s

/-- Header fields of a unit being decoded. -/
def DecUnit.be (d : DecUnit) (o n : Nat) : Nat := beNat ((d.hdr.drop o).take n)
def DecUnit.fintra (d : DecUnit) : Bool := bitAt (d.be 8 2) 14
def DecUnit.rows (d : DecUnit) : Nat := ctxRows d.ctx
def DecUnit.conceal (d : DecUnit) : Bool := d.audio && bitAt (d.be 5 1) 7
/-- Counters and place of the queue that serves a unit. -/
def DecUnit.fill (d : DecUnit) : Nat := if d.audio then srAlqfill d.srec else ctxLqfill d.ctx
def DecUnit.free (d : DecUnit) : Nat := if d.audio then srAlqfree d.srec else ctxLqfree d.ctx
def DecUnit.niche (d : DecUnit) : Nat := ctxNiche d.ctx

def State.putDec (p : Nat) (d : DecUnit) (s : State) : State :=
  s.updPed p (fun x => { x with decs := x.decs.map (fun k => if k.cmd = d.cmd then d else k) })

/-- A decode ends. -/
def State.decEnd (p : Nat) (d : DecUnit) (code : Nat) (s : State) : State :=
  (s.updPed p (fun x => { x with decs := x.decs.filter (fun k => k.cmd ≠ d.cmd) })).entEnd p d.eeng d.cmd code

/-- A row is decoded: at the end of its substream every byte must be read (dec_end); after the last row the unit is done. -/
def State.decRowDone (p : Nat) (d : DecUnit) (s : State) : State :=
  let ends := d.audio || d.row + 1 = d.rows || subOf d.rows d.subs.length (d.row + 1) != subOf d.rows d.subs.length d.row
  let left := match d.dec with | some x => !x.rest.isEmpty | none => false
  if ends && left then (s.entFlag p d.eeng 16).decEnd p d cFormatError
  else if d.audio || d.row + 1 = d.rows then s.decEnd p d cDone
  else s.putDec p { d with row := d.row + 1, dec := if ends then none else d.dec, entry := none }

/-- Write decoded values into the VAL halves of symbol elements from element `i` on. -/
def State.writeVals (p niche sym i : Nat) (vs : List Int) (s : State) : Nat × State :=
  match s.needs p niche [⟨sym + 4 * i, 4 * vs.length, true⟩] with
  | (some k, _, s) => (k, s)
  | (none, m, s) =>
    let t := (numbered vs).foldl (fun s iv => s.dvaWrite p m (sym + 4 * (i + iv.1)) (leBytes (iv.2 % 65536).toNat 2)) s
    (lostCode s t cDone, t)

/-- Write a row of the quality map, given its bytes, and signal RCCTR (R520). -/
def State.decMap (p : Nat) (d : DecUnit) (row : List Byte) (s : State) : State :=
  if d.audio then s
  else
    let (_, s) := s.storeDva p d.niche (ctxQmap d.ctx + d.row * ctxCols d.ctx) row
    s.signalNow (ctxRcctr d.ctx) 1

/-- Elements 1 to 3 of a row: carried?, q_row, the vectors so far, the decoder; and the codes read, whether or not it fails. -/
def DecUnit.rowHead (d : DecUnit) (x : Dec) : Option (Bool × Nat × List (Option Mv) × Dec) × Nat :=
  let cols := ctxCols d.ctx
  match x.bit with
  | none => (none, 0)
  | some fl =>
    if fl.1 then (some (true, 0, d.mvs ++ List.replicate cols none, fl.2), 0)
    else
      match Dec.bits 6 0 fl.2 with
      | none => (none, 0)
      | some q =>
        let r := decMotion cols (subTop d.rows d.subs.length d.row) d.row (inBand d.ctx (d.be 10 1)) d.fintra (rangeFrom 0 cols) d.mvs q.2 0
        (r.1.map (fun m => (false, q.1, m.1, m.2)), r.2)

/-- Take a prepared entry and decode elements 1 to 4 of its row (R518 to R520). -/
def State.takeDec (p : Nat) (d : DecUnit) (s : State) : State :=
  let s0 := s
  let stream := d.cmd.stream
  let n := Tbl.get 0 (if d.audio then (s.ped p).alqIdx else (s.ped p).lqIdx) stream
  let s := s.updPed p (fun x => if d.audio then { x with alqIdx := Tbl.set 0 stream (n + 1) x.alqIdx }
    else { x with lqIdx := Tbl.set 0 stream (n + 1) x.lqIdx })
  let a := if d.audio then srAlatq d.srec + 64 * (n % 2 ^ srAlqk d.srec) else ctxLatq d.ctx + 64 * (n % 2 ^ ctxLqk d.ctx)
  let fail := fun (code : Nat) (s : State) => (State.entNote s0 p d.eeng code s).decEnd p d code
  match s.lqRead p d.niche a with
  | (none, code, s) => fail code s
  | (some q, _, s) =>
    let carried := fun (d : DecUnit) (s : State) =>
      let (k, s) := s.storeDva p d.niche (a + 0x24) (leBytes 1 4)
      if k ≠ cDone then fail k s
      else
        let s := State.entNote s0 p d.eeng cDone (s.decMap p d (List.replicate (ctxCols d.ctx) 0))
        (s.signalNow d.fill 1).decRowDone p d
    if ¬ d.audio ∧ q.row ≠ d.row then fail cFormatError s
    else if d.conceal then carried d s
    else
      let fresh := (d.subs[if d.audio then 0 else subOf d.rows d.subs.length d.row]?).getD []
      let dec0 := match d.dec with | some x => some x | none => Dec.init fresh
      let head := match dec0 with
        | none => (none, 0)
        | some x => if d.audio then (some (false, 0, [], x), 0) else d.rowHead x
      let s := s.countSyms p d.eeng head.2
      match head.1 with
      | none => fail cFormatError s
      | some (carry, qr, mvs, x) =>
        if ¬ d.audio ∧ carry ≠ decide (d.be 12 2 ≤ d.row) then fail cFormatError s
        else if carry then carried { d with dec := some x, mvs := mvs } s
        else
          let (b, k, s) := s.fetchDva p d.niche q.sym (4 * q.nhyp)
          if k ≠ cDone then fail k s
          else
            let (cd, x, vals) := decElements ⟨p, d.eeng, d.niche, q.tbl, q.ntbl, d.slot⟩
              ((wordsOf b q.nhyp).map (fun w => w / 65536)) ⟨cDone, [], 0, s⟩ x
            let s := cd.st.countSyms p d.eeng cd.syms
            if cd.code ≠ cDone then fail cd.code s
            else
              let (k1, s) := s.storeDva p d.niche (a + 0x24) (leBytes 0 4)
              let (k2, s) := s.writeVals p d.niche q.sym 0 vals
              let k := firstCode [k1, k2]
              if k ≠ cDone then fail k s
              else
                let mvs' := if d.fintra then mvs.map (fun _ => none) else mvs
                let s := s.decMap p d (mapRow d.ctx d.rois mvs' qr d.row)
                let (_, m, s) := if d.audio then (none, [], s) else s.needs p d.niche [⟨d.mf, ctxMfBytes d.ctx, true⟩]
                let s := if d.audio then s
                  else (rangeFrom 0 (ctxCols d.ctx)).foldl (fun s bx =>
                    s.writeCells p m d.mf d.ctx bx d.row ((mvs[d.row * ctxCols d.ctx + bx]?).getD none)) s
                let s := (State.entNote s0 p d.eeng cDone s).putDec p { d with dec := some x, mvs := mvs, entry := some a }
                s.signalNow d.fill 1

/-- DECODE_ENTRY_TAKE: take the next prepared entry, when the free counter is at least 1. A command on a higher ring that is ready
at this row boundary comes first (R455). -/
def execDecodeEntryTake (g : EngId) (stream : BitVec 12) (s : State) : Host.Outcome State Fault Refusal :=
  let p := g.p.val
  match (s.ped p).decs.find? (fun d => d.eeng == g.e.val && d.cmd.stream == stream.toNat && d.entry.isNone && !d.saved) with
  | none => .next s
  | some d =>
    if (s.entPick p g.e.val).isSome then .next s
    else
      match s.ctrTake d.free with
      | none => .next (s.ctrLook d.free)
      | some s => .next (s.takeDec p d)

/-- Decode the main latents of the entry taken. -/
def State.takeMain (p a : Nat) (d : DecUnit) (q : LqEntry) (s0 s : State) : State :=
  let fail := fun (code : Nat) (s : State) => (State.entNote s0 p d.eeng code s).decEnd p d code
  let (b, k, s) := s.fetchDva p d.niche (q.sym + 4 * q.nhyp) (4 * (q.nsym - q.nhyp))
  if k ≠ cDone then fail k s
  else
    match d.dec with
    | none => fail cFormatError s
    | some x =>
      let (cd, x, vals) := decElements ⟨p, d.eeng, d.niche, q.tbl, q.ntbl, d.slot⟩
        ((wordsOf b (q.nsym - q.nhyp)).map (fun w => w / 65536)) ⟨cDone, [], 0, s⟩ x
      let s := cd.st.countSyms p d.eeng cd.syms
      if cd.code ≠ cDone then fail cd.code s
      else
        let (k, s) := s.writeVals p d.niche q.sym q.nhyp vals
        if k ≠ cDone then fail k s
        else
          let s := State.entNote s0 p d.eeng cDone s
          (s.signalNow d.fill 1).decRowDone p { d with dec := some x, entry := some a }

/-- TBLRDY_TAKE: the row tables are ready; decode the main latents of the entry taken (R518). -/
def execTblrdyTake (g : EngId) (stream : BitVec 12) (s : State) : Host.Outcome State Fault Refusal :=
  let p := g.p.val
  match (s.ped p).decs.find? (fun d => d.eeng == g.e.val && d.cmd.stream == stream.toNat && d.entry.isSome && !d.saved) with
  | none => .next s
  | some d =>
    let a := d.entry.getD 0
    match s.lqRead p d.niche a with
    | (none, code, s1) => .next ((State.entNote s p d.eeng code s1).decEnd p d code)
    | (some q, _, s1) =>
      match s1.ctrTake q.tblrdy with
      | none => .next (s.ctrLook q.tblrdy)
      | some s2 => .next (s2.takeMain p a d q s)

/-! ## Rings -/

/-- ENT_RTAIL write (R496, R537). -/
def execEntRtailWrite (g : EngId) (c : Fin 4) (v : BitVec 16) (s : State) : Host.Outcome State Fault Refusal :=
  s.engReg g.p.val 1 g.e.val (fun s => (s.ringTail g.p.val (ringKey 1 g.e.val c.val) v).entSettle g.p.val g.e.val)

/-- ENT_RCMD RESUME. -/
def execEntResume (g : EngId) (c : Fin 4) (s : State) : Host.Outcome State Fault Refusal :=
  s.engReg g.p.val 1 g.e.val (State.ringResume g.p.val (ringKey 1 g.e.val c.val))

/-- Every pending command of a ring completes with a code. -/
def State.entDrop (p e c code : Nat) (s : State) : State :=
  let key := ringKey 1 e c
  let s := s.updPed p (fun x => { x with
    decs := x.decs.filter (fun d => d.cmd.ring ≠ key),
    units := x.units.filter (fun u => match u.for_ with | .cmd k => decide (k.ring ≠ key) | .frame => true) })
  s.ringCancel p key [] code

/-- ENT_RCMD CANCEL. -/
def execEntCancel (g : EngId) (c : Fin 4) (s : State) : Host.Outcome State Fault Refusal :=
  s.engReg g.p.val 1 g.e.val (fun s => (s.entDrop g.p.val g.e.val c.val cCancelled).entSettle g.p.val g.e.val)

end Sys2Proof.Machine
end

