-- ==== Sys2Proof/Machine/Skim.lean ====
section
/-! DEFINITION. The Skim lossless compressor (chapter 13). -/
namespace Sys2Proof.Machine
open Sys2Proof

def skmBlock (p : Nat) : Nat := pedBase p + 0x200000

/-! ## Compression of one block (R540, R542) -/

/-- hash4 over byte values. -/
def hash4 (a b c d : Nat) : Nat := (a + b * 2 ^ 8 + c * 2 ^ 16 + d * 2 ^ 24) * 0x9E3779B1 % 2 ^ 32 / 2 ^ 17

/-- The bytes of a block as numbers; search positions are places in it. -/
abbrev Src := List Nat

def Src.at (x : Src) (i : Nat) : Nat := (x[i]?).getD 0

/-- Search state: newest position of a hash, and the position before a position, each as position + 1; 0: none. -/
structure Chains where
  head : Tbl Nat
  prev : Tbl Nat

def hashAt (x : Src) (p : Nat) : Nat := hash4 (Src.at x p) (Src.at x (p + 1)) (Src.at x (p + 2)) (Src.at x (p + 3))

def Chains.insert (x : Src) (p : Nat) (k : Chains) : Chains :=
  if p + 4 ≤ x.length then
    let h := hashAt x p
    ⟨Tbl.set 0 h (p + 1) k.head, Tbl.set 0 p (Tbl.get 0 k.head h) k.prev⟩
  else k

/-- Bytes that agree from two positions on. -/
def matchLen : Nat → Src → Src → Nat
  | n + 1, a :: as, b :: bs => if a = b then matchLen n as bs + 1 else 0
  | _, _, _ => 0

/-- Walk a chain: best length and distance; the nearer candidate keeps a tie. -/
def walkChain (x : Src) (p : Nat) (k : Chains) : Nat → Nat → Nat × Nat → Nat × Nat
  | 0, _, best => best
  | tries + 1, q1, best =>
    if q1 = 0 then best
    else
      let q := q1 - 1
      if p - q ≤ 65535 then
        let l := matchLen (min (x.length - p) 65666) (x.drop q) (x.drop p)
        walkChain x p k tries (Tbl.get 0 k.prev q) (if best.1 < l then (l, p - q) else best)
      else best

/-- emit_literals: runs of 128, then the rest. -/
def emitLits : Nat → List Byte → List Byte
  | 0, _ => []
  | fuel + 1, bs => if bs.isEmpty then [] else
      let r := bs.take 128
      BitVec.ofNat 8 (r.length - 1) :: r ++ emitLits fuel (bs.drop 128)

def emitMatch (len dist : Nat) : List Byte :=
  if len ≤ 130 then BitVec.ofNat 8 (0x80 + (len - 4)) :: leBytes dist 2 else 0xFF :: leBytes (len - 131) 2 ++ leBytes dist 2

def literals (x : Src) (p lit : Nat) : List Byte := emitLits (lit + 1) (((x.drop (p - lit)).take lit).map (BitVec.ofNat 8))

/-- skim_block from position `p` with `lit` literals owed. -/
def skimLoop (x : Src) (depth : Nat) : Nat → Nat → Nat → Chains → List Byte
  | 0, p, lit, _ => literals x p lit
  | fuel + 1, p, lit, k =>
    if x.length ≤ p then literals x p lit
    else
      let best := if p + 4 ≤ x.length then walkChain x p k depth (Tbl.get 0 k.head (hashAt x p)) (0, 0) else (0, 0)
      if 4 ≤ best.1 then
        literals x p lit ++ emitMatch best.1 best.2 ++
          skimLoop x depth fuel (p + best.1) 0 ((rangeFrom p best.1).foldl (fun k j => Chains.insert x j k) k)
      else skimLoop x depth fuel (p + 1) (lit + 1) (Chains.insert x p k)

/-- Table 13.3. -/
def skimDepth (level : Nat) : Nat :=
  match level with
  | 1 => 1
  | 2 => 8
  | 3 => 32
  | _ => 128

/-- A whole block: header and payload (R539, R542). -/
def skimBlock (level : Nat) (bs : List Byte) : List Byte :=
  let x : Src := bs.map (·.toNat)
  let pay := skimLoop x (skimDepth level) (x.length + 1) 0 0 ⟨[], []⟩
  let crc := leBytes (crc32 bs).toNat 4
  if level = 0 ∨ bs.length ≤ pay.length then leBytes bs.length 4 ++ leBytes bs.length 4 ++ crc ++ bs
  else leBytes (pay.length + 2 ^ 24) 4 ++ leBytes bs.length 4 ++ crc ++ pay

/-! ## Decompression of one block (R540, R541) -/

/-- Copy a match: the output, last byte first. -/
def copyMatch (dist : Nat) : Nat → List Byte → List Byte
  | 0, out => out
  | n + 1, out => copyMatch dist n ((out[dist - 1]?).getD 0 :: out)

/-- Commands of a payload; the output so far, last byte first, may not pass `raw` bytes. -/
def skimDecode (raw : Nat) : Nat → List Byte → List Byte → Option (List Byte)
  | _, [], out => some out.reverse
  | 0, _, _ => none
  | fuel + 1, c :: bs, out =>
    if c.toNat < 128 then
      let n := c.toNat + 1
      if bs.length < n ∨ raw < out.length + n then none
      else skimDecode raw fuel (bs.drop n) ((bs.take n).reverse ++ out)
    else
      let long := decide (c.toNat = 255)
      let need := if long then 4 else 2
      let len := if long then 131 + leNat (bs.take 2) else c.toNat - 128 + 4
      let dist := leNat ((bs.drop (need - 2)).take 2)
      if bs.length < need ∨ dist = 0 ∨ out.length < dist ∨ raw < out.length + len then none
      else skimDecode raw fuel (bs.drop need) (copyMatch dist len out)

/-- The decoded bytes of a block whose header and payload are given. -/
def skimUnblock (hdr raw crc : Nat) (pay : List Byte) : Option (List Byte) :=
  let kind := bits hdr 25 24
  let out := if kind = 0 then (if pay.length = raw then some pay else none) else skimDecode raw (pay.length + 1) pay []
  match out with
  | some o => if o.length = raw ∧ (crc32 o).toNat = crc then some o else none
  | none => none

/-! ## Jobs (R544 to R550) -/

def jLevel (j : Memory) : Nat := j.le 0 4 % 8
def jBsize (j : Memory) : Nat := 2 ^ (16 + 2 * bits (j.le 0 4) 4 3)
def jIdxen (j : Memory) : Bool := bitAt (j.le 0 4) 5
def jNblk (j : Memory) : Nat := j.le 4 4
def jSrc (j : Memory) : Nat := j.le 8 8
def jSlen (j : Memory) : Nat := j.le 0x10 8
def jDst (j : Memory) : Nat := j.le 0x18 8
def jDcap (j : Memory) : Nat := j.le 0x20 8
def jIdx (j : Memory) : Nat := j.le 0x28 8

def skmNiche (c : RingCmd) : Nat := c.stream % 32

def State.skmFlag (p : Nat) (b : BitVec 5) (s : State) : State := 
  (s.updPed p (fun x => { x with skmErr := x.skmErr ||| b })).mark (pedBase p + 0x200004) b.toNat

def State.skmNote (s0 : State) (p code : Nat) (s : State) : State :=
  let s := if corrected s0 s then s.skmFlag p 1 else s
  if code = cUncorrectable then s.skmFlag p 2
  else if code = cPoisonedInput then s.skmFlag p 4
  else if code = cFormatError then s.skmFlag p 16 else s

/-- Is a reserved bit of a ring entry set (R544, Table 11.2)? -/
def skimEntryBad (bs : List Byte) : Bool :=
  let f := fun o n => leNat ((bs.drop o).take n)
  decide (32 ≤ f 0 4) || decide (32 ≤ f 8 2) || f 10 2 != 0 || bitAt (f 12 2) 15 || (bs.drop 0x20).any (· != 0)

/-- The rows of Table 13.6 and of Table 10.7 that precede translation: a code, or none to go on. `entry`: a reserved bit of the
ring entry is set; `refused`: the counter does not belong to the niche. -/
def skimCheck (entry refused : Bool) (j : Memory) : Option Nat :=
  let so := jSrc j
  let d := jDst j
  let n := jSlen j
  let m := jDcap j
  let reserved := entry || decide (64 ≤ j.le 0 4) || decide (2 ^ 48 ≤ n) || decide (2 ^ 48 ≤ m) || j.le 0x3C 4 != 0
  let overlap := n != 0 && m != 0 && decide (so < d + m) && decide (d < so + n)
  if reserved || decide (4 < jLevel j) || overlap then some cBadDescriptor
  else if n = 2 ^ 48 - 1 then some cLengthInvalid
  else if n = 0 then some (if refused then cPermission else cDone)
  else none

/-- Does a span of a job pass the end of the address range (Table 13.6)? -/
def skimOutside (compress : Bool) (j : Memory) : Bool :=
  decide (2 ^ 48 < jSrc j + jSlen j) || decide (2 ^ 48 < jDst j + jDcap j) ||
  (compress && jIdxen j && decide (2 ^ 48 < jIdx j + 8 * ceilDiv (jSlen j) (jBsize j)))

def skimNeeds (compress : Bool) (arg : Nat) (j : Memory) : List Need :=
  [⟨jSrc j, jSlen j, false⟩, ⟨jDst j, jDcap j, true⟩,
   ⟨jIdx j, if compress && jIdxen j then 8 * ceilDiv (jSlen j) (jBsize j) else 0, true⟩, ⟨arg + 0x30, 12, true⟩]

/-- OUTLEN 0 and FAILBLK of a job that ends other than DONE (R549): `blk` is the block being processed, 0 for a job that has not
begun. Nothing is written where the record's translation fails. -/
def State.skmVoid (p : Nat) (c : RingCmd) (blk : Nat) (s : State) : State :=
  (s.storeDva p (skmNiche c) (c.arg + 0x30) (leBytes 0 8 ++ leBytes blk 4)).2

/-- Jobs of a held ring complete ORDER_HELD at their turn (R457). -/
def State.skmDrain (p key : Nat) : Nat → State → State
  | 0, s => s
  | n + 1, s =>
    let r := s.ring p key
    if r.held ∧ r.more then
      let c := s.ringCmd p key r.take.toNat
      State.skmDrain p key n (((s.ringTake p key).skmVoid p c 0).ringDone p c cOrderHeld)
    else s

/-- The next command of a Skim ring. -/
def State.skmOffer (s : State) (p key : Nat) : Option (SkimJob ⊕ RingCmd) :=
  match (s.ped p).skmSaved.find? (fun j => j.cmd.ring == key) with
  | some j => some (.inl j)
  | none =>
    let r := s.ring p key
    if r.more ∧ ¬ r.held then some (.inr (s.ringCmd p key r.take.toNat)) else none

def State.skmPick (s : State) (p : Nat) : Option (SkimJob ⊕ RingCmd) :=
  if s.engRuns p 2 0 then (rangeFrom 0 4).findSome? (fun c => s.skmOffer p (ringKey 2 0 c)) else none

def State.skmSettleN (p : Nat) : Nat → State → State
  | 0, s => s
  | n + 1, s =>
    let s := (rangeFrom 0 4).foldl (fun s c => s.skmDrain p (ringKey 2 0 c) 65536) s
    match s.skmPick p with
    | some (.inr c) =>
      if s.badWithPlinth p hSkim then State.skmSettleN p n ((s.ringTake p c.ring).ringDone p c cUnsupported)
      else if c.op = 0 ∨ 2 < c.op then State.skmSettleN p n ((s.ringTake p c.ring).ringDone p c cBadDescriptor) else s
    | _ => s

def State.skmSettle (p : Nat) (s : State) : State := if (s.ped p).skmRun.isSome then s else s.skmSettleN p 65536

/-- A begun job ends: OUTLEN, and FAILBLK unless it is DONE (R549). -/
def State.skmEnd (p : Nat) (j : SkimJob) (code : Nat) (s : State) : State :=
  let s := s.dvaWrite p j.maps (j.cmd.arg + 0x30)
    (if code = cDone then leBytes j.outPos 8 else leBytes 0 8 ++ leBytes j.block 4)
  ((s.updPed p (fun x => { x with skmRun := none })).ringDone p j.cmd code).skmSettle p

/-- Is the job's work done? -/
def SkimJob.finished (j : SkimJob) : Bool :=
  if j.cmd.op = 2 ∧ jNblk j.jrec ≠ 0 then decide (jNblk j.jrec ≤ j.block) else decide (jSlen j.jrec ≤ j.inPos)

/-- Count bytes (Table 13.11). -/
def State.skmCount (p i o : Nat) (s : State) : State :=
  (s.updPed p (fun x => { x with skmIn := x.skmIn + BitVec.ofNat 64 i, skmOut := x.skmOut + BitVec.ofNat 64 o })).evP p 0x08 i

/-- Write a block's output; OUTPUT_FULL when it would pass DCAP (R549). -/
def State.skmPut (p : Nat) (j : SkimJob) (bs : List Byte) (s : State) : Nat × SkimJob × State :=
  if jDcap j.jrec < j.outPos + bs.length then (cOutputFull, j, s)
  else
    let t := s.dvaWrite p j.maps (jDst j.jrec + j.outPos) bs
    if slotLost s t then (cUncorrectable, j, t)
    else (cDone, { j with outPos := j.outPos + bs.length }, t.skmCount p 0 bs.length)

/-- The search memory reports an armed parity error (Table 13.10). -/
def State.skmSram (p niche : Nat) (s : State) : Nat × State :=
  let off := skmBlock p + 8
  if s.arm off 0 = 0 then (cDone, s)
  else (cUncorrectable, ((s.disarm off 0).skmFlag p 8).errUE { Rec.base 0x11 1 cUncorrectable (some p) (some niche) with synd := none })

/-- Compress the next block (R542, R547). -/
def State.packBlock (p : Nat) (j : SkimJob) (s : State) : Nat × SkimJob × State :=
  let n := min (jBsize j.jrec) (jSlen j.jrec - j.inPos)
  let (bs, k, s) := s.dvaRead p j.maps (skmNiche j.cmd) (jSrc j.jrec + j.inPos) n
  if k ≠ cDone then (k, j, State.skmNote s p k s)
  else
    let s := s.skmCount p n 0
    let (k, s) := if jLevel j.jrec ≠ 0 ∧ 4 ≤ n then s.skmSram p (skmNiche j.cmd) else (cDone, s)
    if k ≠ cDone then (k, j, s)
    else
      let start := j.outPos
      let (k, j', s) := s.skmPut p j (skimBlock (jLevel j.jrec) bs)
      if k ≠ cDone then (k, j, s)
      else
        let s := if jIdxen j.jrec then s.dvaWrite p j.maps (jIdx j.jrec + 8 * j.block) (leBytes start 8) else s
        (cDone, { j' with inPos := j'.inPos + n, block := j'.block + 1 }, s)

/-- Decompress the next block (R541, R548). -/
def State.unpackBlock (p : Nat) (j : SkimJob) (s : State) : Nat × SkimJob × State :=
  let left := jSlen j.jrec - j.inPos
  let bad := fun (s : State) => (cFormatError, j, s.skmFlag p 16)
  if left < 12 then bad s
  else
    let (h, k, s) := s.dvaRead p j.maps (skmNiche j.cmd) (jSrc j.jrec + j.inPos) 12
    if k ≠ cDone then (k, j, State.skmNote s p k s)
    else
      let hdr := leNat (h.take 4)
      let raw := leNat ((h.drop 4).take 4)
      let clen := hdr % 2 ^ 24
      if 2 ≤ hdr / 2 ^ 24 ∨ raw = 0 ∨ jBsize j.jrec < raw ∨ (hdr / 2 ^ 24 = 0 ∧ clen ≠ raw) ∨ left < 12 + clen then bad s
      else
        let (pay, k, s) := s.dvaRead p j.maps (skmNiche j.cmd) (jSrc j.jrec + j.inPos + 12) clen
        if k ≠ cDone then (k, j, State.skmNote s p k s)
        else
          let s := s.skmCount p (12 + clen) 0
          match skimUnblock hdr raw (leNat ((h.drop 8).take 4)) pay with
          | none => bad s
          | some o =>
            let (k, j', s) := s.skmPut p j o
            if k ≠ cDone then (k, j, s)
            else (cDone, { j' with inPos := j'.inPos + 12 + clen, block := j'.block + 1 }, s)

/-- Does a ring above the running job's have a job to take (R455)? -/
def State.skmHigher (s : State) (p : Nat) (j : SkimJob) : Bool :=
  (rangeFrom 0 (j.cmd.ring % 4)).any (fun c => (s.skmOffer p (ringKey 2 0 c)).isSome)

/-- Process up to `n` blocks; a boundary at which the job must give way or stop ends the run. -/
def State.skmBlocks (p : Nat) (j : SkimJob) : Nat → State → State
  | 0, s => s.updPed p (fun x => { x with skmRun := some j })
  | n + 1, s =>
    if j.finished then s.skmEnd p j cDone
    else if j.stop || s.skmHigher p j then s.updPed p (fun x => { x with skmRun := some j })
    else
      let s0 := s
      match (if j.cmd.op = 1 then s.packBlock p j else s.unpackBlock p j) with
      | (code, j', s) =>
        let s := if corrected s0 s then s.skmFlag p 1 else s
        if code ≠ cDone then s.skmEnd p j code
        else if j'.finished then s.skmEnd p j' cDone
        else State.skmBlocks p j' n s

/-- Start a fresh job (R546). -/
def State.skmStart (p : Nat) (c : RingCmd) (n : Nat) (s : State) : State :=
  let compress := c.op == 1
  let s := s.ringTake p c.ring
  let s0 := s
  let (eb, k0, s) := s.readRun (Rec.base 0 1 0 (some p) none) (ringAddr p (s.ring p c.ring) c.idx) 64
  let (b, k1, s) := if k0 = cDone then s.fetchDva p (skmNiche c) c.arg 64 else ([], k0, s)
  let j := recordOf b
  let refused := c.cen && !(s.niche (skmNiche c)).ownsCtr c.ctr
  let fail := fun (code : Nat) (s : State) =>
    ((State.skmNote s0 p code s).ringDone p c code).skmSettle p
  if k1 ≠ cDone then fail k1 s
  else
    match skimCheck (skimEntryBad eb) refused j with
    | some code =>
      if code = cDone then
        let (k, s) := s.storeDva p (skmNiche c) (c.arg + 0x30) (leBytes 0 8)
        fail k s
      else fail code s
    | none =>
      let (k, m, s) := s.needs p (skmNiche c) (skimNeeds compress c.arg j)
      let codes := (if skimOutside compress j then [cOutOfBounds] else []) ++ (if refused then [cPermission] else []) ++ k.toList
      match tableOrder codes with
      | some k => fail k s
      | none => (State.skmNote s0 p cDone s).skmBlocks p ⟨c, j, m, 0, 0, 0, false⟩ n

/-- Begin, resume or continue a job of an opcode and process up to `n` blocks. -/
def State.skmJob (p op n : Nat) (s : State) : State :=
  let s := s.skmSettle p
  match (s.ped p).skmRun with
  | some j => if j.cmd.op = op then s.skmBlocks p j n else s
  | none =>
    match s.skmPick p with
    | some (.inl j) =>
      if j.cmd.op = op then
        (s.updPed p (fun x => { x with skmSaved := x.skmSaved.filter (fun y => y.cmd ≠ j.cmd) })).skmBlocks p j n
      else s
    | some (.inr c) => if c.op = op then s.skmStart p c n else s
    | none => s

/-- COMPRESS: up to `n` blocks of a compression job (R542 to R549). -/
def execCompress (p : Fin 20) (n : Nat) (s : State) : Host.Outcome State Fault Refusal := .next (s.skmJob p.val 1 n)

/-- DECOMPRESS: up to `n` blocks of a decompression job (R541, R548). -/
def execDecompress (p : Fin 20) (n : Nat) (s : State) : Host.Outcome State Fault Refusal := .next (s.skmJob p.val 2 n)

/-- SKIM_BLOCK_BOUNDARY: a cancelled job ends, or a job of a higher ring pre-empts the running one (R550). -/
def execSkimBlockBoundary (p : Fin 20) (s : State) : Host.Outcome State Fault Refusal :=
  match (s.ped p.val).skmRun with
  | some j =>
    if j.stop then .next (s.skmEnd p.val j cCancelled)
    else if s.skmHigher p.val j then
      .next (s.updPed p.val (fun x => { x with skmRun := none, skmSaved := x.skmSaved ++ [j] }))
    else .next s
  | none => .next s

/-- SKM_RTAIL write (R496, R551). -/
def execSkmRtailWrite (p : Fin 20) (c : Fin 4) (v : BitVec 16) (s : State) : Host.Outcome State Fault Refusal :=
  s.engReg p.val 2 0 (fun s => (s.ringTail p.val (ringKey 2 0 c.val) v).skmSettle p.val)

/-- SKM_RCMD RESUME. -/
def execSkmResume (p : Fin 20) (c : Fin 4) (s : State) : Host.Outcome State Fault Refusal :=
  s.engReg p.val 2 0 (State.ringResume p.val (ringKey 2 0 c.val))

/-- R549 for the jobs of a ring that are about to end together: the begun ones of `begun`, and those that wait; `skip` end by
themselves. -/
def State.skmVoidRing (p key : Nat) (skip : List Nat) (begun : List SkimJob) (s : State) : State :=
  let r := s.ring p key
  let s := begun.foldl (fun s j => s.skmVoid p j.cmd j.block) s
  ((rangeFrom 0 (r.tail - r.take).toNat).map (fun i => (r.take + BitVec.ofNat 16 i).toNat)).foldl (fun s i =>
    if skip.contains i then s else s.skmVoid p (s.ringCmd p key i) 0) s

/-- Waiting and saved jobs of a ring complete CANCELLED; the running one stops at its next block boundary (R550). -/
def State.skmCancel (p : Fin 20) (c : Nat) (s : State) : State :=
  let key := ringKey 2 0 c
  let mine := fun (j : SkimJob) => j.cmd.ring == key
  let saved := (s.ped p.val).skmSaved.filter mine
  let run := match (s.ped p.val).skmRun with | some j => if mine j then [j.cmd.idx] else [] | none => []
  let s := s.updPed p.val (fun x => { x with
    skmSaved := x.skmSaved.filter (fun j => !mine j),
    skmRun := x.skmRun.map (fun j => if mine j then { j with stop := true } else j) })
  (((s.skmVoidRing p.val key run saved)).ringCancel p.val key run cCancelled).skmSettle p.val

/-- SKM_RCMD CANCEL. -/
def execSkmCancel (p : Fin 20) (c : Fin 4) (s : State) : Host.Outcome State Fault Refusal :=
  s.engReg p.val 2 0 (State.skmCancel p c.val)

end Sys2Proof.Machine
end

