-- ==== Sys2Proof/Machine/HostQ.lean ====
section
/-! DEFINITION. Host queues: fetch, JOBRUN, CASTLOAD, CASTDROP, queue registers and doorbells (R242 to R245, R565 to R583,
R598, R639, R640, R790). -/
namespace Sys2Proof.Machine
open Sys2Proof

/-! ## Which blocks a function reaches -/

/-- Start-up has reached the end of phase 6, and the rails are up (R759). -/
def State.pcieUp (s : State) : Bool := decide (7 ≤ s.pwr.phase)

/-- The whole of BAR0 and BAR2 is decoded once the module is ready (R759). -/
def State.allUp (s : State) : Bool := decide (11 ≤ s.pwr.phase)

/-- A request of function `f` arrives while its link is in DL_Active. It acts when memory decode is on (Table 14.1) and the
block decodes: `all` marks blocks that decode only once the module is ready (R759). -/
def State.host (f all : Bool) (g : State → State) (s : State) : Outcome :=
  if !(s.hif f).linkUp then .next s
  else
    let s := s.tlp f
    .next (if (s.hif f).d3 || !s.pcieUp || (all && !s.allUp) then s else g s)

/-! ## Entries (Tables 14.3, 14.4) -/

/-- Reserved bits of a host entry, by its OP (R568, R569, R573, R639, R790). -/
def hostBad (raw : Nat) (d : Desc) : Bool :=
  let ctr15 := d.cen && bitAt raw (48 * 8 + 15)
  match d.op with
  | 8 => bits raw 7 4 != 0 || bits raw 31 12 != 0 || bits raw 63 38 != 0 || bits raw 383 320 != 0 || bits raw 447 416 != 0 ||
      (d.bar && bits raw 319 296 != 0) || ctr15
  | 9 => bits raw 7 4 != 0 || bits raw 31 10 != 0 || bits raw 135 134 != 0 || bits raw 383 136 != 0 ||
      bits raw 447 416 != 0 || ctr15
  | 10 => bits raw 7 4 != 0 || bits raw 31 10 != 0 || bits raw 127 32 != 0 || bits raw 135 134 != 0 ||
      bits raw 383 136 != 0 || bits raw 447 416 != 0 || ctr15
  | _ => dmaBad true raw d

/-- Entries of an SQ whose CQ entries are not yet written (R571). -/
def State.sqUnwritten (s : State) (n : Nat) : Nat :=
  let q := s.sq n
  q.entries.length + ((s.cq (bits q.cfg.toNat 16 8)).heldC.filter (fun e => e.sq.toNat == n)).length

/-- May the SQ fetch (R571, R598, R760)? A fetch is a request of the function and needs its link and Bus Master Enable. -/
def State.canFetch (s : State) (n : Nat) : Option Bool :=
  let q := s.sq n
  match q.owner with
  | none => none
  | some f =>
    if bitAt q.cfg.toNat 31 ∧ ¬ q.stopped ∧ ¬ q.releasing ∧ (s.hif f).linkUp ∧ (s.hif f).bme ∧ s.allUp ∧ s.pwr.stop = 0 ∧
        q.head ≠ q.tail ∧ s.sqUnwritten n < 512 then some f else none

/-- R571. The next entry is read and takes the next sequence number. A failed read completes it at once and holds the SQ. -/
def State.fetch (n : Fin 512) (f : Bool) (s : State) : State :=
  let q := s.sq n.val
  let seq := q.next
  let a := q.base.toNat + 64 * (q.head.toNat % 2 ^ sqSize q)
  let r := s.hostRead (s.qRec (.sq n) seq.toNat) f a 64
  let s := r.2.2
  let e := { Entry.new seq.toNat (Desc.ofBytes r.1 hostBad) s.now with fn := f }
  let s := s.updSq n.val (fun q => { q with head := q.head + 1, next := q.next + 1,
                                            entries := q.entries ++ [if r.2.1 = cDone then e else { e with blind := true }] })
  if r.2.1 = cDone then s else s.completeEntry (.sq n) seq.toNat r.2.1 false true

def execSqFetch (n : Fin 512) (e : HostErr) (s : State) : Outcome :=
  match s.canFetch n.val with
  | some f => .next ((s.hostFault f e).fetch n f)
  | none => .next s

/-! ## JOBRUN (R573, R574, R639, R640) -/

def State.cast (s : State) (niche h : Nat) : Option Cast := Tbl.get none s.casts (64 * niche + h)

/-- Group entry that a barrier JOBRUN names. -/
def State.grp (s : State) (g : Nat) : Grp := Tbl.get Grp.reset s.lath.groups g

def Grp.gid (g : Grp) : Nat := bits g.bg.toNat 15 0
def Grp.leader (g : Grp) : Nat := bits g.bg.toNat 31 16
def Grp.nmem (g : Grp) : Nat := bits g.bg.toNat 39 32

/-- The waiting entry of an SQ that is checked next, if it is of this kind (R569). -/
def State.nextOp (s : State) (n : Fin 512) (op : Nat) : Option Entry :=
  match s.nextCheck (.sq n) with
  | some e => if e.desc.op = op then some e else none
  | none => none

/-- The conditions of R573 that need no read; none: they are met. -/
def State.jobrunCode (s : State) (n : Fin 512) (d : Desc) : Option Nat :=
  let nc := s.qNiche (.sq n)
  if d.bad || d.args % 64 != 0 || (s.cast nc (d.handle % 64)).isNone || (d.bar && (s.grp (d.bgrp % 256)).nmem == 0) then
    some cBadDescriptor
  else if d.cen && !(s.niche nc).ownsCtr d.ctr then some cPermission
  else if d.bar && (s.lath.notime || s.lath.nocomref) then some cUnsupported
  else none

/-- Words of s0 to s7 (R573). -/
def argWords (bs : List Byte) : List (BitVec 64) :=
  (rangeFrom 0 8).map (fun i => BitVec.ofNat 64 (leNat ((bs.drop (8 * i)).take 8)))

/-- An accepted JOBRUN: its job is staged; a higher class asks for pre-emption (R252); a barrier counts its instance
(R640). -/
def State.acceptJob (n : Fin 512) (seq : Nat) (d : Desc) (c : Cast) (argv : List (BitVec 64)) (s : State) : State :=
  let nc := s.qNiche (.sq n)
  let j := s.nextJob
  let jb : Job :=
    { st := .staged, niche := nc, cls := (s.niche nc).cls, cast := c, args := argv, seed := d.seed, tlimit := d.tlimit
      nonres := d.nonres, sq := n.val, seq := seq, bar := d.bar, bgrp := d.bgrp % 256, stopCode := cDone, failCode := none
      stopIdx := none, preCast := none, inPlace := false, saved := [], savedClus := [], order := j }
  let s := s.qUpd (.sq n) seq (fun e => { e with phase := .accepted, job := some j, argv := argv, doomed := (s.qHeld (.sq n)).isSome })
  let s := { s with nextJob := j + 1 }.setJob j (some jb)
  let s := if d.bar then
      let g := s.grp (d.bgrp % 256)
      { s with lath := { s.lath with groups := Tbl.set Grp.reset (d.bgrp % 256) { g with inst := g.inst + 1 } s.lath.groups
                                     waits := s.lath.waits ++ [⟨j, d.bgrp % 256, g.inst + 1, false, none⟩] } }
    else s
  if (s.qHeld (.sq n)).isSome then s else s.requestPreempt jb

/-- The check of the next JOBRUN ends. A request that reaches the target of a running reset completes RESET_ABORT (R660). -/
def State.jobrun (n : Fin 512) (e : Entry) (s : State) : State :=
  match s.jobrunCode n e.desc, s.cast (s.qNiche (.sq n)) (e.desc.handle % 64) with
  | some c, _ => s.completeEntry (.sq n) e.seq c false true
  | none, none => s.completeEntry (.sq n) e.seq cBadDescriptor false true
  | none, some cast =>
    let r := s.hostRead (s.qRec (.sq n) e.seq) e.fn e.desc.args 64
    let s := r.2.2
    if r.2.1 ≠ cDone then s.completeEntry (.sq n) e.seq r.2.1 false true
    else if s.ras.rsts.any (fun rr => cast.clus.any rr.onClus) then
      s.completeEntry (.sq n) e.seq cResetAbort false true
    else s.acceptJob n e.seq e.desc cast (argWords r.1)

/-- Will the check of this JOBRUN read ARGS? -/
def State.readsArgs (s : State) (n : Fin 512) (d : Desc) : Bool := (s.jobrunCode n d).isNone

def execJobrun (n : Fin 512) (e : HostErr) (s : State) : Outcome :=
  match s.nextOp n 8 with
  | some x => .next ((if s.readsArgs n x.desc then s.hostFault x.fn e else s).jobrun n x)
  | none => .next s

/-! ## Cast loading (R242 to R245, R574, R790) -/

/-- A cast being read: its bytes, and little-endian fields of them. -/
def le4 (m : Memory) (o : Nat) : Nat := m.le o 4

/-- Core-image descriptor at `o` (Table 06.6b); none when it breaks its ranges. -/
def coreImg (m : Memory) (len csf o : Nat) : Option CoreImg :=
  let icnt := le4 m o
  let ioff := le4 m (o + 4)
  let soff := le4 m (o + 8)
  let slen := le4 m (o + 12)
  let coff := le4 m (o + 16)
  let clen := le4 m (o + 20)
  if icnt = 0 ∨ 4096 < icnt ∨ len < ioff + 32 * icnt ∨ (soff = 0 ∧ slen ≠ 0) ∨ slen % 8 ≠ 0 ∨ 0x20000 < slen ∨
      (soff ≠ 0 ∧ len < soff + slen) ∨ csf * 0x10000 < clen ∨ len < coff + clen ∨ m.le (o + 24) 8 ≠ 0 then none
  else some ⟨icnt, m.bytes ioff (32 * icnt), if soff = 0 then [] else m.bytes soff slen, m.bytes coff clen⟩

/-- Cluster-image descriptor at `o` (Table 06.6a). -/
def clusImg (m : Memory) (len clf o : Nat) : Option (List Byte) :=
  let koff := le4 m o
  let klen := le4 m (o + 4)
  if clf * 0x10000 < klen ∨ len < koff + klen ∨ m.le (o + 8) 8 ≠ 0 then none else some (m.bytes koff klen)

/-- All or none. -/
def allSome {α : Type} : List (Option α) → Option (List α)
  | [] => some []
  | none :: _ => none
  | some x :: xs => (allSome xs).map (x :: ·)

/-- Are the entries of a list distinct? -/
def distinct : List Nat → Bool
  | [] => true
  | x :: xs => !xs.contains x && distinct xs

/-- A required static slot (Table 06.6a). -/
structure NeedSlot where
  k : Nat
  sclus : Nat
  sped : Nat
  route : Nat
  deriving DecidableEq, Repr

/-- The header's ranges, the regions and their entries (row 5 of Table 06.7): none when one is broken. A cluster that the
cluster table repeats and a region past the header's LEN break them too (DESIGN CHOICE, log 113). -/
def castParse (m : Memory) (len dshare : Nat) : Option (Cast × List NeedSlot) :=
  let ncore := m.le 8 1
  let nclus := m.le 0x0A 2
  let csf := m.le 0x0C 2
  let clf := m.le 0x0E 2
  let nctr := le4 m 0x10
  let ctrOff := le4 m 0x14
  let clusOff := le4 m 0x18
  let slotOff := le4 m 0x1C
  let imgOff := le4 m 0x20
  if len < 0x40 ∨ ncore = 0 ∨ 14 < ncore ∨ nclus = 0 ∨ 160 < nclus ∨ csf = 0 ∨ 32 < csf ∨ 104 < clf ∨ m.le 9 1 ≠ 0 ∨
      m.le 0x2C 20 ≠ 0 ∨ len < ctrOff + 8 * nctr ∨ len < clusOff + 2 * nclus ∨ len < slotOff + 8 ∨
      len < imgOff + 32 * nclus * ncore + 16 * nclus then none
  else
    let ctrs := (rangeFrom 0 nctr).map (fun i => m.le (ctrOff + 8 * i) 8)
    let cl := (rangeFrom 0 nclus).map (fun i => m.le (clusOff + 2 * i) 2)
    let keys := cl.map (fun e => bits e 12 8 * 8 + bits e 2 0)
    let nreq := le4 m slotOff
    if ctrs.any (fun e => bits e 31 15 != 0) ∨ cl.any (fun e => bits e 7 3 != 0 || bits e 15 13 != 0) ∨
        ¬ distinct keys ∨ le4 m (slotOff + 4) ≠ 0 ∨ len < slotOff + 8 + 8 * nreq then none
    else
      let reqs := (rangeFrom 0 nreq).map (fun i => m.le (slotOff + 8 + 8 * i) 8)
      if reqs.any (fun e => decide (bits e 11 0 < dshare) || bitAt e 15 || bits e 31 21 != 0 ||
          bits e 63 44 != 0) then none
      else
        match allSome ((rangeFrom 0 (nclus * ncore)).map (fun i => coreImg m len csf (imgOff + 32 * i))),
            allSome ((rangeFrom 0 nclus).map (fun i => clusImg m len clf (imgOff + 32 * nclus * ncore + 16 * i))) with
        | some imgs, some cls =>
          some ({ ncore := ncore, clus := keys, csf := csf, clf := clf
                  ctrs := ctrs.map (fun e => (e % 2 ^ 15, BitVec.ofNat 32 (e / 2 ^ 32))), imgs := imgs, climgs := cls },
                reqs.map (fun e => ⟨bits e 11 0, bits e 14 12, bits e 20 16, bits e 43 32⟩))
        | _, _ => none

/-- R244: the code of the first condition of Table 06.7, or the cast. `sup`: length of the supplied buffer. -/
def State.loadCast (s : State) (niche sup : Nat) (bs : List Byte) : Nat × Option Cast :=
  let m := recordOf bs
  let len := le4 m 0x24
  if sup < 0x40 then (cOutOfBounds, none)
  else if le4 m 0 ≠ 0x43435946 ∨ bits (le4 m 4) 31 16 ≠ 1 then (cFormatError, none)
  else if sup < len ∨ sup < le4 m 0x14 ∨ sup < le4 m 0x18 ∨ sup < le4 m 0x1C ∨ sup < le4 m 0x20 then (cOutOfBounds, none)
  else if crc32 (m.bytes 0x40 (len - 0x40)) ≠ BitVec.ofNat 32 (le4 m 0x28) then (cFormatError, none)
  else
    match castParse m len s.dshare with
    | none => (cBadDescriptor, none)
    | some (c, reqs) =>
      if s.active < c.ncore then (cUnsupported, none)
      else if !c.clus.all (s.niche niche).has || !c.ctrs.all (fun x => (s.niche niche).ownsCtr x.1) ||
          !reqs.all (fun r => decide (r.sped < 20) && isRouteSlot s.slots s.dshare r.sped r.sclus r.route r.k &&
            routeOwned s.slots s.dshare r.sped r.sclus r.route niche) then (cPermission, none)
      else (cDone, some c)

/-- A handle whose cast belongs to a resident, suspended or accepted job (R574): the jobs that submissions named by it. -/
def State.castBusy (s : State) (niche h : Nat) : Bool :=
  s.sqs.any (fun kv => bits kv.2.cfg.toNat 21 17 == niche && kv.2.entries.any (fun e =>
    e.desc.op == 8 && e.job.isSome && e.phase != .complete && e.desc.handle % 64 == h))

/-- HANDLE byte of CASTLOAD and CASTDROP. -/
def Desc.castHandle (d : Desc) : Nat := d.seed.toNat % 64

/-- May a cast entry act: with FENCE, once every earlier entry has completed (R572)? -/
def State.fenceMet (s : State) (q : QRef) (e : Entry) : Bool :=
  let es := s.qEntries q
  !e.desc.fence || (es.take ((es.map (·.seq)).findIdx (· == e.seq))).all (fun x => x.phase == .complete)

/-- The bytes of a cast at SRC: the code of the check of the span and of the reads, the bytes, and the state. No more than
the header's LEN is read. -/
def State.castRead (q : QRef) (seq : Nat) (d : Desc) (s : State) : Nat × List Byte × State :=
  if d.len = 0 then (cDone, [], s)
  else
    let r := s.resolveDva (s.qRec q seq) (s.qPed q) (s.qNiche q) false d.src 0 d.len 1
    match tableOrder r.codes with
    | some c => (c, [], r.st)
    | none =>
      let rd := fun (a n : Nat) (s : State) =>
        (pagePieces (2 ^ 16) (n + 1) a n).foldl (fun (acc : List Byte × Nat × State) pc =>
          match mapDva r.map pc.1 with
          | some x =>
            let (b, c, s) := acc.2.2.farRead (s.qPed q) (s.qRec q seq) x pc.2
            (acc.1 ++ b, if acc.2.1 = cDone then c else acc.2.1, s)
          | none => acc) (([], cDone, s) : List Byte × Nat × State)
      let h := rd d.src (min d.len 0x40) r.st
      if h.2.1 ≠ cDone ∨ d.len < 0x40 then (h.2.1, h.1, h.2.2)
      else
        let want := min d.len (leNat ((h.1.drop 0x24).take 4))
        if want ≤ 0x40 then (cDone, h.1, h.2.2)
        else
          let t := rd (d.src + 0x40) (want - 0x40) h.2.2
          (t.2.1, h.1 ++ t.1, t.2.2)

/-- Complete a cast entry; a cast that passed is staged as a record of its own (R245; DESIGN CHOICE, log 114: the manual gives
the staged images no address). One that passed every check on a held SQ does nothing and completes ORDER_HELD at retirement
(R425, R790). -/
def State.castEnd (q : QRef) (e : Entry) (code key : Nat) (c : Option Cast) (s : State) : State :=
  if code ≠ cDone then s.completeEntry q e.seq code false true
  else if (s.qHeld q).isSome then s.qUpd q e.seq (fun e => { e with phase := .accepted, doomed := true })
  else ({ s with casts := Tbl.set none key c s.casts }).completeEntry q e.seq cDone false false

/-- Conditions 1 to 3 of R790. -/
def State.castCode (s : State) (n : Fin 512) (d : Desc) : Option Nat :=
  let nc := s.qNiche (.sq n)
  if d.bad then some cBadDescriptor
  else if d.cen && !(s.niche nc).ownsCtr d.ctr then some cPermission
  else if s.castBusy nc d.castHandle then some cBusy else none

/-- R574, R790. -/
def execCastload (n : Fin 512) (s : State) : Outcome :=
  match s.nextOp n 9 with
  | none => .next s
  | some e =>
    if !s.fenceMet (.sq n) e then .next s
    else
      let nc := s.qNiche (.sq n)
      let key := 64 * nc + e.desc.castHandle
      match s.castCode n e.desc with
      | some c => .next (s.castEnd (.sq n) e c key none)
      | none =>
        let r := s.castRead (.sq n) e.seq e.desc
        if r.1 ≠ cDone then .next (r.2.2.castEnd (.sq n) e r.1 key none)
        else
          let l := r.2.2.loadCast nc e.desc.len r.2.1
          .next (r.2.2.castEnd (.sq n) e l.1 key l.2)

/-- R574, R790. -/
def execCastdrop (n : Fin 512) (s : State) : Outcome :=
  match s.nextOp n 10 with
  | none => .next s
  | some e =>
    if !s.fenceMet (.sq n) e then .next s
    else .next (s.castEnd (.sq n) e ((s.castCode n e.desc).getD cDone) (64 * s.qNiche (.sq n) + e.desc.castHandle) none)

/-! ## Host-read timeouts (R582) -/

/-- The completion timeout of a read of host memory expires: of the next fetch, of the ARGS of the JOBRUN under check, or of
a COPY that is moving bytes. While the function's timeout is disabled none expires (Table 14.1). -/
def execHostReadTimeout (n : Fin 512) (seq : Option (BitVec 32)) (s : State) : Outcome :=
  let late := fun (f : Bool) (s : State) => s.setArm 0x38 (if f then 1 else 0) 3
  if (match (s.sq n.val).owner with | some f => (s.hif f).cfg.ctoOff | none => true) then .next s
  else match seq with
  | none =>
    match s.canFetch n.val with
    | some f => .next ((late f s).fetch n f)
    | none => .next s
  | some q =>
    match s.qEntry (.sq n) q.toNat with
    | none => .next s
    | some e =>
      if e.phase = .waiting ∧ (s.nextOp n 8).map (·.seq) = some e.seq then
        .next ((if s.readsArgs n e.desc then late e.fn s else s).jobrun n e)
      else if e.phase = .running ∧ e.desc.op = 1 ∧ e.desc.sk = 2 ∧ e.moved < e.desc.bytes then
        let s := (late e.fn s).moveChunk (.sq n) e.seq
        .next (s.completeEntry (.sq n) e.seq cTimeout false false)
      else .next s

/-! ## Queue registers (R565 to R567, R581, Tables 14.17 to 14.19) -/

/-- May function `f` write a queue's registers: does no other function own it (R565)? -/
def mayWrite (f : Bool) (owner : Option Bool) : Bool := owner == none || owner == some f

/-- Bits of HIF_SQCFG and HIF_CQCFG that a write sets. -/
def sqCfgMask : BitVec 32 := 0x87FFFF0F
def cqCfgMask : BitVec 32 := 0xCFF7FF0F

/-- R566: may function `f` enable an SQ with this configuration? -/
def State.sqCfgOk (s : State) (f : Bool) (v : BitVec 32) : Bool :=
  let w := v.toNat
  let c := s.cq (bits w 16 8)
  bitAt c.cfg.toNat 31 && !c.releasing && c.owner == some f && (s.niche (bits w 21 17)).owner == some f &&
  decide (bits w 26 22 ≤ 19) && decide (4 ≤ bits w 3 0)

/-- Set SIZE only. -/
def withSize (old new : BitVec 32) : BitVec 32 := (old &&& 0xFFFFFFF0) ||| (new &&& 0xF)

/-- HIF_SQCFG_q (R565 to R567). Enabling starts the ring at index 0. -/
def State.sqcfg (f : Bool) (n : Nat) (v : BitVec 32) (s : State) : State :=
  let q := s.sq n
  if !mayWrite f q.owner || q.releasing then s
  else
    let on := bitAt q.cfg.toNat 31
    if bitAt v.toNat 31 then
      if !s.sqCfgOk f v then s.setSq n { q with cfgerr := true }
      else if on then s.setSq n { q with cfg := if q.stopped then withSize q.cfg v else q.cfg, cfgerr := false }
      else s.setSq n { q with cfg := v &&& sqCfgMask, cfgerr := false, owner := some f, head := 0, tail := 0
                              stopped := false, held := none }
    else if on then
      if !q.entries.isEmpty then s
      else s.setSq n { q with cfg := (if q.stopped then withSize q.cfg v else q.cfg) &&& 0x7FFFFFFF, cfgerr := false, owner := none
                              held := none, stopped := false, tail := q.head }
    else s.setSq n { q with cfg := v &&& sqCfgMask, cfgerr := false }

def execHifSqcfgWrite (f : Bool) (n : Fin 512) (v : BitVec 32) (s : State) : Outcome := s.host f true (State.sqcfg f n.val v)

/-- HIF_CQCFG_q (R565 to R567, R576). -/
def State.cqcfg (f : Bool) (n : Nat) (v : BitVec 32) (s : State) : State :=
  let c := s.cq n
  if !mayWrite f c.owner || c.releasing then s
  else
    let on := bitAt c.cfg.toNat 31
    let w := v &&& cqCfgMask
    if bitAt v.toNat 31 then
      if bits v.toNat 3 0 < 4 then s.setCq n { c with cfgerr := true }
      else if on then s.setCq n { c with cfg := if c.stopped then w else withSize w c.cfg, cfgerr := false }
      else s.setCq n { c with cfg := w, cfgerr := false, owner := some f, head := 0, tail := 0
                              phase := true, stopped := false, aggBusy := false, aggPend := false }
    else if on then
      if !c.heldC.isEmpty || s.sqs.any (fun kv => bitAt kv.2.cfg.toNat 31 && bits kv.2.cfg.toNat 16 8 == n) then s
      else s.setCq n { c with cfg := if c.stopped then w else withSize w c.cfg, cfgerr := false, owner := none, stopped := false }
    else s.setCq n { c with cfg := w, cfgerr := false }

def execHifCqcfgWrite (f : Bool) (n : Fin 512) (v : BitVec 32) (s : State) : Outcome := s.host f true (State.cqcfg f n.val v)

/-- SQ doorbell (R581, R598). -/
def State.sqtail (f : Bool) (n : Nat) (v : BitVec 32) (s : State) : State :=
  let q := s.sq n
  if !mayWrite f q.owner || q.stopped || q.releasing || !bitAt q.cfg.toNat 31 then s
  else
    let t := v.setWidth 16
    if 2 ^ sqSize q < (t - q.head).toNat then s.setSq n { q with overrun := true } else s.setSq n { q with tail := t }

def execHifSqtailWrite (f : Bool) (n : Fin 512) (v : BitVec 32) (s : State) : Outcome := s.host f true (State.sqtail f n.val v)

/-- CQ head doorbell (R577, R581). -/
def State.cqhead (f : Bool) (n : Nat) (v : BitVec 32) (s : State) : State :=
  let c := s.cq n
  if !mayWrite f c.owner || c.releasing then s
  else
    let t := v.setWidth 16
    if (c.tail - c.head).toNat < (t - c.head).toNat then s.setCq n { c with overrun := true }
    else (s.setCq n { c with head := t }).cqDrain n

def execHifCqheadWrite (f : Bool) (n : Fin 512) (v : BitVec 32) (s : State) : Outcome := s.host f true (State.cqhead f n.val v)

/-- R426, R578. -/
def State.sqResume (f : Bool) (n : Fin 512) (s : State) : State :=
  if (s.sq n.val).owner != some f then s else (s.updSq n.val (fun q => { q with overrun := false })).qResume (.sq n)

def execSqResume (f : Bool) (n : Fin 512) (s : State) : Outcome := s.host f true (State.sqResume f n)

/-- The barrier wait of a job ends. -/
def State.dropWait (j : Nat) (s : State) : State :=
  { s with lath := { s.lath with waits := s.lath.waits.filter (fun w => w.job != j) } }

/-- End every JOBRUN of an SQ with a code: a job that has not started completes at once, any other stops (R221, R579). -/
def State.stopJobs (n : Fin 512) (code : Nat) (s : State) : State :=
  s.jobs.foldl (fun s kv => match kv.2 with
    | some j =>
      if j.sq = n.val then
        (if j.st = .staged then ((s.setJob kv.1 none).dropWait kv.1).completeEntry (.sq n) j.seq code false true
         else s.stopJob kv.1 code none)
      else s
    | none => s) s

/-- R427, R579. -/
def State.sqCancel (f : Bool) (n : Fin 512) (s : State) : State :=
  if (s.sq n.val).owner != some f then s
  else (((s.updSq n.val (fun q => { q with overrun := false })).qCancel (.sq n)).stopJobs n cCancelled).retireAll (.sq n)

def execSqCancel (f : Bool) (n : Fin 512) (s : State) : Outcome := s.host f true (State.sqCancel f n)

/-- R598. -/
def State.sqStart (f : Bool) (n : Nat) (s : State) : State :=
  let q := s.sq n
  if q.owner != some f || !q.stopped || q.releasing then s
  else s.setSq n { q with head := 0, tail := 0, stopped := false, overrun := false }

def execSqStart (f : Bool) (n : Fin 512) (s : State) : Outcome := s.host f true (State.sqStart f n.val)

/-- R598. -/
def State.cqStart (f : Bool) (n : Nat) (s : State) : State :=
  let c := s.cq n
  if c.owner != some f || !c.stopped || c.releasing then s
  else (s.setCq n { c with tail := 0, head := 0, phase := true, stopped := false, overrun := false }).cqDrain n

def execCqStart (f : Bool) (n : Fin 512) (s : State) : Outcome := s.host f true (State.cqStart f n.val)

/-- R580. The aggregation interval of a CQ ends: one message stands for what was written during it. -/
def execMsixAggregationEnd (n : Fin 512) (s : State) : Outcome :=
  let c := s.cq n.val
  if !c.aggBusy then .next s
  else if !c.aggPend then .next (s.setCq n.val { c with aggBusy := false })
  else .next ((s.setCq n.val { c with aggBusy := false, aggPend := false }).cqNotify n.val)

end Sys2Proof.Machine
end

