-- ==== Sys2Proof/Machine/HostPort.lean ====
section
/-! DEFINITION. PCIe ports: the event ring's registers, BAR2, links, resets of a function and configuration space (R553 to
R564, R580, R585 to R587, R597, R601, R772). -/
namespace Sys2Proof.Machine
open Sys2Proof

/-! ## Event ring registers (R585, R587) -/

def evCfgMask : BitVec 32 := 0x87FF000F

/-- HIF_EVCFG. A SIZE that Table 14.14 excludes makes the write ignored; enabling the ring starts it anew, and a held TAKEN
is posted then. -/
def State.evcfg (f : Bool) (v : BitVec 32) (s : State) : State :=
  let h := s.hif f
  let sz := bits v.toNat 3 0
  if (1 ≤ sz ∧ sz ≤ 3) ∨ 13 ≤ sz then s
  else
    let fresh := decide (evSize h = 0) && decide (sz ≠ 0)
    let h := { h with evcfg := v &&& evCfgMask }
    let h := if fresh then { h with evhead := 0, evtail := 0, evphase := true } else h
    let s := s.setHif f h
    match h.taken with
    | some m => if sz ≠ 0 then s.postTaken f 0 else s.setHif f { h with taken := some m }
    | none => s

def execHifEvcfgWrite (f : Bool) (v : BitVec 32) (s : State) : Outcome := s.host f true (State.evcfg f v)

/-- Who reads: the number of a function in the log of outputs. -/
def fnNum (f : Bool) : Nat := if f then 1 else 0

/-- Answer a read with a word. -/
def State.answer (f : Bool) (v : Nat) (s : State) : State := s.send (.read (fnNum f) (leBytes v 4) false)

/-- HIF_EVLOST is read, then clears; events of the same cycle stay recorded and out of the value (R16, R17, R587). -/
def State.evlostTake (f : Bool) (s : State) : Nat × State :=
  let new := (s.freshAt (fnReg f evlostOff)).setWidth 32
  (((s.hif f).evlost - new).toNat, (s.updHif f (fun h => { h with evlost := new })).unmark (fnReg f evlostOff))

def State.evlostRead (f : Bool) (s : State) : State := (s.evlostTake f).2.answer f (s.evlostTake f).1

def execHifEvlostRead (f : Bool) (s : State) : Outcome := s.host f true (State.evlostRead f)

/-! ## BAR2 (R560 to R563) -/

/-- HIF_B2BASE keeps the bits between the BAR2 size and bit 48 (R560). -/
def b2Mask (log : Nat) (v : BitVec 64) : BitVec 64 := BitVec.ofNat 64 (v.toNat % 2 ^ 48 / 2 ^ log * 2 ^ log)

/-- Does BAR2 reach an MPA (R561)? -/
def State.b2Reach (s : State) (a : Nat) : Bool :=
  match s.loc a with
  | .hbm _ => true
  | .plinth _ _ => true
  | _ => false

def State.b2Err (f : Bool) (s : State) : State :=
  (s.updHif f (fun h => { h with err := h.err ||| 1 })).mark (fnReg f 0x0C) 1

/-- Is an MPA in a running reset? A read of it returns 0 and a write is discarded, as for BAR0 (R660; DESIGN CHOICE, log 119). -/
def State.b2Reset (s : State) (a : Nat) : Bool := s.ras.rsts.any (fun r => r.hits (s.loc a))

/-- The pieces of a run that 64-byte segments cut, each within reach of BAR2 or not. -/
def State.b2Read (f : Bool) (a n : Nat) (s : State) : List Byte × Bool × State :=
  (segPieces (n + 1) a n).foldl (fun (acc : List Byte × Bool × State) p =>
    let s := acc.2.2
    if s.b2Reset p.1 then (acc.1 ++ List.replicate p.2 0, acc.2.1, s)
    else if s.b2Reach p.1 then
      let r := s.farRead (16 + fnNum f) (Rec.base 0 2 0 none none) p.1 p.2
      (acc.1 ++ r.1, acc.2.1 || r.2.1 != cDone, r.2.2)
    else (acc.1 ++ List.replicate p.2 0, acc.2.1, s.b2Err f)) ([], false, s)

/-- R560 to R562. A read of `len` bytes, at most 4,096, inside BAR2. -/
def State.bar2Read (f : Bool) (off len : Nat) (s : State) : State :=
  let h := s.hif f
  if 4096 < len ∨ 2 ^ h.b2log < off + len then s
  else
    let r := s.b2Read f (h.b2base.toNat + off) len
    r.2.2.send (.read (fnNum f) r.1 r.2.1)

def execBar2Read (f : Bool) (off : BitVec 64) (len : Nat) (s : State) : Outcome := s.host f true (State.bar2Read f off.toNat len)

/-- Write one segment piece; a slot of the dynamic share that is lost delivers none of it (R43, R649). -/
def State.b2WritePiece (f ep : Bool) (a : Nat) (bs : List Byte) (s : State) : State :=
  if s.b2Reset a then s
  else if s.b2Reach a then
    let r := s.dynCross (Rec.base 0 2 0 none none) (16 + fnNum f) (s.spotPed (.mpa a))
    let s := r.2
    if r.1 then s
    else if ep then (s.mpaWriteRun (fun _ => false) a bs).markPoison a bs.length else State.mpaStore a bs s
  else s.b2Err f

/-- R561, R563. -/
def State.b2Write (f ep : Bool) (a : Nat) (bs : List Byte) (s : State) : State :=
  ((segPieces (bs.length + 1) a bs.length).foldl (fun (acc : List Byte × State) p =>
    (acc.1.drop p.2, acc.2.b2WritePiece f ep p.1 (acc.1.take p.2))) (bs, s)).2

/-- An armed HIF_INJ_AER with DOUBLE 1 makes the write count as poisoned. A poisoned write is recorded (Table 16.1). Page-table
reads of the same CK_M cycle come first (R409). -/
def State.bar2Write (f : Bool) (off : Nat) (bs : List Byte) (ep : Bool) (s : State) : State :=
  let s := s.advance s.now
  let h := s.hif f
  if 2 ^ h.b2log < off + bs.length then s
  else
    let inj := s.arm 0x3C (fnNum f) = 2
    let s := if inj then s.disarm 0x3C (fnNum f) else s
    let s := if ep ∨ inj then
        (s.aerUnc f aerPoisoned true).errUE { Rec.base 0x16 2 0 (some (16 + fnNum f)) none with unit := fnNum f, addr := h.b2base.toNat + off, aspace := 1 }
      else s
    s.b2Write f (ep || inj) (h.b2base.toNat + off) bs

def execBar2Write (f : Bool) (off : BitVec 64) (bs : List Byte) (ep : Bool) (s : State) : Outcome :=
  s.host f true (State.bar2Write f off.toNat bs ep)

/-- A Resizable BAR change (R560): 2^`n` GiB. -/
def execBar2Resize (f : Bool) (n : Fin 7) (s : State) : Outcome :=
  if !(s.hif f).linkUp then .next s
  else .next (s.updHif f (fun h => { h with b2log := 30 + n.val, b2base := b2Mask (30 + n.val) h.b2base }))

/-! ## Link loss and return (R580, R597) -/

/-- Is an SQ or CQ in use by function `f`? -/
def ownedBy (f : Bool) (o : Option Bool) : Bool := o == some f

/-- The event ring is cleared (R587). -/
def Hif.clearEvents (h : Hif) : Hif :=
  { h with evbase := 0, evcfg := 0, evhead := 0, evtail := 0, evphase := false, evlost := 0 }

/-- The mailbox is cleared; an outstanding command completes, and its acknowledgement is discarded (Table 14.9; for link
loss DEDUCED). -/
def Mbx.cleared (m : Mbx) : Mbx := { Mbx.reset with cmd := m.cmd, reply := m.reply, drop := m.cmd.isSome || m.drop }

/-- Niches that a function owns, as a mask (Table 14.12). -/
def State.nicheMask (s : State) (f : Bool) : Nat :=
  (rangeFrom 0 32).foldl (fun m n => if (s.niche n).owner = some f then m + 2 ^ n else m) 0

/-- Has an entry bytes still to read from or write to host memory, or is it a JOBRUN not yet accepted (R597)? -/
def Entry.needsHost (f : Bool) (e : Entry) : Bool :=
  e.fn == f && match e.desc.op with
  | 1 => (e.desc.sk == 2 || e.desc.dk == 2) && decide (e.moved < e.desc.bytes)
  | 2 => e.desc.dk == 2 && decide (e.moved < e.desc.bytes)
  | 8 => e.phase == .waiting
  | _ => false

/-- Queue numbers as queue references. -/
def sqRefs (s : State) (f : Bool) : List (Fin 512) :=
  s.sqs.filterMap (fun kv => if h : kv.1 < 512 then (if ownedBy f kv.2.owner then some ⟨kv.1, h⟩ else none) else none)

/-- What R597 does to the queues of a function. -/
def State.stopQueues (f : Bool) (s : State) : State :=
  let qs := sqRefs s f
  let s := qs.foldl (fun s n => (s.updSq n.val (fun q => { q with stopped := true, tail := q.head })).qAbort (.sq n) cResetAbort (Entry.needsHost f)) s
  { s with cqs := Tbl.map Cq.reset (fun _ c => if ownedBy f c.owner then { c with stopped := true } else c) s.cqs }

/-- R597, for a link that was up. -/
def State.linkLoss (f : Bool) (s : State) : State :=
  let s := s.stopQueues f
  let s := s.updHif f (fun h => { h.clearEvents with linkUp := false, mbx := h.mbx.cleared })
  s.postEvent (!f) 0x02 (s.nicheMask f) 0

def execLinkDown (f : Bool) (s : State) : Outcome := .next (if (s.hif f).linkUp then s.linkLoss f else s)

/-- A link comes up once its PERST_N is high and phase 6 of start-up has begun, on a module that runs (R597, R772). -/
def State.linkRise (f : Bool) (s : State) : State :=
  let s := s.updHif f (fun h => { h with linkUp := true })
  (s.postEvent (!f) 0x03 0 0).flushMsix f

def execLinkUp (f : Bool) (s : State) : Outcome :=
  let h := s.hif f
  if h.linkUp ∨ ¬ h.perstN ∨ s.pwr.phase < 6 ∨ s.pwr.stop ≠ 0 ∨ s.bad (if f then 17 else 16) hPcie then .next s
  else .next (s.linkRise f)

/-! ## Function Level Reset (Table 14.9) -/

/-- Configuration space, MSI-X table and PBA as the base specification resets them. -/
def Hif.resetConfig (h : Hif) : Hif :=
  { h with bme := false, msixEn := false, msixMaskAll := false, unmasked := [], msixTab := [], pba := [], d3 := false, cfg := .reset
           b2log := 36, b2base := b2Mask 36 h.b2base }

/-- The jobs of a queue that a Function Level Reset ends: one that has not started is gone, any other stops (R221). -/
def State.flrJobs (n : Fin 512) (s : State) : State :=
  s.jobs.foldl (fun s kv => match kv.2 with
    | some j =>
      if j.sq = n.val then (if j.st = .staged then (s.setJob kv.1 none).dropWait kv.1 else s.stopJob kv.1 cResetAbort none) else s
    | none => s) s

/-- R601, Table 14.9. -/
def State.flr (f : Bool) (s : State) : State :=
  let qs := sqRefs s f
  let s := { s with sqs := Tbl.map Sq.reset (fun _ q => if ownedBy f q.owner then { q with releasing := true } else q) s.sqs
                    cqs := Tbl.map Cq.reset (fun _ c => if ownedBy f c.owner then { c with releasing := true, heldC := [] } else c) s.cqs }
  let s := qs.foldl (fun s n => (s.flrJobs n).retireAll (.sq n)) s
  (s.updHif f (fun h => { h.resetConfig.clearEvents with mbx := h.mbx.cleared })).releaseCqs

def execFunctionLevelReset (f : Bool) (s : State) : Outcome := .next (if (s.hif f).linkUp then s.flr f else s)

/-! ## PERST_N (R772) and configuration space (R580) -/

/-- PERST_N low resets the function and takes its link down; high lets the port train, which LINK_UP reports. -/
def execPerstN (f : Bool) (high : Bool) (s : State) : Outcome :=
  if high then .next (s.updHif f (fun h => { h with perstN := true }))
  else
    let s := if (s.hif f).linkUp then s.linkLoss f else s
    .next ((s.flr f).updHif f (fun h => { h with perstN := false }))

/-- Configuration space of a function as far as the manual gives it by value (Tables 00.2, 14.1): Vendor and Device ID, Revision
ID and class code, header type. Other offsets are the base specification's. -/
def State.configId (s : State) (off : Nat) : BitVec 32 :=
  let dev := if s.active = 14 then 0x4054 else if s.active = 12 then 0x404D else 0x404C
  match off with
  | 0x00 => BitVec.ofNat 32 (0x1E3A + dev * 65536)
  | 0x08 => BitVec.ofNat 32 ((if s.a0 then 0x00 else 0x10) + 0x120000 * 256)
  | _ => 0

/-- What a write changes. Max Payload Size is at most 512 bytes (code 2), Max Read Request Size at most 4,096 (code 5), and the
timeout ranges are A to D (Table 14.1); another code is not taken (DESIGN CHOICE, log 115). -/
def Hif.config (h : Hif) : CfgWrite → Hif
  | .busMaster on => { h with bme := on }
  | .msixEnable on => { h with msixEn := on }
  | .msixMask on => { h with msixMaskAll := on }
  | .d3hot on => { h with d3 := on }
  | .maxPayload k => if k.toNat ≤ 2 then { h with cfg := { h.cfg with mps := k } } else h
  | .maxReadRequest k => if k.toNat ≤ 5 then { h with cfg := { h.cfg with mrrs := k } } else h
  | .tenBitTags on => { h with cfg := { h.cfg with tag10 := on } }
  | .completionTimeout r off =>
    if [0, 1, 2, 5, 6, 9, 10, 13, 14].contains r.toNat then { h with cfg := { h.cfg with ctoRange := r, ctoOff := off } }
    else { h with cfg := { h.cfg with ctoOff := off } }
  | .aerClear u c => { h with cfg := { h.cfg with unc := h.cfg.unc &&& ~~~u, cor := h.cfg.cor &&& ~~~c } }
  | .aerMask u c => { h with cfg := { h.cfg with uncMask := u, corMask := c } }

/-- R580, Table 14.1: messages that become sendable leave. -/
def execConfigurationSpaceWrite (f : Bool) (w : CfgWrite) (s : State) : Outcome :=
  if !(s.hif f).linkUp then .next s
  else .next ((s.updHif f (fun h => h.config w)).flushMsix f)

end Sys2Proof.Machine
end

