-- ==== Sys2Proof/Machine/Recover.lean ====
section
/-! DEFINITION. What resets, tests, shutdowns and the clearing before scan share: ending jobs, and writing zeros. -/
namespace Sys2Proof.Machine
open Sys2Proof

/-- Stop the jobs that `pick` names as R221 does, to complete with `code`; one that has not started completes at once. -/
def State.endJobs (pick : Job → Bool) (code : Nat) (s : State) : State :=
  s.jobs.foldl (fun s kv => match kv.2 with
    | some jb =>
      if !pick jb then s
      else if jb.st = .staged then
        (if h : jb.sq < 512 then ((s.setJob kv.1 none).dropWait kv.1).completeEntry (.sq ⟨jb.sq, h⟩) jb.seq code false true
         else (s.setJob kv.1 none).dropWait kv.1)
      else s.stopJob kv.1 code none
    | none => s) s

/-- Queue references of the cores that hold entries. -/
def State.coreQueues (s : State) : List QRef :=
  s.cores.flatMap (fun kv =>
    if h : kv.1 < 2560 then
      let k : CoreId := ⟨⟨kv.1 / 128, by omega⟩, ⟨kv.1 / 16 % 8, by omega⟩, ⟨kv.1 % 16, by omega⟩⟩
      (([0, 1, 2, 3] : List (Fin 4)).filter (fun q => !(kv.2.dq q.val).entries.isEmpty)).map (fun q => QRef.core k q)
    else [])

def State.hostQueues (s : State) : List (Fin 512) :=
  s.sqs.filterMap (fun kv => if h : kv.1 < 512 then (if kv.2.entries.isEmpty then none else some ⟨kv.1, h⟩) else none)

/-- Everything stored in a core becomes 0; results in flight no longer land. -/
def Core.zeroed (c : Core) : Core :=
  { c with aflags := 0, sreg := [], preg := [], vreg := [], tile := [], tkind := [], stat := [], err := [], bank0 := .zero
           bank1 := .zero, cstore := [], istore := [], supplied := [], flights := [], memops := [], sends := [] }

def Cluster.zeroed (c : Cluster) : Cluster := { c with store := [] }

/-- Counters and the entropy static table store. -/
def Ped.zeroed (p : Ped) : Ped := { p with counters := [], ctrBad := [], etab := [], etabN := [] }

/-- Zeros in every core store, cluster store, instruction store, register, tile, SFU bank, sync counter, static table store
and Skim search memory, in plinth memory and in HBM3 (Table 18.6 steps 4 and 5; Table 19.6 phase 9). -/
def State.zeroAll (s : State) : State :=
  { s with cores := Tbl.map Core.reset (fun _ c => c.zeroed) s.cores, clus := Tbl.map Cluster.reset (fun _ c => c.zeroed) s.clus
           peds := Tbl.map Ped.reset (fun _ p => p.zeroed) s.peds, mpa := [], poison := [], sigs := [] }

/-- Jobs that are staged, resident or suspended. -/
def State.anyJob (s : State) : Bool := s.jobs.any (fun kv => kv.2.isSome)

end Sys2Proof.Machine
end

