-- ==== Sys2Proof/Machine/Mailbox.lean ====
section
/-! DEFINITION. Mailboxes and the management commands (R588 to R600, R663, R697 to R714, R720 to R724, R759, R791, R792). -/
namespace Sys2Proof.Machine
open Sys2Proof

/-! ## Word queues (R588 to R591) -/

def State.mbx (s : State) (f : Bool) : Mbx := (s.hif f).mbx
def State.setMbx (f : Bool) (m : Mbx) (s : State) : State := s.updHif f (fun h => { h with mbx := m })

/-- BAR0 offset of MBX_INJ_PARITY; the target is the function. -/
def injMbx : Nat := 0x01000024

/-- Sticky bits of MBX_STAT. -/
def Mbx.flag (b : BitVec 4) (m : Mbx) : Mbx := { m with stat := m.stat ||| b }

/-- A sticky bit that the module sets. -/
def State.mbxFlag (f : Bool) (b : BitVec 4) (s : State) : State :=
  (s.setMbx f ((s.mbx f).flag b)).mark (fnReg f 0x01000020) b.toNat

/-- A word for the command; a seventeenth is ignored (R589). -/
def Mbx.push (v : Word) (m : Mbx) : Mbx := if m.h2m.length < 16 then { m with h2m := m.h2m ++ [v] } else m.flag 2

def execMbxH2mData (f : Bool) (v : Word) (s : State) : Outcome :=
  s.host f false (fun s => s.setMbx f ((s.mbx f).push v))

/-- Fields of a command's words (R588). -/
def cmdOp (ws : List Word) : Nat := bits (ws.headD 0).toNat 7 0
def cmdToken (ws : List Word) : Nat := bits (ws.headD 0).toNat 31 16
def cmdWord (ws : List Word) (i : Nat) : Nat := (ws.getD i 0).toNat
/-- Two words as an address, low word first. -/
def cmdAddr (ws : List Word) (i : Nat) : Nat := cmdWord ws i + cmdWord ws (i + 1) * 2 ^ 32

def knownOp (op : Nat) : Bool := [0x01, 0x02, 0x03, 0x04, 0x40, 0x41, 0x42, 0x43, 0x44, 0x48].contains op
/-- Commands that recovery and a module not yet ready serve (R704, R759). -/
def earlyOp (op : Nat) : Bool := op == 0x40 || op == 0x41 || op == 0x43

/-- An acknowledgement of R20. -/
def ackOf (code detail : Nat) : BitVec 16 := BitVec.ofNat 16 (code + 256 * detail)

/-- BUSY with an estimate of the time that is left, which no rule fixes (R711, R759). -/
def State.busyHint (f : Bool) (s : State) : State :=
  let r := s.drawFree
  r.2.setMbx f { r.2.mbx f with reply := some (ackOf cBusy (r.1.toNat % 255 + 1)) }

/-- What the controller answers at once when it takes a command: a parity error of the word queue, BUSY while firmware is
installed or handed over (R663, R711), UNSUPPORTED in recovery (R704), BUSY before the module is ready (R759), UNSUPPORTED
for an unknown OP (R592). -/
def State.gate (f : Bool) (op : Nat) (s : State) : State :=
  let say := fun (c : Nat) (s : State) => s.setMbx f { s.mbx f with reply := some (ackOf c 0) }
  if s.arm injMbx (fnNum f) ≠ 0 then
    let s := (s.disarm injMbx (fnNum f)).errUE { Rec.base 0x13 1 cUncorrectable none none with unit := fnNum f }
    say cUncorrectable (s.mbxFlag f 8)
  else if s.mgt.work.isSome then s.busyHint f
  else if s.mgt.phase = 4 ∧ ¬ earlyOp op then say cUnsupported s
  else if ¬ s.allUp ∧ ¬ earlyOp op then s.busyHint f
  else if ¬ knownOp op then say cUnsupported s
  else s

/-- FW_INSTALL and FW_ACTIVATE occupy the controller from their acceptance (R711). -/
def State.occupy (f : Bool) (ws : List Word) (s : State) : State :=
  if (s.mbx f).reply.isSome then s
  else if cmdOp ws = 0x41 then { s with mgt := { s.mgt with work := some ⟨f, true, cmdWord ws 1, none⟩ } }
  else if cmdOp ws = 0x42 then { s with mgt := { s.mgt with work := some ⟨f, false, 0, none⟩ } }
  else s

/-- SEND (R589, R590): the words held become the outstanding command. -/
def State.sendCmd (f : Bool) (s : State) : State :=
  let m := s.mbx f
  if m.cmd.isSome ∨ m.h2m.length ≠ bits (m.h2m.headD 0).toNat 11 8 + 1 then s.setMbx f (m.flag 2)
  else
    let ws := m.h2m
    ((s.setMbx f { m with h2m := [], cmd := some ws, reply := none, drop := false }).gate f (cmdOp ws)).occupy f ws

def execSend (f : Bool) (s : State) : Outcome := s.host f false (State.sendCmd f)

def execClear (f : Bool) (s : State) : Outcome :=
  s.host f false (fun s => s.setMbx f { s.mbx f with h2m := [] })

/-! ## Messages of the controller (R591) -/

/-- A message is presented, or waits; one beyond four is dropped. -/
def Mbx.message (ws : List Word) (m : Mbx) : Mbx :=
  if !m.sent && m.waiting.isEmpty then { m with m2h := ws, sent := true }
  else if m.waiting.length < 4 then { m with waiting := m.waiting ++ [ws] } else m.flag 4

/-- A message of the controller for function `f` (R591). -/
def State.message (f : Bool) (ws : List Word) (s : State) : State :=
  let m := s.mbx f
  if 4 ≤ m.waiting.length then s.mbxFlag f 4 else s.setMbx f (m.message ws)

/-- The next waiting message is presented once the last one is acknowledged. -/
def Mbx.present (m : Mbx) : Mbx :=
  match m.waiting with
  | ws :: rest => if m.sent then m else { m with m2h := ws, sent := true, waiting := rest }
  | [] => m

def execM2hMessageSend (f : Bool) (s : State) : Outcome := .next (s.setMbx f (s.mbx f).present)

/-- A read of the next word removes it; with none left it reads 0. A parity error discards the message, and what the read
then answers no rule gives. -/
def State.m2hTake (f : Bool) (s : State) : Nat × State :=
  let m := s.mbx f
  match m.m2h with
  | [] => (0, s)
  | w :: ws =>
    if s.arm injMbx (fnNum f) ≠ 0 then
      let s := (s.disarm injMbx (fnNum f)).errUE { Rec.base 0x13 2 0 none none with unit := fnNum f }
      let r := ((s.setMbx f { s.mbx f with m2h := [], sent := false }).mbxFlag f 8).drawFree
      (r.1.toNat % 2 ^ 32, r.2)
    else (w.toNat, s.setMbx f { m with m2h := ws })

def State.m2hRead (f : Bool) (s : State) : State := (s.m2hTake f).2.answer f (s.m2hTake f).1

def execMbxM2hDataRead (f : Bool) (s : State) : Outcome := s.host f false (State.m2hRead f)

/-- The host acknowledges the message. -/
def Mbx.hostAcks (v : Word) (m : Mbx) : Mbx :=
  if m.sent then { m with sent := false, m2h := [], hostAck := v.setWidth 16 } else m

def execMbxM2hAck (f : Bool) (v : Word) (s : State) : Outcome :=
  s.host f false (fun s => s.setMbx f ((s.mbx f).hostAcks v))

/-! ## Carrying out a command -/

/-- The outstanding command of a function, when it has this OP and no answer is decided. -/
def State.taken (s : State) (f : Bool) (op : Nat) : Option (List Word) :=
  let m := s.mbx f
  match m.cmd with
  | some ws => if m.reply.isNone ∧ cmdOp ws = op then some ws else none
  | none => none

/-- Decide the acknowledgement. -/
def State.reply (f : Bool) (code detail : Nat) (s : State) : State :=
  s.setMbx f { s.mbx f with reply := some (ackOf code detail) }

/-- Do something with the outstanding command, or nothing when there is none of this OP. -/
def State.command (f : Bool) (op : Nat) (g : List Word → State → State) (s : State) : Outcome :=
  match s.taken f op with
  | some ws => .next (g ws s)
  | none => .next s

/-- The plinth of the active management controller (Table 01.2). -/
def State.mgtPed (s : State) : Nat := if s.mgt.standby then 10 else 0

/-- Read bytes that must lie in the plinth memory of one pedestal (conditions 3 and 4 of R791); `only`: of that pedestal. -/
def State.readPlinth (only : Option Nat) (a n : Nat) (s : State) : Nat × List Byte × State :=
  match s.loc a, s.loc (a + n - 1) with
  | .plinth p _, .plinth q _ =>
    if p ≠ q ∨ (only.getD p) ≠ p then (cOutOfBounds, [], s)
    else
      let r := s.farRead s.mgtPed (Rec.base 0 1 0 none none) a n
      (r.2.1, r.1, r.2.2)
  | _, _ => (cOutOfBounds, [], s)

/-! ## Niches (R49 to R54, R404, R592, R593, R791) -/

/-- A niche record as it takes effect. -/
structure NicheRec where
  cls : Nat
  clus : BitVec 160
  ctrs : Tbl (BitVec 32)
  /-- windows by pedestal: key 64 pedestal + window -/
  win : Tbl (BitVec 128)

/-- Do two runs of counter indices meet? -/
def ctrsMeet (a b : Nat) : Bool :=
  decide (bits a 9 0 < bits b 9 0 + bits b 26 16) && decide (bits b 9 0 < bits a 9 0 + bits a 26 16) &&
  bits a 26 16 != 0 && bits b 26 16 != 0

/-- Is a valid window of pedestal `p` refused (R404), apart from overlap? -/
def winBad (p d : Nat) : Bool :=
  let d1 := d / 2 ^ 64
  let lo := winL2 d
  let n := bits d1 63 48 * (if bitAt d 3 then 1 else 32) * 8
  bits d 20 4 != 0 || bits d 63 48 != 0 || bits d1 11 0 != 0 || bits d1 63 48 == 0 ||
  !(decide (plinthBase p ≤ lo) && decide (lo + n ≤ plinthBase p + 0xA0000000))

/-- Do two valid windows overlap? -/
def winMeet (a b : Nat) : Bool := decide (winBase a < winBase b + winSize b) && decide (winBase b < winBase a + winSize a)

/-- Does some pair of a list meet? -/
def anyPair {α : Type} (r : α → α → Bool) : List α → Bool
  | [] => false
  | x :: xs => xs.any (r x) || anyPair r xs

/-- The windows of a record for one pedestal, by index. -/
def recWindows (m : Memory) (p : Nat) : List (Nat × Nat) :=
  (rangeFrom 0 64).map (fun w => (w, m.le (0x80 + p * 0x400 + w * 16) 16))

/-- A reserved bit, a field out of range or a refused window (R791 condition 5, within the record). -/
def nicheRecBad (m : Memory) : Bool :=
  bits (m.le 0 4) 31 2 != 0 || m.le 0x18 8 != 0 || m.le 0x70 16 != 0 ||
  (rangeFrom 0 20).any (fun p =>
    let c := m.le (0x20 + 4 * p) 4
    let ws := ((recWindows m p).map (·.2)).filter (fun d => bitAt d 0)
    bits c 15 10 != 0 || bits c 31 27 != 0 || decide (1024 < bits c 9 0 + bits c 26 16) || ws.any (winBad p) || anyPair winMeet ws)

/-- The fields of a window that are not reserved: the others read as 0, in an invalid window too (R14, Table 10.4). -/
def winMask : BitVec 128 := 0xFFFFFFFFFFFFF0000000FFFFFFE0000F

def nicheRecOf (m : Memory) : NicheRec :=
  { cls := bits (m.le 0 4) 1 0
    clus := BitVec.ofNat 160 (m.le 4 20)
    ctrs := (rangeFrom 0 20).foldl (fun t p => Tbl.set 0 p (BitVec.ofNat 32 (m.le (0x20 + 4 * p) 4)) t) []
    win := (rangeFrom 0 20).foldl (fun t p => (recWindows m p).foldl (fun t w =>
      Tbl.set 0 (64 * p + w.1) (BitVec.ofNat 128 w.2 &&& winMask) t) t) [] }

/-- Clusters of a mask. -/
def clusOfMask (m : BitVec 160) : List Nat := (rangeFrom 0 160).filter (fun c => m.getLsbD c)

/-- Does another niche hold a cluster or counter of the record? -/
def State.nicheClash (s : State) (n : Nat) (r : NicheRec) : Bool :=
  s.niches.any (fun kv => kv.1 != n && ((clusOfMask r.clus).any kv.2.has ||
    r.ctrs.any (fun c => ctrsMeet c.2.toNat (Tbl.get 0 kv.2.ctrs c.1).toNat)))

/-- The valid windows of a niche, as the record numbers them. -/
def State.nicheWins (s : State) (n : Nat) : Tbl (BitVec 128) :=
  s.peds.flatMap (fun kv => (kv.2.win.filter (fun w => w.1 / 64 == n && w.2.getLsbD 0)).map (fun w => (64 * kv.1 + w.1 % 64, w.2)))

/-- Does R53 refuse the change: a cluster that comes or goes, or any cluster of the niche when its windows or counters
change, has a resident job? -/
def State.nicheBusy (s : State) (n : Nat) (r : NicheRec) : Bool :=
  let old := s.niche n
  (clusOfMask (old.clus ^^^ r.clus)).any s.residentOn ||
  ((old.ctrs != r.ctrs || s.nicheWins n != r.win.filter (fun w => w.2.getLsbD 0)) && (clusOfMask (old.clus ||| r.clus)).any s.residentOn)

/-- Write the windows of a niche on pedestal `p`. -/
def Ped.setWins (x : Ped) (n p : Nat) (r : NicheRec) : Ped :=
  { x with win := (rangeFrom 0 64).foldl (fun t w => Tbl.set 0 (64 * n + w) (Tbl.get 0 r.win (64 * p + w)) t) x.win }

/-- Put a niche in place, with its windows on every pedestal. -/
def State.putNiche (n : Nat) (owner : Option Bool) (r : NicheRec) (s : State) : State :=
  let s := s.setNiche n ⟨owner, r.cls, r.clus, r.ctrs⟩
  (rangeFrom 0 20).foldl (fun s p => s.updPed p (fun x => x.setWins n p r)) s

def State.nicheSet (f : Bool) (ws : List Word) (s : State) : State :=
  let n := cmdWord ws 1
  if 31 < n ∨ ws.length < 4 then s.reply f cBadDescriptor 0
  else if (s.niche n).owner = some (!f) then s.reply f cPermission 0
  else
    let r := s.readPlinth none (cmdAddr ws 2) 0x5080
    let s := r.2.2
    if r.1 ≠ cDone then s.reply f r.1 0
    else
      let m := recordOf r.2.1
      let nr := nicheRecOf m
      if nicheRecBad m ∨ s.nicheClash n nr then s.reply f cBadDescriptor 0
      else if ¬ (clusOfMask nr.clus).all s.clusUsable then s.reply f cUnsupported 0
      else if s.nicheBusy n nr then s.reply f cBusy 0
      else (s.putNiche n (some f) nr).reply f cDone 0

def execNicheSet (f : Bool) (s : State) : Outcome := s.command f 0x01 (State.nicheSet f)

/-- Does an enabled SQ name the niche? -/
def State.sqNames (s : State) (n : Nat) : Bool :=
  s.sqs.any (fun kv => kv.2.owner.isSome && bits kv.2.cfg.toNat 21 17 == n)

def State.nicheClear (f : Bool) (ws : List Word) (s : State) : State :=
  let n := cmdWord ws 1
  if 31 < n ∨ ws.length < 2 then s.reply f cBadDescriptor 0
  else if (s.niche n).owner = some (!f) then s.reply f cPermission 0
  else if (s.niche n).owner = none then s.reply f cDone 0
  else if s.nicheBusy n ⟨0, 0, [], []⟩ ∨ s.sqNames n then s.reply f cBusy 0
  else (s.putNiche n none ⟨0, 0, [], []⟩).reply f cDone 0

def execNicheClear (f : Bool) (s : State) : Outcome := s.command f 0x02 (State.nicheClear f)

/-! ## Slot tables (R47, R48, R594 to R596) -/

/-- Is a source code of a forwarding entry of switch `p` reserved, or a link that does not exist? -/
def srcBad (p src : Nat) : Bool :=
  match src with
  | 0 => false
  | 5 => false
  | 1 => (neighbour p 0).isNone
  | 2 => (neighbour p 1).isNone
  | 3 => (neighbour p 2).isNone
  | 4 => (neighbour p 3).isNone
  | _ => true

/-- What R596 refuses in slot `k` of pedestal `p`. -/
def slotBad (img : Option Memory) (d p k : Nat) : Bool :=
  let e := injHalf img p k
  (rangeFrom 0 5).any (fun o => let h := fwdHalf img p k o; srcBad p (bits h 2 0) || bits h 7 3 != 0 || bits h 14 13 != 0) ||
  (if bitAt e 15 then
    decide (19 < bits e 11 7) || (outputsFrom img p k 5).length != 1 ||
    (match slotPath img d p k with
     | some path => path.dest != bits e 11 7 || !path.niches.all (· == path.niches.headD 0)
     | none => true)
   else !(outputsFrom img p k 5).isEmpty)

/-- R596. -/
def imageBad (img : Option Memory) (d : Nat) : Bool :=
  (rangeFrom 0 20).any (fun p => (rangeFrom d (4096 - d)).any (slotBad img d p))

/-- Niches that own slot `k` of pedestal `p`: those its valid forwarding entries name. -/
def slotNiches (img : Option Memory) (p k : Nat) : List Nat :=
  ((rangeFrom 0 5).filter (fun o => bitAt (fwdHalf img p k o) 15)).map (fun o => bits (fwdHalf img p k o) 12 8)

/-- Niches whose entries of slot `k` of `p` differ between two tables. -/
def slotChanges (a b : Option Memory) (p k : Nat) : List Nat :=
  if injHalf a p k ≠ injHalf b p k then slotNiches a p k ++ slotNiches b p k
  else ((rangeFrom 0 5).filter (fun o => fwdHalf a p k o ≠ fwdHalf b p k o)).flatMap (fun o =>
    ([a, b].filter (fun t => bitAt (fwdHalf t p k o) 15)).map (fun t => bits (fwdHalf t p k o) 12 8))

/-- A niche with a resident job. -/
def State.nicheResident (s : State) (n : Nat) : Bool :=
  s.jobs.any (fun kv => match kv.2 with
    | some j => j.niche == n && (j.st == .running || j.st == .stopping)
    | none => false)

/-- R48. -/
def State.slotsBusy (s : State) (img : Option Memory) : Bool :=
  (rangeFrom 0 32).any (fun n => s.nicheResident n && (rangeFrom 0 20).any (fun p =>
    (rangeFrom s.dshare (4096 - s.dshare)).any (fun k => (slotChanges s.slots img p k).contains n)))

def State.slotLoad (f : Bool) (ws : List Word) (s : State) : State :=
  if ws.length < 3 then s.reply f cBadDescriptor 0
  else
    let r := s.readPlinth none (cmdAddr ws 1) 0xF0000
    let s := r.2.2
    let img := recordOf r.2.1
    if r.1 ≠ cDone then s.reply f r.1 0
    else if imageBad (some img) s.dshare then s.reply f cBadDescriptor 0
    else if s.slotsBusy (some img) then s.reply f cBusy 0
    else { s with slotShadow := some (img, s.now) }.reply f cDone 0

def execSlotLoad (f : Bool) (s : State) : Outcome := s.command f 0x03 (State.slotLoad f)

/-! ## TAKEOVER (R599, R600) -/

/-- The queues that a takeover of the niches of `mask` moves. -/
def State.takeQueues (f : Bool) (mask : Nat) (s : State) : State :=
  let hit := fun (q : Sq) => q.owner.isSome && bitAt mask (bits q.cfg.toNat 21 17)
  let cqs := (s.sqs.filter (fun kv => hit kv.2)).map (fun kv => bits kv.2.cfg.toNat 16 8)
  { s with sqs := Tbl.map Sq.reset (fun _ q => if hit q then { q with owner := some f, stopped := true, tail := q.head } else q) s.sqs
           cqs := Tbl.map Cq.reset (fun k c => if cqs.contains k then { c with owner := some f, stopped := true } else c) s.cqs }

def State.takeover (f : Bool) (ws : List Word) (s : State) : State :=
  let mask := cmdWord ws 1
  let ns := (rangeFrom 0 32).filter (bitAt mask)
  if ws.length < 2 ∨ ¬ ns.all (fun n => (s.niche n).owner == some (!f)) then s.reply f cBadDescriptor 0
  else
    let s := ns.foldl (fun s n => s.setNiche n { s.niche n with owner := some f }) s
    let s := s.takeQueues f mask
    (if mask = 0 then s else s.postTaken (!f) (BitVec.ofNat 32 mask)).reply f cDone 0

def execTakeover (f : Bool) (s : State) : Outcome := s.command f 0x04 (State.takeover f)

/-! ## Firmware images (R701, R702) -/

/-- Bytes of a header, and a field of it. -/
def FwImg.at_ (i : FwImg) (o n : Nat) : List Byte := (i.hdr.drop o).take n
def FwImg.le (i : FwImg) (o n : Nat) : Nat := leNat (i.at_ o n)

/-- Bytes as the hash and signature functions take them. -/
def natsOf (bs : List Byte) : List Nat := bs.map (·.toNat)

/-- Row 1 of Table 18.2. -/
def FwImg.formed (i : FwImg) (kind : Nat) : Bool :=
  i.hdr.length == 2048 && i.le 0 4 == 0x57464B46 && i.le 4 4 == 1 && i.le 0x14 4 == kind && i.le 0x18 8 == 0 && i.le 0x50 48 == 0 &&
  i.le 0x118 8 == 0 && i.le 0x7CC 52 == 0 && decide (1 ≤ i.le 0x10 4) && decide (i.le 0x10 4 ≤ 0x800000) &&
  i.body.length == i.le 0x10 4

/-- The first row of Table 18.2 that fails; 0: every check passes. -/
def FwImg.check (i : FwImg) (kind : Nat) (m : Mgt) : Nat :=
  let ec := i.le 0x0D 1
  let lm := i.le 0x0E 1
  let msg := natsOf (i.at_ 0 128)
  if ¬ i.formed kind then 1
  else if i.le 0x0C 1 < m.svn then 2
  else if m.ecrev.getLsbD ec ∨ m.lmsrev.getLsbD lm then 3
  else if 3 < ec ∨ 3 < lm ∨ Config.sha384 (natsOf (i.at_ 0x80 96)) ≠ Config.ecDigest ec ∨
      Config.sha256 (natsOf (i.at_ 0xE0 56)) ≠ Config.lmsDigest lm then 4
  else if Config.sha384 (natsOf i.body) ≠ natsOf (i.at_ 0x20 48) then 5
  else if ¬ Config.ecdsaVerify (natsOf (i.at_ 0x80 96)) msg (natsOf (i.at_ 0x120 96)) then 6
  else if ¬ Config.lmsVerify (natsOf (i.at_ 0xE0 56)) msg (natsOf (i.at_ 0x180 1612)) then 7
  else 0

/-- The code of a failed row. -/
def rowCode (row : Nat) : Nat := if row = 1 then cFormatError else cAuthFailed

/-- The image of a flash slot; one marked invalid in the boot record fails row 1. -/
def Mgt.img (m : Mgt) (slot : Bool) : FwImg :=
  if slot then (if m.badB then ⟨[], []⟩ else m.imgB.getD ⟨Config.flashHeader true, Config.flashBody true⟩)
  else (if m.badA then ⟨[], []⟩ else m.imgA.getD ⟨Config.flashHeader false, Config.flashBody false⟩)

/-- FWVER of a slot (R792). -/
def Mgt.slotVer (m : Mgt) (slot : Bool) : Nat := if (m.img slot).formed 1 then (m.img slot).le 8 4 else 0

def Mgt.setImg (slot : Bool) (i : FwImg) (m : Mgt) : Mgt := if slot then { m with imgB := some i, badB := false } else { m with imgA := some i, badA := false }
def Mgt.setBad (slot : Bool) (m : Mgt) : Mgt := if slot then { m with badB := true } else { m with badA := true }

/-- A fuse read after the boot ROM stage: one armed parity error, and the repeated read succeeds (Table 18.3a). -/
def State.fuseRead (s : State) : State := s.disarm 0x01020018 0

/-- MGT_STATE (Table 18.9). -/
def Mgt.state (m : Mgt) : Nat :=
  (match m.work with | some w => if w.install then 2 else 3 | none => m.phase) * 2 ^ 28 + (if m.standby then 2 ^ 27 else 0) +
  (if m.slot then 2 ^ 26 else 0) + m.lastfail % 8 * 2 ^ 23 + m.evlost.toNat

/-- The image at an MPA of plinth 0. -/
def State.readImage (a n : Nat) (s : State) : Nat × FwImg × State :=
  let r := s.readPlinth (some 0) a n
  let h := r.2.1.take 2048
  (r.1, ⟨h, (r.2.1.drop 2048).take (leNat ((h.drop 0x10).take 4))⟩, r.2.2)

/-- FW_STAGE (Table 18.4). -/
def State.fwStage (f : Bool) (ws : List Word) (s : State) : State :=
  if ws.length < 4 then s.reply f cBadDescriptor 0
  else if cmdWord ws 3 = 0 then { s with mgt := { s.mgt with lastfail := 1 } }.reply f cFormatError 0
  else
    let r := s.readImage (cmdAddr ws 1) (cmdWord ws 3)
    let s := r.2.2
    if r.1 ≠ cDone then s.reply f r.1 0
    else if r.2.1.formed 1 then { s with mgt := { s.mgt with staged := some r.2.1 } }.reply f cDone 0
    else { s with mgt := { s.mgt with lastfail := 1 } }.reply f cFormatError 0

def execFwStage (f : Bool) (s : State) : Outcome := s.command f 0x40 (State.fwStage f)

/-- Has the other function a command that was accepted before (R663)? -/
def State.otherBusy (s : State) (f : Bool) : Bool := (s.mbx (!f)).cmd.isSome && (s.mbx (!f)).reply.isNone

def MgtWork.goes (slot : Bool) (w : MgtWork) : MgtWork := { w with slot := some slot }

/-- FW_INSTALL (R710): the checks, then the image is written to the slot that does not run. The boot record and the fuses
follow with the acknowledgement. -/
def State.fwInstall (f : Bool) (ws : List Word) (s : State) : State :=
  if s.otherBusy f then s
  else if s.mgt.opened = 2 then s.reply f cPermission 0
  else if ws.length < 2 then s.reply f cBadDescriptor 0
  else
    match s.mgt.staged with
    | none => s.reply f cBadDescriptor 0
    | some i =>
      let s := s.fuseRead
      let row := i.check 1 s.mgt
      if row ≠ 0 then { s with mgt := { s.mgt with lastfail := row } }.reply f (rowCode row) 0
      else
        let slot := !s.mgt.slot
        { s with mgt := { (s.mgt.setImg slot i) with work := s.mgt.work.map (MgtWork.goes slot) } }.reply f cDone 0

def execFwInstall (f : Bool) (s : State) : Outcome := s.command f 0x41 (State.fwInstall f)

/-- FW_ACTIVATE (R712): the image of the preferred slot is checked again and takes over. -/
def State.fwActivate (f : Bool) (s : State) : State :=
  if s.otherBusy f then s
  else
    let s := s.fuseRead
    let row := (s.mgt.img s.mgt.pref).check 1 s.mgt
    if row ≠ 0 then { s with mgt := { s.mgt with lastfail := row } }.reply f (rowCode row) 0
    else { s with mgt := { s.mgt with work := s.mgt.work.map (MgtWork.goes s.mgt.pref) } }.reply f cDone 0

def execFwActivate (f : Bool) (s : State) : Outcome := s.command f 0x42 (fun _ => State.fwActivate f)

/-- R712. The new firmware does not report ready within 2 s: the earlier image runs on, and the boot record names its slot
again. -/
def execFwActivateTimeout (s : State) : Outcome :=
  match s.mgt.work with
  | some w =>
    if w.install ∨ w.slot.isNone then .next s
    else .next ({ s with mgt := { s.mgt with pref := s.mgt.slot } }.reply w.f cFormatError 1)
  | none => .next s

def execMgtStatus (f : Bool) (s : State) : Outcome := s.command f 0x43 (fun _ s => s.fuseRead.reply f cDone 0)

/-- CFG_SET (R709, Table 18.4a). -/
def State.cfgSet (f : Bool) (ws : List Word) (s : State) : State :=
  let v := cmdWord ws 2
  if 3 ≤ ws.length ∧ cmdWord ws 1 = 1 ∧ v ≤ 2 then { s with mgt := { s.mgt with cfgRepair := some v } }.reply f cDone 0
  else if 3 ≤ ws.length ∧ cmdWord ws 1 = 2 ∧ (v = 512 ∨ v = 1024 ∨ v = 2048) then
    { s with mgt := { s.mgt with cfgDshare := some v } }.reply f cDone 0
  else s.reply f cBadDescriptor 0

def execCfgSet (f : Bool) (s : State) : Outcome := s.command f 0x44 (State.cfgSet f)

/-! ## Test access (R720 to R724) -/

/-- Steps 2 to 6 of Table 18.6. -/
def State.openScan (s : State) : State :=
  let s := { s with mgt := { s.mgt with keysOk := false, sessions := [], spdm := [], ide := [], udsOff := true, opened := 2, clearing := false } }
  s.zeroAll.record (Rec.base 0 4 0 none none) 1

/-- Step 1 of Table 18.6: jobs stop, and queues follow R597. -/
def State.clearStart (s : State) : State :=
  let s := { s with mgt := { s.mgt with clearing := true } }
  ((s.endJobs (fun _ => true) cResetAbort).stopQueues false).stopQueues true

/-- DBG_UNLOCK (R721, R722, Table 18.6). For level 2 the steps after the first follow once no job is left. -/
def State.dbgUnlock (f : Bool) (ws : List Word) (s : State) : State :=
  if s.mgt.clearing then (if s.anyJob then s else s.openScan.reply f cDone 0)
  else
    let spent := fun (s : State) => { s with mgt := { s.mgt with nonce := 0 } }
    if ws.length < 3 then (spent s).reply f cBadDescriptor 0
    else
      let r := s.readImage (cmdAddr ws 1) (2048 + 24)
      let s := r.2.2.fuseRead
      let i := r.2.1
      let row := if i.body.length = 24 then i.check 2 s.mgt else 1
      let level := leNat ((i.body.drop 16).take 4)
      let ok := s.mgt.nonce ≠ 0 ∧ leNat (i.body.take 8) = Config.uid.toNat ∧ leNat ((i.body.drop 8).take 8) = s.mgt.nonce.toNat
      let s := spent s
      if r.1 ≠ cDone then s.reply f r.1 0
      else if row ≠ 0 then { s with mgt := { s.mgt with lastfail := row } }.reply f (rowCode row) 0
      else if ¬ ok then s.reply f cAuthFailed 0
      else if ¬ (level = 1 ∨ level = 2) ∨ leNat ((i.body.drop 20).take 4) ≠ 0 then s.reply f cBadDescriptor 0
      else if level = 1 then { s with mgt := { s.mgt with opened := max 1 s.mgt.opened } }.reply f cDone 0
      else
        let s := s.clearStart
        if s.anyJob then s else s.openScan.reply f cDone 0

def execDbgUnlock (f : Bool) (s : State) : Outcome := s.command f 0x48 (State.dbgUnlock f)

/-- R720. SEC_DBGREQ.NONCE is written 1. -/
def State.newNonce (s : State) : State :=
  { s with mgt := { s.mgt with nonce := Config.trueRandom s.free }, free := s.free + 1 }

def execNonce (f : Bool) (s : State) : Outcome := s.host f false State.newNonce

/-! ## Acknowledgement (R590, R710, R792) -/

/-- What FW_INSTALL leaves at its end: the slot preferred, SVN and revocations (R710). -/
def Mgt.commitInstall (w : MgtWork) (slot : Bool) (m : Mgt) : Mgt :=
  let i := m.img slot
  let rev := i.le 0x0F 1
  let drop := fun (v k : Nat) => BitVec.ofNat 4 (v % 16) &&& ~~~(BitVec.ofNat 4 (2 ^ k))
  let m := { m with pref := slot }
  let m := if bitAt w.flags 0 then { m with svn := min 64 (i.le 0x0C 1) } else m
  if bitAt w.flags 1 then { m with ecrev := m.ecrev ||| drop rev (i.le 0x0D 1), lmsrev := m.lmsrev ||| drop (rev / 16) (i.le 0x0E 1) }
  else m

/-- The end of FW_INSTALL or FW_ACTIVATE with its code. -/
def Mgt.endWork (code : Nat) (m : Mgt) : Mgt :=
  match m.work with
  | none => m
  | some w =>
    let m := { m with work := none }
    match w.slot with
    | none => m
    | some slot =>
      if code ≠ cDone then m
      else if w.install then m.commitInstall w slot
      else { m with slot := slot, fwver := BitVec.ofNat 32 (m.slotVer slot) }

/-- Does the end of the work write fuses? -/
def Mgt.fusesDue (m : Mgt) (code : Nat) : Bool :=
  match m.work with
  | some w => w.install && w.slot.isSome && code == cDone && (bitAt w.flags 0 || bitAt w.flags 1)
  | none => false

/-- Does a function's command hold the controller? -/
def Mgt.worksFor (m : Mgt) (f : Bool) (op : Nat) : Bool :=
  match m.work with
  | some w => w.f == f && ((w.install && op == 0x41) || (!w.install && op == 0x42))
  | none => false

/-- The message of R792. -/
def State.statusMsg (s : State) (token : Nat) : List Word :=
  [BitVec.ofNat 32 (0x43 + 4 * 256 + token * 65536), BitVec.ofNat 32 s.mgt.state, BitVec.ofNat 32 (s.mgt.slotVer false),
   BitVec.ofNat 32 (s.mgt.slotVer true), BitVec.ofNat 32 s.mgt.svn]

/-- The controller completes the outstanding command. No fuse write begins once a shutdown has (R761). -/
def State.acknowledge (f : Bool) (s : State) : State :=
  let m := s.mbx f
  match m.cmd, m.reply with
  | some ws, some a =>
    let code := a.toNat % 256
    let works := s.mgt.worksFor f (cmdOp ws)
    if works ∧ s.mgt.fusesDue code ∧ s.pwr.stop ≠ 0 then s
    else
      let s := if works then { s with mgt := s.mgt.endWork code } else s
      if m.drop then s.setMbx f { m with cmd := none, reply := none, drop := false }
      else
        let s := (s.setMbx f { m with cmd := none, reply := none, ack := BitVec.ofNat 32 (cmdToken ws * 65536 + a.toNat) }).mbxFlag f 1
        let s := if bitAt m.cfg.toNat 31 then s.msix f (bits m.cfg.toNat 10 0) else s
        if cmdOp ws = 0x43 ∧ code = cDone then s.message f (s.statusMsg (cmdToken ws)) else s
  | _, _ => s

def execMailboxAcknowledgement (f : Bool) (s : State) : Outcome := .next (s.acknowledge f)

/-! ## The standby copy (R705, R706, R714) -/

/-- R714. The slot being written is marked invalid. -/
def Mgt.abandon (m : Mgt) : Mgt :=
  match m.work with
  | some w => match w.install, w.slot with
    | true, some slot => { (m.setBad slot) with work := none }
    | _, _ => { m with work := none }
  | none => m

/-- An outstanding command is acknowledged RESET_ABORT. -/
def Mbx.abort (m : Mbx) : Mbx := if m.cmd.isSome then { m with reply := some (ackOf cResetAbort 0) } else m

/-- R706: the other copy becomes active. `mem`: on account of MGTMEM, which reports severity 2 itself. -/
def State.standbyTakeover (det sev : Nat) (s : State) : State :=
  let held := (s.mbx false).cmd.isSome || (s.mbx true).cmd.isSome
  let sev := if sev = 0 then (if held then 1 else 2) else sev
  let s := (s.setMbx false (s.mbx false).abort).setMbx true (s.mbx true).abort
  let m := s.mgt.abandon
  let s := { s with mgt := { m with standby := !m.standby, sessions := [], spdm := [], misses := 0, clearing := false, staged := none } }
  s.errUE (Rec.base det sev (if sev = 1 then cResetAbort else 0) none none)

/-- Does firmware run, with a standby copy beside it? -/
def State.fwRuns (s : State) : Bool := s.mgt.phase == 1

/-- R706. `beat`: the active copy's heartbeat of this millisecond came. -/
def execHeartbeatCheck (beat : Bool) (s : State) : Outcome :=
  if !s.fwRuns then .next s
  else if beat ∧ s.arm 0x0101000C 0 = 0 then .next { s with mgt := { s.mgt with misses := 0 } }
  else
    let n := s.mgt.misses + 1
    if n < 50 then .next { s with mgt := { s.mgt with misses := n } }
    else .next ((s.disarm 0x0101000C 0).standbyTakeover 0x30 0)

end Sys2Proof.Machine
end

