-- ==== Sys2Proof/Machine/LathLink.lean ====
section
/-! DEFINITION. Lath ports: training, the link layer, markers and fabric time, packets and routing (R604 to R622, R636 to
R638, R774). -/
namespace Sys2Proof.Machine
open Sys2Proof

def State.port (s : State) (n : Nat) : Port := Tbl.get Port.reset s.lath.ports n
def State.setPort (n : Nat) (p : Port) (s : State) : State :=
  { s with lath := { s.lath with ports := Tbl.set Port.reset n p s.lath.ports } }
def State.updPort (n : Nat) (f : Port → Port) (s : State) : State := s.setPort n (f (s.port n))
def State.updLath (f : Lath → Lath) (s : State) : State := { s with lath := f s.lath }

/-- STATE of Table 15.19. -/
def pDown : Nat := 0
def pTraining : Nat := 1
def pUp : Nat := 2
def pDegraded : Nat := 3

def Port.isUp (p : Port) : Bool := p.st == pUp || p.st == pDegraded

/-- Sticky bits of LTH_STAT (Table 15.16). -/
def State.lthFlag (b : BitVec 5) (s : State) : State :=
  (s.updLath (fun l => { l with stat := l.stat ||| b })).mark 0x03000024 b.toNat

/-! ## Training (R612 to R614, R774) -/

/-- The link layer starts anew: unacknowledged blocks are discarded (R610). -/
def Port.clearLink (p : Port) : Port :=
  { p with txSeq := 0, unack := [], txq := [], replays := 0, rxSeq := 511, nak := false, part := [], mkT1 := 0, mkT2 := 0
           off := none, txBlk := 0, rxq := [], rxTurn := 0, rxMark := none }

/-- Fabric time's path: a root has one; a module whose TPORT is not up has none (R638). -/
def State.timePath (s : State) : State :=
  if s.lath.root then s.updLath (fun l => { l with notime := false, depth := 0 })
  else if (s.port s.lath.tport.toNat).isUp then s
  else s.updLath (fun l => { l with notime := true })

/-- A port leaves whatever it did for STATE `st`. -/
def State.portLeave (n st : Nat) (s : State) : State :=
  (s.updPort n (fun p => { p.clearLink with st := st, act := 0 })).timePath

/-- May the port train: enabled, a cable present, usable, the module started and running (R612, R686, R774)? -/
def State.mayTrain (s : State) (n : Nat) : Bool :=
  (s.port n).en && (s.port n).present && !s.bad n hLath && decide (10 ≤ s.pwr.phase) && s.pwr.stop == 0 &&
  !s.ras.rsts.any (fun r => (r.scope == 4 || r.scope == 5) && r.ped == n)

/-- Training begins. -/
def State.train (n : Nat) (s : State) : State := if s.mayTrain n then s.portLeave n pTraining else s

def execPortTrain (n : Fin 16) (s : State) : Outcome := .next (if (s.port n.val).st = pDown then s.train n.val else s)

def execRetrain (f : Bool) (n : Fin 16) (s : State) : Outcome := s.host f true (State.train n.val)

def execTrainingRetry (n : Fin 16) (s : State) : Outcome :=
  let st := (s.port n.val).st
  .next (if st = 0 ∨ st = 4 ∨ st = 5 ∨ st = 6 then s.train n.val else s)

/-- The cable's presence signal (R774). -/
def execLpresN (n : Fin 16) (high : Bool) (s : State) : Outcome :=
  if high then .next ((s.portLeave n.val pDown).updPort n.val (fun p => { p with present := false }))
  else
    let s := s.updPort n.val (fun p => { p with present := true })
    .next (if (s.port n.val).st = pTraining then s else s.train n.val)

/-- The neighbour's signal is lost. -/
def execPortDown (n : Fin 16) (s : State) : Outcome := .next (if (s.port n.val).isUp then s.portLeave n.val pDown else s)

/-- A lane on which training reports nothing. -/
def laneOpen : TrainLane := ⟨1, false, 0, 0, 0, 0, false⟩

/-- Lanes on which a signal was found. -/
def goodLanes (ls : List TrainLane) : List (Nat × TrainLane) :=
  ((rangeFrom 0 8).map (fun i => (i, ls.getD i laneOpen))).filter (fun x => x.2.fault == 0)

/-- Lanes on which a UID stands. -/
def uidCount (g : List (Nat × TrainLane)) (u : BitVec 64) : Nat := (g.filter (fun x => x.2.uid == u)).length

/-- The UID seen on most lanes; of two that tie, the one on the lowest lane. -/
def mainUid (g : List (Nat × TrainLane)) : BitVec 64 :=
  g.foldl (fun b x => if uidCount g b < uidCount g x.2.uid then x.2.uid else b) ((g.head?.map (·.2.uid)).getD 0)

/-- A bit mask of lanes, and a word of nibbles. -/
def laneMask (xs : List Nat) : BitVec 8 := BitVec.ofNat 8 (xs.foldl (fun m i => m + 2 ^ i) 0)
def laneNibbles (f : Nat → Nat) : BitVec 32 := BitVec.ofNat 32 ((rangeFrom 0 8).foldl (fun m i => m + f i * 16 ^ i) 0)

/-- How training ends (Table 15.2, R614). -/
def Port.trained (uid : BitVec 64) (ls : List TrainLane) (p : Port) : Port :=
  let g := goodLanes ls
  let u := mainUid g
  let mine := g.filter (fun x => x.2.uid == u)
  let split := mine.length != g.length
  let used := (mine.filter (fun x => x.2.far)).map (·.1)
  let st := if split then 6 else if g.any (fun x => x.2.uid == uid) then 4
    else if !g.isEmpty && p.expuid != 0 && u != p.expuid then 5
    else if used.length = 8 then pUp else if p.minl ≤ used.length ∧ used ≠ [] then pDegraded else pDown
  let nb := (mine.head?.map (fun x => 2 ^ 31 + x.2.port.val * 65536 + x.2.mod.toNat)).getD 0
  { p.clearLink with
    st := st, polinv := laneMask ((g.filter (fun x => x.2.inverted)).map (·.1))
    act := if st = pUp ∨ st = pDegraded then laneMask used else 0
    fault := laneNibbles (fun i => let l := ls.getD i laneOpen
      if l.fault ≠ 0 then l.fault.val else if l.uid ≠ u then 4 else 0)
    lmap := laneNibbles (fun i => let l := ls.getD i laneOpen; if l.fault ≠ 0 then 0 else l.log.val)
    nbruid := if g.isEmpty then 0 else u, nbr := BitVec.ofNat 32 nb }

/-- R617: the neighbour shows this module's ID with another UID. -/
def State.checkDup (uid : BitVec 64) (id : BitVec 16) (s : State) : State :=
  if s.lath.id ≠ 0 ∧ id = s.lath.id ∧ uid ≠ Config.uid then s.updLath (fun l => { l with dup := true }) else s

/-- The good-lane mask that this end sends in its training blocks (R614). -/
def trainMask (ls : List TrainLane) : BitVec 8 :=
  let g := goodLanes ls
  laneMask ((g.filter (fun x => x.2.uid == mainUid g)).map (·.1))

def execTrainingComplete (n : Fin 16) (ls : List TrainLane) (s : State) : Outcome :=
  if (s.port n.val).st ≠ pTraining then .next s
  else
    let s := (s.send (.training n.val (trainMask ls).toNat)).updPort n.val (Port.trained Config.uid ls)
    let s := if s.lath.tport.toNat = n.val then s.timePath else s
    let p := s.port n.val
    .next (if bitAt p.nbr.toNat 31 then s.checkDup p.nbruid (p.nbr.setWidth 16) else s)

/-! ## Blocks (R605 to R611) -/

/-- The control word of Table 15.1. -/
def ctlWord (p : Port) (data : Bool) (lseq : Nat) : Nat :=
  (if p.nak then 2 ^ 19 else 0) + (if data then 2 ^ 18 else 0) + lseq % 512 * 512 + p.rxSeq % 512

/-- Physical lanes that a port uses, ascending: in the direction it sends, its own logical lanes. -/
def Port.lanes (p : Port) : List Nat := (rangeFrom 0 8).filter (fun i => p.act.getLsbD i)

/-- The lane of the next block: block j of the port goes on active lane j mod n (R606). -/
def Port.txLane (p : Port) : Nat := p.lanes.getD (p.txBlk % p.lanes.length) 0

/-- A block leaves. -/
def State.blockOut (n : Nat) (data : Bool) (lseq : Nat) (bs : List Byte) (s : State) : State :=
  let p := s.port n
  ((s.send (.block n p.txLane (ctlWord p data lseq) bs)).updPort n (fun p => { p with txBlk := p.txBlk + 1 })).evL n 1 1

/-- Blocks that wait leave while fewer than 256 are unacknowledged (R610). -/
def State.pump (n : Nat) : Nat → State → State
  | 0, s => s
  | k + 1, s =>
    let p := s.port n
    match p.txq with
    | b :: rest =>
      if p.unack.length < 256 then
        State.pump n k ((s.setPort n { p with txq := rest, unack := p.unack ++ [(p.txSeq, b)], txSeq := (p.txSeq + 1) % 512 }).blockOut n true p.txSeq b)
      else s
    | [] => s

def State.pumpAll (n : Nat) (s : State) : State := State.pump n 256 s

/-- Pieces of `k` bytes. -/
def chunks {α : Type} (k : Nat) : Nat → List α → List (List α)
  | 0, _ => []
  | _, [] => []
  | fuel + 1, xs => xs.take k :: chunks k fuel (xs.drop k)

/-- Bytes leave on a port that is up, in blocks of 640 of their own; other ports lose them. -/
def State.portTx (n : Nat) (bs : List Byte) (s : State) : State :=
  if !(s.port n).isUp then s
  else (s.updPort n (fun p => { p with txq := p.txq ++ chunks 640 (bs.length + 1) bs })).pumpAll n

/-- BAR0 offset of LTH_RETRY of a port. -/
def retryOff (n : Nat) : Nat := 0x03010028 + 0x100 * n

/-- Replay of every unacknowledged block (R610); a port that has replayed 16 times without progress retrains instead. -/
def State.replay (n : Nat) (s : State) : State :=
  let p := s.port n
  if p.unack.isEmpty then s
  else if 16 ≤ p.replays then (s.portLeave n pDown).train n
  else
    let s := ((s.setPort n { p with replays := p.replays + 1, retry := satInc p.retry }).markRc (retryOff n)).evL n 3 1
    p.unack.foldl (fun s b => s.blockOut n true b.1 b.2) s

def execLinkReplayTimeout (n : Fin 16) (s : State) : Outcome := .next (if (s.port n.val).isUp then s.replay n.val else s)

/-- What ACK acknowledges: the blocks up to it, when it names one that is outstanding. -/
def Port.ackTo (a : Nat) (p : Port) : Port :=
  if (p.unack.map (·.1)).contains a then
    { p with unack := p.unack.drop ((p.unack.map (·.1)).findIdx (· == a) + 1), replays := 0 }
  else p

/-! ## Packets (R611, R622) -/

def Packet.header (p : Packet) (crc : Nat) : List Byte :=
  leBytes p.ptype 1 ++ leBytes p.hops 1 ++ leBytes p.pay.length 2 ++ leBytes p.dmod 2 ++ leBytes p.smod 2 ++ leBytes p.flow 2 ++
  leBytes p.flags 2 ++ leBytes p.seq 4 ++ leBytes p.addr 8 ++ leBytes p.aux 4 ++ leBytes crc 4

def padded (bs : List Byte) : List Byte := bs ++ List.replicate ((16 - bs.length % 16) % 16) 0

def Packet.bytes (p : Packet) : List Byte :=
  let pay := padded p.pay
  p.header (crc32 (p.header 0 ++ pay)).toNat ++ pay

/-- The packet that 32 header bytes and a payload spell. -/
def Packet.ofBytes (bs : List Byte) : Packet :=
  let f := fun o n => leNat ((bs.drop o).take n)
  { ptype := f 0 1, hops := f 1 1, dmod := f 4 2, smod := f 6 2, flow := f 8 2, flags := f 10 2, seq := f 12 4
    addr := f 16 8, aux := f 24 4, pay := (bs.drop 32).take (f 2 2) }

/-- Bytes of a whole packet whose header is here. -/
def packetLen (bs : List Byte) : Nat := 32 + (leNat ((bs.drop 2).take 2) + 15) / 16 * 16

/-- Does the CRC hold, and PLEN its range? -/
def packetOk (bs : List Byte) : Bool :=
  crc32 (bs.take 28 ++ [0, 0, 0, 0] ++ bs.drop 32) == BitVec.ofNat 32 (leNat ((bs.drop 28).take 4)) &&
  decide (leNat ((bs.drop 2).take 2) ≤ 4096)

def Packet.sr (p : Packet) : Bool := bitAt p.flags 2
def packetTypes : List Nat := [1, 2, 3, 4, 5, 8, 9, 0x0C, 0x0D]

/-- Is the packet for this module (R618, R620), or for the neighbour on a port? -/
def State.isLocal (s : State) (p : Packet) : Bool :=
  if p.sr then p.hops == 0 else p.dmod == 0xFFFF || (p.dmod == s.lath.id.toNat && s.lath.id != 0)

/-- Does a local packet reach something: discovery the controller, others a module with an ID (R615, R618)? -/
def State.reaches (s : State) (p : Packet) : Bool :=
  if p.ptype = 8 ∨ p.ptype = 9 then true else !p.sr && s.lath.id != 0

/-- A packet that arrived whole. -/
def State.packetIn (n : Nat) (bs : List Byte) (s : State) : State :=
  let inj := s.arm 0x0300002C 0 ≠ 0
  let s := if inj then s.disarm 0x0300002C 0 else s
  if inj ∨ ¬ packetOk bs then
    ((s.lthFlag 1).evL n 0x0B 1).errCE { Rec.base 0x15 0 0 (some n) none with unit := n }
  else
    let p := Packet.ofBytes bs
    if ¬ packetTypes.contains p.ptype then s.lthFlag 8
    else if s.isLocal p ∧ ¬ s.reaches p then s
    else (if s.isLocal p then s.evL n 7 1 else s).updLath (fun l => { l with rx := l.rx ++ [(n, p)] })

/-- One 16-byte unit of the stream (R611); the flag says that the rest of the block is padding. -/
def State.unitIn (n : Nat) (u : List Byte) (st : Bool × State) : Bool × State :=
  if st.1 then st
  else
    let s := st.2
    let p := s.port n
    if p.part.isEmpty ∧ u.headD 0 = 0 then (true, s)
    else
      let part := p.part ++ u
      if part.length < 32 ∨ part.length < packetLen part then (false, s.setPort n { p with part := part })
      else (false, (s.setPort n { p with part := [] }).packetIn n part)

/-- The data bytes of a delivered block. -/
def State.dataIn (n : Nat) (bs : List Byte) (s : State) : State :=
  ((chunks 16 41 ((bs ++ List.replicate (640 - bs.length) 0).take 640)).foldl (fun acc u => State.unitIn n u acc) (false, s)).2

/-- The control word of a block that arrived: ACK and NAK act on the sender (R608, R610). -/
def State.ctlIn (n : Nat) (ctl : Nat) (s : State) : State :=
  let s := (s.updPort n (Port.ackTo (bits ctl 8 0))).pumpAll n
  if bitAt ctl 19 then s.replay n else s

/-- A decoded block (R608, R609). After a data block an idle block carries ACK and NAK back. -/
def State.blockIn (n : Nat) (ctl : Nat) (bs : List Byte) (s : State) : State :=
  let s := s.ctlIn n ctl
  if !(s.port n).isUp then s
  else if bitAt ctl 18 then
    let p := s.port n
    let s := if bits ctl 17 9 = (p.rxSeq + 1) % 512 then
        (s.setPort n { p with rxSeq := bits ctl 17 9, nak := false }).dataIn n bs
      else s.setPort n { p with nak := true }
    s.blockOut n false 0 []
  else if 2 < (bs.headD 0).toNat then s.lthFlag 8 else s

/-- Logical lane received on a physical lane (LOG of Table 15.19). -/
def Port.logOf (p : Port) (i : Nat) : Nat := bits p.lmap.toNat (4 * i + 2) (4 * i)

/-- Logical lanes received, ascending: the order in which the neighbour filled them (R606). -/
def Port.rxOrder (p : Port) : List Nat := (rangeFrom 0 8).filter (fun l => p.lanes.any (fun i => p.logOf i == l))

/-- What a received codeword brings. A marker's identity and times have been taken at its arrival. -/
def State.wordIn (n : Nat) (w : RxWord) (s : State) : State :=
  match w with
  | .lost => s
  | .marker ctl => s.ctlIn n ctl
  | .block ctl data => s.blockIn n ctl data

/-- The words of the lanes are taken in the order in which the neighbour filled the lanes. Markers align the lanes: a lane whose
marker comes early gives nothing to the row, and one whose marker is still to come drops what stands before it (R606; how a
lane that has slipped is brought back DESIGN CHOICE, log 116). -/
def State.deskew (n : Nat) : Nat → State → State
  | 0, s => s
  | k + 1, s =>
    let p := s.port n
    match p.rxOrder[p.rxTurn]? with
    | none => if p.rxTurn = 0 then s else State.deskew n k (s.setPort n { p with rxTurn := 0, rxMark := none })
    | some l =>
      match Tbl.get [] p.rxq l with
      | [] => s
      | w :: rest =>
        let take := fun (m : Option Bool) => (s.setPort n { p with rxq := Tbl.set [] l rest p.rxq, rxTurn := p.rxTurn + 1, rxMark := m }).wordIn n w
        match w, p.rxMark with
        | .marker _, some false => State.deskew n k (s.setPort n { p with rxTurn := p.rxTurn + 1 })
        | .block _ _, some true => State.deskew n k (s.setPort n { p with rxq := Tbl.set [] l rest p.rxq })
        | .marker _, _ => State.deskew n k (take (some true))
        | .block _ _, _ => State.deskew n k (take (some false))
        | .lost, m => State.deskew n k (take m)

/-- A codeword arrives on a logical lane. -/
def State.laneIn (n l : Nat) (w : RxWord) (s : State) : State :=
  let s := s.updPort n (fun p => { p with rxq := Tbl.upd [] l (· ++ [w]) p.rxq })
  State.deskew n (9 * ((s.port n).rxq.foldl (fun m kv => m + kv.2.length) 0 + 1)) s

/-- Does the codeword that arrives fail: it does not decode, or LTH_INJ_FEC is armed (R607)? It is a lost block, replayed by the
neighbour: a corrected error. -/
def State.codeword (n : Nat) (ok : Bool) (s : State) : Bool × State :=
  let inj := s.arm 0x03000028 n ≠ 0
  let s := (if inj then s.disarm 0x03000028 n else s).evL n 2 1
  if inj ∨ ¬ ok then (true, (s.evL n 5 1).errCE { Rec.base 0x14 0 0 (some n) none with unit := n }) else (false, s)

/-- R606, R607, R609. -/
def execLinkBlockReceive (n : LaneId) (ctl : BitVec 20) (data : List Byte) (ok corrected : Bool) (s : State) : Outcome :=
  let p := s.port n.p.val
  if !p.isUp ∨ !p.act.getLsbD n.l.val then .next s
  else
    let r := s.codeword n.p.val ok
    let l := p.logOf n.l.val
    .next (if r.1 then r.2.laneIn n.p.val l .lost
      else (if corrected then r.2.evL n.p.val 4 1 else r.2).laneIn n.p.val l (.block ctl.toNat data))

/-! ## Markers and fabric time (R608, R636 to R638) -/

/-- The data bytes of a marker, up to byte 47. -/
def markerBytes (p : Port) (uid id port lane t : Nat) : List Byte :=
  leBytes 1 8 ++ leBytes uid 8 ++ leBytes id 2 ++ leBytes port 1 ++ leBytes lane 1 ++ leBytes 0 4 ++ leBytes t 8 ++ leBytes p.mkT2 8 ++
  leBytes p.mkT1 8

/-- Idle blocks of kind 0 fill the row, so that what follows stands in the same block position on every lane. -/
def State.fillRow (n : Nat) (s : State) : State :=
  let p := s.port n
  (rangeFrom 0 ((p.lanes.length - p.txBlk % p.lanes.length) % p.lanes.length)).foldl (fun s _ => s.blockOut n false 0 []) s

/-- R608. Every active lane sends a marker. -/
def execAlignmentMarkerSend (n : Fin 16) (s : State) : Outcome :=
  let p := s.port n.val
  if !p.isUp then .next s
  else .next (p.lanes.foldl (fun s i => s.blockOut n.val false 0 (markerBytes p Config.uid.toNat s.lath.id.toNat n.val i s.ft)) (s.fillRow n.val))

/-- FT is given a value (R637), in sixteenths of a CK_A. -/
def State.setFt (v : Nat) (s : State) : State :=
  match s.ftOff with
  | some _ => { s with ftOff := some ((v : Int) - 16 * s.now) }
  | none => s

/-- How far the offset has moved since each marker, newest first: the movements come newest first. -/
def drifts : Int → List (Nat × Int) → List Int
  | _, [] => []
  | sum, x :: xs => sum :: drifts (sum + x.2) xs

/-- R638: the offset to the TPORT neighbour moves by more than 1 CK_A within 1 s. `at_`: the FT that the marker gives. -/
def State.noteOffset (n at_ : Nat) (delta : Int) (s : State) : State :=
  let p := s.port n
  match p.off with
  | none => s.setPort n { p with off := some [(at_, 0)] }
  | some l =>
    let l := (l.filter (fun x => decide (at_ ≤ x.1 + 57600000000))) ++ [(at_, delta)]
    let s := s.setPort n { p with off := some l }
    if (drifts 0 l.reverse).any (fun d => decide (16 < d) || decide (d < -16)) then s.updLath (fun l => { l with nocomref := true }) else s

/-- DEPTH and NOTIME from the neighbour's DEPTH (R637, R638). -/
def Lath.place (depth : Option Nat) (l : Lath) : Lath :=
  match depth with
  | some d => if d + 1 ≤ 8 then { l with depth := BitVec.ofNat 4 (d + 1), notime := false } else { l with notime := true }
  | none => { l with notime := true }

/-- R637. The times of a marker; none are there before the neighbour has received a marker from here. -/
def State.markerTimes (n : Nat) (t1 t2 t3 : Nat) (depth : Option Nat) (s : State) : State :=
  let t4 := s.ft
  if t2 = 0 ∧ t3 = 0 then s
  else
    let d : Int := (((t4 : Int) - t1) - ((t3 : Int) - t2)) / 2
    let s := s.updPort n (fun p => { p with delay := BitVec.ofInt 32 d })
    if s.lath.root ∨ s.lath.tport.toNat ≠ n then s
    else
      let v := (t1 : Int) + d
      ((s.noteOffset n v.toNat (v - t4)).setFt v.toNat).updLath (fun l => l.place depth)

/-- A marker that arrived. -/
def State.markerIn (n : Nat) (bs : List Byte) (depth : Option Nat) (s : State) : State :=
  let f := fun o k => leNat ((bs.drop o).take k)
  let now := s.ft
  let s := s.updPort n (fun p => { p with nbruid := BitVec.ofNat 64 (f 8 8)
                                          nbr := BitVec.ofNat 32 (2 ^ 31 + f 18 1 % 16 * 65536 + f 16 2) })
  let s := s.checkDup (BitVec.ofNat 64 (f 8 8)) (BitVec.ofNat 16 (f 16 2))
  (s.markerTimes n (f 24 8) (f 32 8) (f 40 8) depth).updPort n (fun p => { p with mkT1 := f 24 8, mkT2 := now })

/-- R608, R637. A block that is not an idle block of kind 1 is no marker, and a marker names its logical lane. -/
def execAlignmentMarkerReceive (n : Fin 16) (ctl : BitVec 20) (data : List Byte) (depth : Option (BitVec 8)) (s : State) : Outcome :=
  let p := s.port n.val
  let l := (data.getD 19 0).toNat
  if !p.isUp ∨ ctl.getLsbD 18 ∨ data.headD 0 ≠ 1 ∨ ¬ p.rxOrder.contains l then .next s
  else
    let r := s.codeword n.val true
    .next (if r.1 then r.2.laneIn n.val l .lost
      else (r.2.markerIn n.val data (depth.map (·.toNat))).laneIn n.val l (.marker ctl.toNat))

/-! ## Routing (R615 to R621) -/

/-- Is some transmit queue or receive flow enabled (R616)? -/
def State.lathBusy (s : State) : Bool :=
  s.lath.tqs.any (fun kv => bitAt kv.2.cfg.toNat 31) || s.lath.rfts.any (fun kv => bitAt kv.2.cfg.toNat 31)

/-- A new module ID (R615, R616). -/
def State.setId (v : Nat) (s : State) : State :=
  if s.lathBusy ∨ v % 65536 = 0xFFFF then s else s.updLath (fun l => { l with id := BitVec.ofNat 16 v, dup := false })

/-- BAR0 offset of LTH_MODID. -/
def modidOff : Nat := 0x03000000

/-- Software writes LTH_MODID: its value stands against a SETID of the same cycle (Table 00.7). -/
def State.modid (v : Nat) (s : State) : State := (s.setId v).markWritten modidOff

def execLthModidWrite (f : Bool) (v : Word) (s : State) : Outcome := s.host f true (State.modid v.toNat)

/-- The hash of R620. -/
def routeHash (smod dmod flow : Nat) : Nat :=
  let h := (smod * 65536 + dmod) * 0x9E3779B1 % 2 ^ 32
  h ^^^ (flow * 0x85EBCA6B % 2 ^ 32)

/-- Next hop of a routed packet; none: no live port. -/
def State.nextHop (s : State) (p : Packet) : Option Nat :=
  let e := (Tbl.get 0 s.lath.routes p.dmod).toNat
  let live := ((rangeFrom 0 (bits e 2 0)).map (fun i => bits e (4 * i + 7) (4 * i + 4))).filter (fun n => (s.port n).isUp)
  live[(routeHash p.smod p.dmod (p.flow % 4096) / 65536 * live.length) / 65536]?

/-- A packet leaves on a port. -/
def State.packetOut (n : Nat) (p : Packet) (s : State) : State := (s.evL n 6 1).portTx n p.bytes

/-- A packet of this module: to itself, or on its route (R615, R620, R621). -/
def State.originate (p : Packet) (s : State) : State :=
  if s.lath.id = 0 then s
  else if p.dmod = s.lath.id.toNat then s.updLath (fun l => { l with rx := l.rx ++ [(16, p)] })
  else
    match s.nextHop p with
    | some n => s.packetOut n p
    | none => s.lthFlag 4

/-- Forward a packet (R618, R620, R621). -/
def State.forward (p : Packet) (s : State) : State :=
  if p.sr then
    (if p.aux < p.hops then s else s.packetOut (p.addr / 16 ^ (p.aux - p.hops) % 16) { p with hops := p.hops - 1 })
  else
    match s.nextHop p with
    | none => s.lthFlag 4
    | some n => if p.hops ≤ 1 then s.lthFlag 2 else s.packetOut n { p with hops := p.hops - 1 }

/-- Take the oldest packet when `pick` wants it. -/
def State.rxTake (s : State) (pick : Packet → Bool) : Option (Nat × Packet × State) :=
  match s.lath.rx with
  | (n, p) :: rest => if pick p then some (n, p, s.updLath (fun l => { l with rx := rest })) else none
  | [] => none

def execPacketForward (s : State) : Outcome :=
  match s.rxTake (fun p => !s.isLocal p) with
  | some (_, p, s) => .next (s.forward p)
  | none => .next s

/-- Do something with the oldest packet, when it is a local one of this type. -/
def State.onPacket (ty : Nat) (g : Nat → Packet → State → State) (s : State) : Outcome :=
  match s.rxTake (fun p => p.ptype == ty && s.isLocal p) with
  | some (n, p, s) => .next (g n p s)
  | none => .next s

/-! ## Discovery (R618, R619) -/

/-- The items of an answer: UID, ID, then STATE, active lanes, neighbour's UID, ID and port of each port. The manual gives
the items and no layout: they stand in its order, in 8, 2, 1, 1, 8, 2 and 1 bytes (DESIGN CHOICE, log 117). -/
def State.discItems (s : State) : List Byte :=
  leBytes Config.uid.toNat 8 ++ leBytes s.lath.id.toNat 2 ++ (rangeFrom 0 16).flatMap (fun n =>
    let p := s.port n
    leBytes p.st 1 ++ leBytes p.act.toNat 1 ++ leBytes p.nbruid.toNat 8 ++ leBytes (p.nbr.toNat % 65536) 2 ++
      leBytes (bits p.nbr.toNat 19 16) 1)

/-- A source-routed packet of the module's own leaves on the port of hop 0, as R618 forwards; with no hop it comes to the
controller itself. -/
def State.sourceRoute (p : Packet) (s : State) : State :=
  if p.hops = 0 then s.updLath (fun l => { l with rx := l.rx ++ [(16, p)] })
  else s.packetOut (p.addr / 16 ^ (p.aux - p.hops) % 16) { p with hops := p.hops - 1 }

/-- The answer to a discovery request: along the return path that the request's payload gives (R618, R619). -/
def State.discAnswer (s : State) (p : Packet) : Packet :=
  let f := fun o n => leNat ((p.pay.drop o).take n)
  { ptype := 9, hops := f 8 1, dmod := p.smod, smod := s.lath.id.toNat, flow := 0, flags := 4, seq := p.seq, addr := f 0 8, aux := f 8 1
    pay := s.discItems }

def execDiscReq (s : State) : Outcome :=
  s.onPacket 8 (fun _ p s =>
    let f := fun o n => leNat ((p.pay.drop o).take n)
    let s := if f 9 1 = 1 ∧ s.lath.id = 0 ∧ ¬ s.written modidOff then s.setId (f 10 2) else s
    s.sourceRoute (s.discAnswer p))

def execDiscRsp (s : State) : Outcome :=
  s.onPacket 9 (fun _ p s => s.updLath (fun l => { l with disc := l.disc ++ [p] }))

/-- LTH_RETRY is read, then clears; replays of the same cycle stay recorded and out of the value (R16, R17). -/
def State.retryTake (n : Nat) (s : State) : Nat × State :=
  let new := (s.freshAt (retryOff n)).setWidth 32
  (((s.port n).retry - new).toNat, (s.updPort n (fun p => { p with retry := new })).unmark (retryOff n))

def execLthRetryRead (f : Bool) (n : Fin 16) (s : State) : Outcome :=
  s.host f true (fun s => (s.retryTake n.val).2.answer f (s.retryTake n.val).1)

end Sys2Proof.Machine
end

