-- ==== Sys2Proof/Machine/LathFlow.lean ====
section
/-! DEFINITION. Lath transmit queues, receive flows and barriers (R386, R387, R623 to R635, R639 to R643, R654, R655). -/
namespace Sys2Proof.Machine
open Sys2Proof

def State.rft (s : State) (f : Nat) : Rft := Tbl.get Rft.reset s.lath.rfts f
def State.setRft (f : Nat) (r : Rft) (s : State) : State := s.updLath (fun l => { l with rfts := Tbl.set Rft.reset f r l.rfts })
def State.updRft (f : Nat) (g : Rft → Rft) (s : State) : State := s.setRft f (g (s.rft f))
def State.tq (s : State) (t : Nat) : Tq := Tbl.get Tq.reset s.lath.tqs t
def State.setTq (t : Nat) (q : Tq) (s : State) : State := s.updLath (fun l => { l with tqs := Tbl.set Tq.reset t q l.tqs })
def State.updTq (t : Nat) (g : Tq → Tq) (s : State) : State := s.setTq t (g (s.tq t))

/-! ## The receiver (R631 to R633) -/

/-- Fields of LTH_RFT. -/
def Rft.en (r : Rft) : Bool := bitAt r.cfg.toNat 31
def Rft.niche (r : Rft) : Nat := bits r.cfg.toNat 30 26
def Rft.ped (r : Rft) : Nat := bits r.cfg.toNat 25 21
def Rft.smod (r : Rft) : Nat := bits r.cfg.toNat 15 0

/-- EPOCH of a packet. -/
def Packet.epoch (p : Packet) : Nat := bits p.flags 15 8

/-- An answer of the receiver to the sender of a packet; it carries the entry's epoch. -/
def State.respond (p : Packet) (ty seq aux : Nat) (s : State) : State :=
  let r := s.rft (p.flow % 4096)
  s.originate { ptype := ty, hops := 32, dmod := p.smod, smod := s.lath.id.toNat, flow := p.flow % 4096, flags := 256 * r.epoch.toNat
                seq := seq % 2 ^ 32, addr := 0, aux := aux, pay := [] }

def State.sendAck (p : Packet) (s : State) : State :=
  let f := p.flow % 4096
  (s.updRft f (fun r => { r with since := 0 })).respond p 3 ((s.rft f).exp - 1).toNat 0

/-- What row 6 of Table 15.7 finds: the code of the destination's failure, or its translations. -/
def State.landCheck (r : Rft) (p : Packet) (s : State) : Option Nat × List PageMap × State :=
  if s.ras.rsts.any (fun x => x.scope == 4 && x.ped == r.ped) then (some cResetAbort, [], s)
  else if p.pay.isEmpty then (none, [], s)
  else
    let x := s.resolveDva (Rec.base 0 1 0 none (some r.niche)) r.ped r.niche true p.addr 0 p.pay.length 1
    (x.st.orReset (tableOrder x.codes) x.map, x.map, x.st)

/-- The pedestal by which a packet arrives: its port's; one of the module's own, which no port brought, the controller's. -/
def landPed (n : Nat) : Nat := if n < 16 then n else 0

/-- Rows 4 to 7 of Table 15.7. Between port and destination the payload crosses the dynamic share, where a lost slot fails it
(R43, R649). -/
def State.land (n : Nat) (p : Packet) (s : State) : State :=
  let f := p.flow % 4096
  let r := s.rft f
  let back := (r.exp - BitVec.ofNat 32 p.seq).toNat
  if 1 ≤ back ∧ back ≤ 2 ^ 31 then (s.evL n 9 1).sendAck p
  else if back ≠ 0 then (s.evL n 8 1).respond p 4 r.exp.toNat 0
  else
    let c := s.landCheck r p
    match c.1 with
    | some code => (c.2.2.respond p 5 p.seq code).updRft f (fun r => { r with held := true, hcode := code, due := false })
    | none =>
      let t := c.2.2.dvaWrite (landPed n) c.2.1 p.addr p.pay
      if slotLost c.2.2 t then (t.respond p 5 p.seq cUncorrectable).updRft f (fun r => { r with held := true, hcode := cUncorrectable, due := false })
      else
      let s := t.setRft f { r with exp := r.exp + 1, since := r.since + 1 }
      let last := bitAt p.flags 0
      let s := if last ∧ p.aux % 65536 ≠ 0 ∧ r.ctr.toNat / 1024 < 20 then s.signalNow r.ctr.toNat (p.aux % 65536) else s
      if last ∨ 32 ≤ r.since + 1 then s.sendAck p else s

/-- Table 15.7. -/
def State.accept (n : Nat) (p : Packet) (s : State) : State :=
  let f := p.flow % 4096
  let r := s.rft f
  if ¬ r.en ∨ p.smod ≠ r.smod then s.respond p 5 p.seq cPermission
  else if bitAt p.flags 1 ∧ p.epoch = (r.epoch.toNat + 1) % 256 then
    (s.setRft f { r with epoch := BitVec.ofNat 8 p.epoch, exp := BitVec.ofNat 32 p.seq, held := false, due := false, hcode := 0 }).land n p
  else if p.epoch ≠ r.epoch.toNat ∨ r.held then
    (if r.held ∧ r.due then (s.respond p 5 p.seq r.hcode).setRft f { r with due := false } else s)
  else s.land n p

def execWritePacket (s : State) : Outcome := s.onPacket 1 State.accept

/-- A SIGNAL carries no payload. -/
def execSignalPacket (s : State) : Outcome := s.onPacket 2 (fun n p => State.accept n { p with pay := [] })

/-- R632. 2 µs have passed since the last delivery of a flow. -/
def execAckTimer (flow : BitVec 12) (s : State) : Outcome :=
  let r := s.rft flow.toNat
  if r.since = 0 ∨ ¬ r.en then .next s
  else .next (s.sendAck { ptype := 1, hops := 0, dmod := 0, smod := r.smod, flow := flow.toNat, flags := 0, seq := 0, addr := 0
                          aux := 0, pay := [] })

/-! ## The sender (R623 to R630, R634, R635) -/

def Tq.en (q : Tq) : Bool := bitAt q.cfg.toNat 31
def Tq.niche (q : Tq) : Nat := bits q.cfg.toNat 30 26
def Tq.ped (q : Tq) : Nat := bits q.cfg.toNat 25 21
def Tq.size (q : Tq) : Nat := bits q.cfg.toNat 3 0
def Tq.dmod (q : Tq) : Nat := bits q.dest.toNat 31 16
def Tq.flow (q : Tq) : Nat := bits q.dest.toNat 11 0

/-- MPA of a ring entry. -/
def Tq.entryAddr (q : Tq) (idx : Nat) : Nat := plinthBase q.ped + q.base.toNat / 64 * 64 + 64 * (idx % 2 ^ q.size)

/-- Has the entry yet to complete? Entries behind a failure complete ORDER_HELD at retirement only (R634). -/
def TqEntry.openEnd (e : TqEntry) : Bool := e.done.isNone || e.done == some cOrderHeld

/-- An entry signals its counter (R625, R626). -/
def State.tqSignal (q : Tq) (e : TqEntry) (s : State) : State :=
  if e.cen ∧ (s.niche q.niche).ownsCtr e.ctr then s.signalNow e.ctr e.inc else s

/-- Retire front entries in ring order, writing STATUS (R419, R629, R634). -/
def State.tqRetire (t : Nat) : Nat → State → State
  | 0, s => s
  | k + 1, s =>
    let q := s.tq t
    match q.ents with
    | e :: rest =>
      match e.done with
      | some c =>
        let s := if c = cOrderHeld then s.tqSignal q e else s
        let st := 2 ^ 31 + (if e.part then 256 else 0) + c
        State.tqRetire t k (State.mpaStore (q.entryAddr e.idx + 4) (leBytes st 4) (s.updTq t (fun q => { q with ents := rest })))
      | none => s
    | [] => s

def State.tqRetireAll (t : Nat) (s : State) : State := State.tqRetire t ((s.tq t).ents.length + 1) s

/-- An entry completes with a code. -/
def State.tqDone (t idx code : Nat) (part : Bool) (s : State) : State :=
  let q := s.tq t
  match q.ents.find? (fun e => e.idx == idx && e.openEnd) with
  | none => s
  | some e =>
    (s.setTq t { q with ents := q.ents.map (fun x => if x.idx = idx then { x with done := some code, part := part } else x) }).tqSignal q e

/-- Was an earlier packet of the entry acknowledged (R634)? -/
def TqEntry.partOf (q : Tq) (e : TqEntry) : Bool :=
  let d := (q.acked - e.seq0).toNat
  decide (0 < d) && decide (d ≤ e.npk)

/-- Where the packets of a WRITE begin, and their lengths: cut at 4 KiB boundaries of DST (R627). -/
def cuts : Nat → Nat → Nat → Nat → List (Nat × Nat)
  | 0, _, _, _ => []
  | fuel + 1, off, dst, len =>
    if len = 0 then []
    else let n := min len (4096 - dst % 4096); (off, n) :: cuts fuel (off + n) (dst + n) (len - n)

def TqEntry.cuts (e : TqEntry) : List (Nat × Nat) :=
  if e.op = 2 then [(0, 0)] else Sys2Proof.Machine.cuts (e.len / 4096 + 2) 0 e.dst e.len

/-- The port that a TQ's packets take. -/
def State.tqPort (s : State) (q : Tq) : Option Nat :=
  s.nextHop { ptype := 1, hops := 32, dmod := q.dmod, smod := s.lath.id.toNat, flow := q.flow, flags := 0, seq := 0, addr := 0
              aux := 0, pay := [] }

/-- The dynamic share carries the packets from the TQ's pedestal to the port's; a packet whose slot is lost does not leave, and
the flow resends it (R43, R630, R649). -/
def State.tqCross (t : Nat) (s : State) : Bool × State :=
  let q := s.tq t
  match s.tqPort q with
  | some n => s.dynCross (Rec.base 0 1 0 none (some q.niche)) q.ped n
  | none => (false, s)

/-- Packet `i` of an entry, at offset and length `c`; its source bytes are read when it is sent (R627, R628). -/
def State.cutPacket (s : State) (t : Nat) (e : TqEntry) (i : Nat) (c : Nat × Nat) : Packet :=
  let q := s.tq t
  let last := i + 1 == e.npk
  let seq := e.seq0 + BitVec.ofNat 32 i
  { ptype := e.op, hops := 32, dmod := q.dmod, smod := s.lath.id.toNat, flow := q.flow
    flags := (if last then 1 else 0) + (if q.rsq = some seq then 2 else 0) + 256 * q.epoch.toNat
    seq := seq.toNat, addr := if e.op = 2 then 0 else e.dst + c.1, aux := if last then e.rinc else 0
    pay := if e.op = 2 then [] else (rangeFrom (e.src + c.1) c.2).map (s.dvaByte e.maps) }

/-- Send packet `i` of an entry. -/
def State.sendCut (t : Nat) (e : TqEntry) (i : Nat) (s : State) : State :=
  match e.cuts[i]? with
  | none => s
  | some c =>
    let r := s.tqCross t
    if r.1 then r.2 else r.2.originate (r.2.cutPacket t e i c)

def State.sendEntry (t : Nat) (e : TqEntry) (s : State) : State :=
  (rangeFrom 0 e.npk).foldl (fun s i => s.sendCut t e i) s

/-- Resend every unacknowledged packet of the flow in SEQ order (R630). -/
def State.tqResend (t : Nat) (s : State) : State :=
  let q := s.tq t
  (q.ents.filter (fun e => e.done.isNone)).foldl (fun s e =>
    ((rangeFrom 0 e.npk).filter (fun i => decide ((e.seq0 + BitVec.ofNat 32 i - q.acked).toNat < 2 ^ 31))).foldl
      (fun s i => s.sendCut t e i) s) s

/-- The entry that 64 bytes spell (Table 15.6), and whether a reserved field is set (R626). -/
def tqEntryOf (idx : Nat) (bs : List Byte) : TqEntry × Bool :=
  let f := fun o n => leNat ((bs.drop o).take n)
  let op := bits (f 0 4) 3 0
  let e : TqEntry :=
    { idx := idx, op := op, cen := bitAt (f 0 4) 4, src := f 8 8, dst := f 16 8, len := f 24 4, rinc := f 28 2, ctr := f 32 2 % 2 ^ 15
      inc := f 34 2, maps := [], seq0 := 0, npk := 0, done := none, part := false }
  (e, (op != 1 && op != 2) || bits (f 0 4) 31 5 != 0 || f 30 2 != 0 || (e.cen && bitAt (f 32 2) 15) || f 0x24 20 != 0)

/-- The check of R626: the code of the first condition, or the translations of the source. -/
def State.tqCheck (q : Tq) (e : TqEntry) (bad : Bool) (s : State) : Option Nat × List PageMap × State :=
  let ctrBad := e.cen && !(s.niche q.niche).ownsCtr e.ctr
  if bad then (some cBadDescriptor, [], s)
  else if e.op = 2 then (if ctrBad then some cPermission else none, [], s)
  else if e.len = 0xFFFFFFFF then (some cLengthInvalid, [], s)
  else if e.len = 0 then (some (if ctrBad then cPermission else cDone), [], s)
  else
    let r := s.resolveDva (Rec.base 0 1 0 none (some q.niche)) q.ped q.niche false e.src 0 e.len 1
    match r.st.orReset (tableOrder ((if ctrBad then [cPermission] else []) ++ r.codes)) r.map with
    | some c => (some c, [], r.st)
    | none =>
      let d := r.st.dvaRead q.ped r.map q.niche e.src e.len
      (if d.2.1 = cDone then none else some d.2.1, r.map, d.2.2)

/-- May the engine take an entry: TQ enabled and not held, the module running with an ID, no reset of its pedestal? -/
def State.tqRuns (s : State) (t : Nat) : Bool :=
  let q := s.tq t
  q.en && !q.held && s.allUp && s.pwr.stop == 0 && s.lath.id != 0 && decide (q.ents.length < 2 ^ q.size) &&
  !s.ras.rsts.any (fun r => r.scope == 4 && r.ped == q.ped)

/-- R624 to R627. -/
def execTqEntryTake (t : BitVec 8) (s : State) : Outcome :=
  let t := t.toNat
  if !s.tqRuns t then .next s
  else
    match s.ctrTake (s.tq t).pctr.toNat with
    | none => .next s
    | some s =>
      let q := s.tq t
      let idx := q.taken.toNat
      let r := s.readRun (Rec.base 0 1 0 none (some q.niche)) (q.entryAddr idx) 64
      let eb := tqEntryOf idx r.1
      let c := if r.2.1 ≠ cDone then (some r.2.1, [], r.2.2) else r.2.2.tqCheck q eb.1 eb.2
      let e := { eb.1 with cen := eb.1.cen && r.2.1 == cDone, maps := c.2.1, seq0 := q.next }
      let s := c.2.2
      match c.1 with
      | some code =>
        let s := s.setTq t { q with taken := q.taken + 1, ents := q.ents ++ [e] }
        .next ((s.tqDone t idx code false).tqRetireAll t)
      | none =>
        let e := { e with npk := e.cuts.length }
        let s := s.setTq t { q with taken := q.taken + 1, ents := q.ents ++ [e], next := q.next + BitVec.ofNat 32 e.npk
                                    acked := if q.ents.any (fun x => x.done.isNone) then q.acked else q.next }
        .next (s.sendEntry t e)

/-- The TQ that a packet of the receiver answers. -/
def State.tqOf (s : State) (p : Packet) : Option Nat :=
  (s.lath.tqs.find? (fun kv => kv.2.en && kv.2.dmod == p.smod && kv.2.flow == p.flow % 4096)).map (·.1)

/-- R629. An ACK beyond the last SEQ sent covers all of them. -/
def State.ackIn (_ : Nat) (p : Packet) (s : State) : State :=
  match s.tqOf p with
  | none => s
  | some t =>
    let q := s.tq t
    let upTo := BitVec.ofNat 32 p.seq + 1
    let fwd := (upTo - q.acked).toNat
    if fwd = 0 ∨ 2 ^ 31 ≤ fwd then s
    else
      let s := s.setTq t { q with acked := if (q.next - q.acked).toNat < fwd then q.next else upTo, expiries := 0 }
      let fin := q.ents.filter (fun e => e.done.isNone && decide ((upTo - (e.seq0 + BitVec.ofNat 32 e.npk)).toNat < 2 ^ 31))
      (fin.foldl (fun s e => s.tqDone t e.idx cDone false) s).tqRetireAll t

def execAckPacket (s : State) : Outcome := s.onPacket 3 State.ackIn

/-- R630. -/
def execNakPacket (s : State) : Outcome :=
  s.onPacket 4 (fun _ p s => match s.tqOf p with
    | some t => if (s.tq t).held then s else s.tqResend t
    | none => s)

/-- Entries behind the one at `idx` will complete ORDER_HELD (R634). -/
def Tq.doom (idx : Nat) (q : Tq) : Tq :=
  let i := (q.ents.map (·.idx)).findIdx (· == idx)
  { q with held := true, ents := q.ents.take (i + 1) ++ (q.ents.drop (i + 1)).map (fun e =>
    if e.done.isNone then { e with done := some cOrderHeld } else e) }

/-- An entry fails and holds the TQ (R634, R654). -/
def State.tqFail (t : Nat) (e : TqEntry) (code : Nat) (s : State) : State :=
  ((s.tqDone t e.idx code (e.partOf (s.tq t))).updTq t (Tq.doom e.idx)).tqRetireAll t

/-- R634. A NACK whose SEQ no unretired entry holds, or whose code Table 00.8 does not give, changes nothing (R19; DESIGN CHOICE,
log 118). -/
def State.nackIn (n : Nat) (p : Packet) (s : State) : State :=
  let s := s.evL n 0x0A 1
  match s.tqOf p with
  | none => s
  | some t =>
    match (s.tq t).ents.find? (fun e => decide (p.aux % 256 ≤ cFaultPending) && e.done.isNone && decide ((BitVec.ofNat 32 p.seq - e.seq0).toNat < e.npk)) with
    | some e => s.tqFail t e (p.aux % 256)
    | none => s

def execNackPacket (s : State) : Outcome := s.onPacket 5 State.nackIn

/-- RETRIES of LTH_E2E. -/
def State.retries (s : State) : Nat := bits s.lath.e2e.toNat 19 16

/-- R630. No ACK has advanced for TO µs while packets are unacknowledged. -/
def execE2eTimeout (t : BitVec 8) (s : State) : Outcome :=
  let t := t.toNat
  let q := s.tq t
  match q.ents.find? (fun e => e.done.isNone) with
  | none => .next s
  | some e =>
    if q.expiries + 1 < s.retries then
      let s := s.setTq t { q with expiries := q.expiries + 1 }
      .next (if q.held then s else s.tqResend t)
    else .next ((s.setTq t { q with expiries := 0 }).tqFail t e cTimeout)

/-- The next packet of the flow carries RESYNC with the next epoch; entries before the failure that wait for their ACK go on
(R635). -/
def Tq.resync (q : Tq) : Tq := { q with held := false, epoch := q.epoch + 1, rsq := some q.next, expiries := 0 }

/-- R635. -/
def State.tqResume (t : Nat) (s : State) : State := if (s.tq t).held then s.updTq t Tq.resync else s

def execTqResume (f : Bool) (t : BitVec 8) (s : State) : Outcome := s.host f true (State.tqResume t.toNat)

/-- R635. -/
def State.tqCancel (t : Nat) (s : State) : State :=
  let q := s.tq t
  let s := (q.ents.filter TqEntry.openEnd).foldl (fun s e => s.tqDone t e.idx cCancelled (e.partOf q)) s
  (s.tqRetireAll t).updTq t Tq.resync

def execTqCancel (f : Bool) (t : BitVec 8) (s : State) : Outcome := s.host f true (State.tqCancel t.toNat)

def tqCfgMask : BitVec 32 := 0xFFE0000F

/-- LTH_TQCFG (R623). -/
def State.tqcfg (f : Bool) (t : Nat) (v : Word) (s : State) : State :=
  let q := s.tq t
  let on := bitAt v.toNat 31
  if q.en then
    (if on ∨ ¬ q.ents.isEmpty then s else s.setTq t { q with cfg := q.cfg &&& 0x7FFFFFFF })
  else
    let q' := { q with cfg := v &&& tqCfgMask }
    if on ∧ ¬ (4 ≤ q'.size ∧ q'.size ≤ 12 ∧ (s.niche q'.niche).owner = some f ∧ (s.niche q'.niche).ownsCtr q.pctr.toNat ∧
        q.pctr.toNat / 1024 = q'.ped) then s
    else s.setTq t q'

def execLthTqcfgWrite (f : Bool) (t : BitVec 8) (v : Word) (s : State) : Outcome := s.host f true (State.tqcfg f t.toNat v)

/-! ## Barriers (R386, R387, R639 to R641) -/

/-- The instance that a barrier job waits for, while it has not started. -/
def State.barWait (s : State) (j : Nat) : Option BarWait :=
  match s.job j with
  | some jb => if jb.st = .staged then s.lath.waits.find? (fun w => w.job == j) else none
  | none => none

def State.setWait (w : BarWait) (s : State) : State :=
  s.updLath (fun l => { l with waits := l.waits.map (fun x => if x.job = w.job then w else x) })

/-- A packet of the barrier protocol. -/
def State.barPacket (s : State) (ty dmod addr inst : Nat) : Packet :=
  { ptype := ty, hops := 32, dmod := dmod, smod := s.lath.id.toNat, flow := 0, flags := 0, seq := 0, addr := addr, aux := inst, pay := [] }

/-- R640. The images of an accepted job are staged (R245): the member sends its arrival, whether or not the clusters are free. -/
def execBarrierArriveSend (j : BitVec 32) (s : State) : Outcome :=
  match s.barWait j.toNat, s.job j.toNat with
  | some w, some jb =>
    if w.sent ∨ ¬ s.entryMayRun jb.sq jb.seq ∨ s.pwr.stop ≠ 0 then .next s
    else
      let g := s.grp w.grp
      .next ((s.setWait { w with sent := true }).originate (s.barPacket 0x0C g.leader g.gid w.inst.toNat))
  | _, _ => .next s

/-- Lead of a group, in frames (Table 15.25). -/
def Grp.lead (g : Grp) : Nat := if bits g.bgt.toNat 7 0 < 2 then 8 else bits g.bgt.toNat 7 0

/-- The fabric frame that is running (R384). -/
def State.fabricFrame (s : State) : Nat := s.ft / 131072

def Lath.putArrivals (a : Arrivals) (l : Lath) : Lath :=
  { l with arrivals := l.arrivals.filter (fun x => !(x.gid == a.gid && x.inst == a.inst)) ++ [a] }

/-- R640. The leader counts an arrival; the last one releases the instance. -/
def State.arrive (_ : Nat) (p : Packet) (s : State) : State :=
  let gid := p.addr % 65536
  match s.lath.groups.find? (fun kv => kv.2.gid == gid && kv.2.leader == s.lath.id.toNat && kv.2.nmem != 0) with
  | none => s
  | some (_, g) =>
    let inst := BitVec.ofNat 32 p.aux
    let a := (s.lath.arrivals.find? (fun a => a.gid == gid && a.inst == inst)).getD ⟨gid, inst, [], false⟩
    if a.released ∨ a.mods.contains p.smod then s
    else
      let a := { a with mods := a.mods ++ [p.smod] }
      let full := a.mods.length == g.nmem
      let s := s.updLath (Lath.putArrivals { a with released := full })
      if full then
        a.mods.foldl (fun s m => s.originate (s.barPacket 0x0D m ((s.fabricFrame + g.lead) % 2 ^ 48 + gid * 2 ^ 48) p.aux)) s
      else s

def execBarArrive (s : State) : Outcome := s.onPacket 0x0C State.arrive

/-- The waits that a release matches (R641). -/
def State.released (s : State) (gid : Nat) (inst : BitVec 32) : List BarWait :=
  s.lath.waits.filter (fun w => (s.barWait w.job).isSome && w.sent && w.frel.isNone && (s.grp w.grp).gid == gid && w.inst == inst)

/-- A barrier job that cannot start completes TIMEOUT (R387, R641). -/
def State.barTimeout (j : Nat) (s : State) : State := (s.dropWait j).finishJob j cTimeout

/-- R641, R387. -/
def State.release (_ : Nat) (p : Packet) (s : State) : State :=
  let frel := p.addr % 2 ^ 48
  (s.released (p.addr / 2 ^ 48) (BitVec.ofNat 32 p.aux)).foldl (fun s w =>
    if frel ≤ s.fabricFrame then (s.lthFlag 16).barTimeout w.job else s.setWait { w with frel := some frel }) s

def execBarRelease (s : State) : Outcome := s.onPacket 0x0D State.release

/-- The cycle of the edge that begins the module's own frame `f`. An edge that lags a fabric frame edge by at most 2 CK_A begins
that frame; one that lags more holds until the next and begins that one (R385, R386). -/
def State.edgeOf (s : State) (f : Nat) : Option Int :=
  s.ftOff.map (fun o => ((f : Int) - (o + 131039) / 131072) * 8192)

/-- R386. The job starts on the edge that begins frame F_rel; one whose frame has gone by completes TIMEOUT, as R387 has it
for a late release. -/
def execBarrierJobStart (j : BitVec 32) (s : State) : Outcome :=
  match s.barWait j.toNat, s.job j.toNat with
  | some w, some jb =>
    match w.frel.bind s.edgeOf with
    | none => .next s
    | some e =>
      if e < s.now then .next (s.barTimeout j.toNat)
      else if ¬ s.canStart jb ∨ s.gated then .next s
      else
        let s := s.toEdge e.toNat
        .next (if ¬ s.canStart jb then s else if s.inTest jb then (s.dropWait j.toNat).finishJob j.toNat cBusy
          else (s.dropWait j.toNat).launch j.toNat jb)
  | _, _ => .next s

/-- R641. No matching release within BTO of the arrival. -/
def execBarrierTimeout (j : BitVec 32) (s : State) : Outcome :=
  match s.barWait j.toNat with
  | some w => .next (if w.sent ∧ w.frel.isNone then s.barTimeout j.toNat else s)
  | none => .next s

end Sys2Proof.Machine
end

