-- ==== Sys2Proof/Machine/Ras.lean ====
section
/-! DEFINITION. Partial resets, run-time tests, spares and the event counters' controls (R30, R31, R656 to R662, R674 to
R696). -/
namespace Sys2Proof.Machine
open Sys2Proof

/-! ## Targets (Table 16.4) -/

/-- Physical cores and clusters of a target. -/
def RstRun.cores (r : RstRun) : List Nat :=
  match r.scope with
  | 1 => [(r.ped * 8 + r.clus) * 16 + r.unit]
  | 2 => rangeFrom ((r.ped * 8 + r.clus) * 16) 16
  | 4 => rangeFrom (r.ped * 128) 128
  | _ => []

def RstRun.clusters (r : RstRun) : List Nat :=
  match r.scope with
  | 2 => [r.ped * 8 + r.clus]
  | 4 => rangeFrom (r.ped * 8) 8
  | _ => []

/-- Media engines of a target, as kind and engine. -/
def RstRun.engines (r : RstRun) : List (Nat × Nat) :=
  match r.scope with
  | 3 => [(r.unit / 2, if r.unit = 4 then 0 else r.unit % 2)]
  | 4 => [(0, 0), (0, 1), (1, 0), (1, 1), (2, 0)]
  | _ => []

/-- BAR0 ranges of the target's register blocks: first byte and length. -/
def RstRun.blocks (r : RstRun) : List (Nat × Nat) :=
  (match r.scope with
   | 1 => r.cores.map (fun k => (corePage k, 0x1000))
   | 2 => r.cores.map (fun k => (corePage k, 0x1000)) ++ r.clusters.map (fun c => (clusPage c, 0x1000))
   | 4 => [(pedBase r.ped, 0x400000)]
   | _ => []) ++
  (if r.scope = 3 then r.engines.map (fun ke =>
    if ke.1 = 0 then (pixBlock r.ped + ke.2 * 0x1000, 0x1000) else if ke.1 = 1 then (entBlock r.ped + ke.2 * 0x1000, 0x1000)
    else (skmBlock r.ped, 0x40000)) else []) ++
  (if r.scope = 5 then [(0x03010000 + r.unit * 0x100, 0x100)] else []) ++
  (if r.scope = 6 then [(plnBlock r.unit + 0x100, 4)] else [])

/-- Does the target hold a BAR0 address? -/
def RstRun.owns (r : RstRun) (a : Nat) : Bool := r.blocks.any (fun b => decide (b.1 ≤ a) && decide (a < b.1 + b.2))

/-- Is a BAR0 address in a running reset or test (R660)? -/
def State.inReset (s : State) (a : Nat) : Bool := s.ras.rsts.any (fun r => r.owns a)

/-- Is a job one of those that the reset stops (Table 16.4)? -/
def State.jobHit (s : State) (r : RstRun) (jb : Job) : Bool :=
  match r.scope with
  | 1 => jb.cast.places.any (fun pl => s.physOf pl.2.1 pl.2.2 == some ((r.ped * 8 + r.clus) * 16 + r.unit))
  | _ => jb.clus.any (fun c => r.clusters.contains c)

/-! ## Engines (R659, Table 16.5) -/

/-- The frame commands that `hit` names leave a pedestal's engines, with the unit that waits to be written for one. -/
def Ped.dropFrames (hit : PixCmd → Bool) (x : Ped) : Ped :=
  { x with
    pixRun := Tbl.map none (fun _ o => o.filter (fun k => !hit k)) x.pixRun
    pixSaved := x.pixSaved.filter (fun k => !hit k.2)
    units := x.units.filter (fun u => !(u.for_ == .frame && x.frames.any (fun f => hit f.pix && f.pix.cmd.stream == u.stream)))
    frames := x.frames.filter (fun f => !hit f.pix) }

/-- Frame commands and Skim jobs of a pedestal whose pictures, records or data lie in the target complete RESET_ABORT. -/
def State.abortMedia (r : RstRun) (p : Nat) (s : State) : State :=
  let x := s.ped p
  let hit := fun (k : PixCmd) => s.mapsHit r k.maps
  let hitJ := fun (j : SkimJob) => s.mapsHit r j.maps
  let frames := (x.pixRun.filterMap (·.2) ++ x.pixSaved.map (·.2) ++ x.frames.map (·.pix)).filter hit
  let jobs := (x.skmRun.toList ++ x.skmSaved).filter hitJ
  let s := s.updPed p (fun x => { x.dropFrames hit with
    skmRun := x.skmRun.filter (fun j => !hitJ j), skmSaved := x.skmSaved.filter (fun j => !hitJ j) })
  let s := frames.foldl (fun s k => s.ringDone p k.cmd cResetAbort) s
  jobs.foldl (fun s j => (s.skmVoid p j.cmd j.block).ringDone p j.cmd cResetAbort) s

/-- Registers and inner state of an engine at their reset values. -/
def Ped.resetEngine (kind e : Nat) (x : Ped) : Ped :=
  let rings := (rangeFrom 0 4).foldl (fun t c => Tbl.set Ring.reset (ringKey kind e c) Ring.reset t) x.rings
  match kind with
  | 0 => { x with rings := rings, pixErr := Tbl.set 0 e 0 x.pixErr, pixRun := Tbl.set none e none x.pixRun
                  pixSaved := x.pixSaved.filter (fun k => k.1 != e), frames := x.frames.filter (fun f => f.peng != e) }
  | 1 => { x with rings := rings, entErr := Tbl.set 0 e 0 x.entErr, entSym := Tbl.set 0 e 0 x.entSym
                  frames := x.frames.filter (fun f => f.eeng != e), units := x.units.filter (fun u => u.eeng != e)
                  decs := x.decs.filter (fun d => d.eeng != e)
                  etab := Tbl.keep (fun k _ => k / 65536 / 16 != e) x.etab, etabN := Tbl.keep (fun k _ => k / 16 != e) x.etabN }
  | _ => { x with rings := rings, skmErr := 0, skmRun := none, skmSaved := [], skmIn := 0, skmOut := 0 }

/-- Every command of a Skim ring ends with RESET_ABORT; jobs write OUTLEN and FAILBLK (R549). -/
def State.skmDrop (p c : Nat) (s : State) : State :=
  let key := ringKey 2 0 c
  let begun := ((s.ped p).skmRun.toList ++ (s.ped p).skmSaved).filter (fun j => j.cmd.ring == key)
  let s := s.updPed p (fun x => { x with
    skmRun := x.skmRun.filter (fun j => j.cmd.ring != key), skmSaved := x.skmSaved.filter (fun j => j.cmd.ring != key) })
  (s.skmVoidRing p key (begun.map (·.cmd.idx)) begun).ringCancel p key [] cResetAbort

/-- Every command of an engine completes RESET_ABORT, in ring order (R659, R760). -/
def State.abortEngine (p kind e : Nat) (s : State) : State :=
  let coded := if kind = 1 then ((s.ped p).frames.filter (fun f => f.eeng == e)).map (·.pix.cmd) else []
  let s := (rangeFrom 0 4).foldl (fun s c =>
    if kind = 0 then s.pixDrop p e c cResetAbort else if kind = 1 then s.entDrop p e c cResetAbort else s.skmDrop p c) s
  coded.foldl (fun s c => s.ringDone p c cResetAbort) (s.updPed p (Ped.dropFrames (fun k => coded.contains k.cmd)))

/-- An engine is reset. -/
def State.resetEngine (p kind e : Nat) (s : State) : State := (s.abortEngine p kind e).updPed p (Ped.resetEngine kind e)

/-! ## The latch (R656 to R661) -/

/-- Every queue that holds entries. -/
def State.allQueues (s : State) : List QRef := s.coreQueues ++ s.hostQueues.map (fun n => QRef.sq n)

/-- The address of the byte that an entry with rows moved before its next one. -/
def Desc.lastDst (d : Desc) (moved : Nat) : Nat :=
  let i := moved - 1
  d.dst + i / d.len * d.dstride + i % d.len

/-- The destination segment that an entry has written in part is marked poisoned (R659). -/
def State.poisonPart (q : QRef) (e : Entry) (s : State) : State :=
  let da := (s.nextPiece q e).2.1
  if e.phase = .running ∧ 0 < e.moved ∧ e.moved < e.desc.bytes ∧ e.desc.lastDst e.moved / 64 = da / 64 then
    match s.spots q e.fn e.desc.dk e.dstMap da 1 with
    | (some (.mpa a), _) :: _ => s.markPoison a 1
    | _ => s
  else s

/-- Outstanding DMA entries that touch the target complete RESET_ABORT (R659). -/
def State.abortEntries (r : RstRun) (s : State) : State :=
  s.allQueues.foldl (fun s q =>
    let hit := fun (e : Entry) => e.phase != .complete && e.desc.op != 8 && e.desc.op != 10 && s.entryHit r q e
    let s := ((s.qEntries q).filter hit).foldl (fun s e => s.poisonPart q e) s
    s.qAbort q cResetAbort hit) s

/-- Does a transmit queue's entry touch the target: engine, counter, source or the port that its packets take (R659)? -/
def State.tqHit (s : State) (r : RstRun) (q : Tq) (e : TqEntry) : Bool :=
  (r.scope == 4 && (q.ped == r.ped || (e.cen && e.ctr / 1024 == r.ped))) ||
  ((r.scope == 4 || r.scope == 5) && s.tqPort q == some r.ped) || s.mapsHit r e.maps

/-- Open entries that `hit` names complete RESET_ABORT and hold their transmit queue (R634, R655). -/
def State.abortTqs (hit : State → Tq → TqEntry → Bool) (s : State) : State :=
  s.lath.tqs.foldl (fun s kv =>
    let q := s.tq kv.1
    match q.ents.filter (fun e => e.openEnd && hit s q e) with
    | [] => s
    | e :: es =>
      let s := (e :: es).foldl (fun s e => s.tqDone kv.1 e.idx cResetAbort (e.partOf q)) s
      (s.updTq kv.1 (Tq.doom e.idx)).tqRetireAll kv.1) s

/-- Receive flows of a pedestal after a reset (Table 16.5). -/
def State.holdFlows (ped : Nat) (s : State) : State :=
  s.updLath (fun l => { l with rfts := Tbl.map Rft.reset (fun _ r =>
    if r.ped = ped ∧ r.en then { r with held := true, hcode := cResetAbort, due := true } else r) l.rfts })

/-- What is in flight from or to the target's cores and engines never lands. -/
def State.dropFlight (r : RstRun) (s : State) : State :=
  let s := r.cores.foldl (fun s k => s.updCore k (fun c => { c with flights := [], memops := [], sends := [] })) s
  r.clusters.foldl (fun s c => s.updClu c (fun x => { x with relQ := [], relRun := none })) s

/-- A reset or test latches: jobs stop, requests that touch the target end, injections in its blocks disarm (R658, R659,
R671). -/
def State.latchBlocks (r : RstRun) (s : State) : State :=
  let s := if r.test then s else s.endJobs (s.jobHit r) cResetAbort
  let s := (s.abortEntries r).dropFlight r
  let s := (s.coreQueues.filter (fun q => match qCore q with | some k => r.cores.contains k | none => false)).foldl
    (fun s q => s.retireAll q) s
  let s := if r.scope = 4 ∨ r.scope = 6 then (rangeFrom 0 20).foldl (fun s p => s.abortMedia r p) s else s
  let s := r.engines.foldl (fun s ke => s.resetEngine r.ped ke.1 ke.2) s
  { s with arms := Tbl.keep (fun k _ => !r.owns (k / 1024)) s.arms }

/-- The latch of a reset or test, with the ports and transmit queues of its scope. -/
def State.latch (r : RstRun) (s : State) : State :=
  let s := s.latchBlocks r
  let s := s.abortTqs (fun s q e => s.tqHit r q e)
  let s := if (r.scope = 4 ∨ r.scope = 5) ∧ r.ped < 16 then s.portLeave r.ped pDown else s
  let s := if r.scope = 4 ∧ r.ped = 16 ∧ s.hif0.linkUp then s.linkLoss false
    else if r.scope = 4 ∧ r.ped = 17 ∧ s.hif1.linkUp then s.linkLoss true else s
  { s with ras := { s.ras with rsts := s.ras.rsts ++ [r] } }

/-- Table 16.5: what the blocks of the target hold. -/
def State.clearBlocks (r : RstRun) (s : State) : State :=
  let s := r.cores.foldl (fun s k => s.updCore k Core.zeroed) s
  let s := r.clusters.foldl (fun s c => s.updClu c (fun x => { x with store := [], relCount := 0 })) s
  let s := r.engines.foldl (fun s ke => s.updPed r.ped (Ped.resetEngine ke.1 ke.2)) s
  if r.scope = 4 then s.updPed r.ped (fun x => { x with counters := [], ctrBad := [], pixCtxBase := 0, entCtxBase := 0
                                                        lqIdx := [], alqIdx := [], oqIdx := [] }) else s

/-- The reset or test ends, with the record of R662. -/
def State.unlatch (r : RstRun) (word : Nat) (s : State) : State :=
  let s := { s with ras := { s.ras with rsts := s.ras.rsts.filter (· ≠ r) } }.clearBlocks r
  let s := if r.scope = 4 ∨ r.scope = 5 then s.holdFlows r.ped else s
  let s := if (r.scope = 4 ∨ r.scope = 5) ∧ r.ped < 16 then s.train r.ped else s
  s.record { Rec.base 0 4 0 (some r.ped) none with synd := some word, unit := r.clus * 16 + r.unit } 1

/-! ## RAS_RST (R656, R657, Tables 16.4, 16.10, 16.11) -/

/-- RAS_RSTSTAT without BUSY for a write of RAS_RST. -/
def rstWord (scope ped clus unit : Nat) : Nat := scope * 2 ^ 27 + ped * 2 ^ 20 + clus * 2 ^ 16 + unit
/-- The RAS_RST word itself. -/
def rstCmd (scope ped clus unit : Nat) : Nat := scope * 2 ^ 28 + ped * 2 ^ 16 + clus * 2 ^ 8 + unit

def State.refuseRst (s : State) : State := { s with ras := { s.ras with rststat := s.ras.rststat ||| 0x40000000 } }

/-- The target that the fields name; none: a reserved scope or a unit that does not exist. -/
def State.rstTarget (s : State) (scope ped clus unit : Nat) : Option RstRun :=
  let key := (ped * 8 + clus) * 16 + unit
  if 19 < ped ∧ scope ≠ 5 ∧ scope ≠ 6 then none
  else match scope with
    | 1 => some ⟨1, ped, clus, unit, (s.core key).insvc, false⟩
    | 2 => some ⟨2, ped, clus, 0, true, false⟩
    | 3 => if unit ≤ 4 then some ⟨3, ped, 0, unit, false, false⟩ else none
    | 4 => some ⟨4, ped, 0, 0, true, false⟩
    | 5 => some ⟨5, unit, 0, unit, false, false⟩
    | 6 => if unit ≤ 11 then some ⟨6, unit, 0, unit, false, false⟩ else none
    | _ => none

/-- A write of RAS_RST. What completes in the cycle of the latch stands (R661). -/
def State.rasRst (scope ped clus unit : Nat) (s : State) : State :=
  let s := s.through s.now
  match s.rstTarget scope ped clus unit with
  | none => s.refuseRst
  | some r =>
    if ¬ s.ras.rsts.isEmpty ∨ (scope = 4 ∧ ped = s.mgtPed) then s.refuseRst
    else { s with ras := { s.ras with rststat := BitVec.ofNat 32 (rstWord scope ped clus unit) } }.latch r

def execResetCore (f : Bool) (k : CoreId) (s : State) : Outcome := s.host f false (State.rasRst 1 k.p.val k.c.val k.q.val)
def execResetCluster (f : Bool) (c : ClusId) (s : State) : Outcome := s.host f false (State.rasRst 2 c.p.val c.c.val 0)
def execResetMedia (f : Bool) (p : Fin 20) (u : Fin 5) (s : State) : Outcome := s.host f false (State.rasRst 3 p.val 0 u.val)
def execResetPedestal (f : Bool) (p : Fin 20) (s : State) : Outcome := s.host f false (State.rasRst 4 p.val 0 0)
def execResetPort (f : Bool) (n : Fin 16) (s : State) : Outcome := s.host f false (State.rasRst 5 n.val 0 n.val)
def execResetHbm (f : Bool) (k : Fin 12) (s : State) : Outcome := s.host f false (State.rasRst 6 k.val 0 k.val)

/-- R662. The running reset ends. -/
def execResetComplete (s : State) : Outcome :=
  match s.ras.rsts.find? (fun r => !r.test) with
  | some r =>
    let w := s.ras.rststat.toNat
    .next (s.unlatch r (rstCmd (bits w 29 27) (bits w 24 20) (bits w 18 16) (bits w 3 0)))
  | none => .next s

/-! ## Logical cores (R27 to R31, R688, R689) -/

def State.setHealth (p b v : Nat) (s : State) : State := s.updPed p (fun x => { x with health := Tbl.set 0 b v x.health })

/-- A core that serves no logical core. -/
def Core.idleOut (spare : Bool) (c : Core) : Core := { c with insvc := false, spare := spare, lcore := 0, st := .outOfService }

/-- A core enters service as logical core `i`, its stores zero. -/
def Core.enter (i : Nat) (c : Core) : Core := { c.zeroed with insvc := true, spare := false, lcore := i, st := .idle }

/-- Logical core `i` keeps its core while that is usable; else the lowest-numbered usable core without a place takes it. -/
def State.place (c i : Nat) (s : State) : State :=
  let h := s.healthy c
  if h.any (fun k => (s.core k).insvc && (s.core k).lcore == i) then s
  else
    match h.find? (fun k => !(s.core k).insvc) with
    | some k => s.updCore k (Core.enter i)
    | none => s

/-- The logical cores of a cluster follow the health of its blocks: at start-up R30, after a failure R31. -/
def State.settleCluster (c : Nat) (s : State) : State :=
  let all := rangeFrom (c * 16) 16
  if !s.clusUsable c then all.foldl (fun s k => s.updCore k (Core.idleOut false)) s
  else
    let s := (all.filter (fun k => s.bad (c / 8) (k % 128))).foldl (fun s k => s.updCore k (Core.idleOut false)) s
    let s := (rangeFrom 0 s.active).foldl (fun s i => s.place c i) s
    (all.filter (fun k => !s.bad (c / 8) (k % 128) && !(s.core k).insvc)).foldl
      (fun s k => s.updCore k (Core.idleOut (s.active == 14 && (s.enabled c).contains k))) s

/-! ## Run-time tests (R674 to R685, R693) -/

/-- Does a cluster hold a resident or suspended job? -/
def State.holdsJob (s : State) (c : Nat) : Bool :=
  s.jobs.any (fun kv => match kv.2 with
    | some j => (j.st == .suspended || s.residentOn c) && j.st != .staged && j.clus.contains c
    | none => false)

/-- Has an engine a command under way or pre-empted? -/
def State.engBusy (s : State) (p kind e : Nat) : Bool :=
  let x := s.ped p
  match kind with
  | 0 => (Tbl.get none x.pixRun e).isSome || x.pixSaved.any (fun k => k.1 == e) || x.frames.any (fun f => f.peng == e)
  | 1 => x.frames.any (fun f => f.eeng == e) || x.units.any (fun u => u.eeng == e) || x.decs.any (fun d => d.eeng == e)
  | _ => x.skmRun.isSome || !x.skmSaved.isEmpty

/-- Block number of a test's target; KIND 7 stands for the blocks that only start-up tests. -/
def testBlock (kind clus unit : Nat) : Nat :=
  match kind with
  | 1 => clus * 16 + unit
  | 2 => hClus clus
  | 3 => hPix unit
  | 4 => hEnt unit
  | 5 => hSkim
  | 6 => hHbm
  | _ => unit

/-- The reset that begins a test (R676). -/
def State.testScope (s : State) (p kind clus unit : Nat) : RstRun :=
  match kind with
  | 1 => ⟨1, p, clus, unit, (s.core ((p * 8 + clus) * 16 + unit)).insvc, true⟩
  | 2 => ⟨2, p, clus, 0, true, true⟩
  | 3 => ⟨3, p, 0, unit, false, true⟩
  | 4 => ⟨3, p, 0, 2 + unit, false, true⟩
  | 5 => ⟨3, p, 0, 4, false, true⟩
  | _ => ⟨6, p, 0, p, false, true⟩

/-- R678, and a block unusable in fuse is never tested again (R685). -/
def State.testRefused (s : State) (p kind clus unit : Nat) : Bool :=
  s.ras.rsts.any (fun r => r.ped == p) || Tbl.get 0 (s.ped p).health (testBlock kind clus unit) == 2 ||
  (match kind with
   | 1 => (s.core ((p * 8 + clus) * 16 + unit)).insvc && s.holdsJob (p * 8 + clus)
   | 2 => s.holdsJob (p * 8 + clus)
   | 3 => s.engBusy p 0 unit
   | 4 => s.engBusy p 1 unit
   | 5 => s.engBusy p 2 0
   | _ => false)

/-- Set bits of BST_STAT under a mask. -/
def Ped.stat (mask v : Nat) (x : Ped) : Ped :=
  { x with bstStat := (x.bstStat &&& ~~~(BitVec.ofNat 32 mask)) ||| BitVec.ofNat 32 v }

/-- BST_CMD with GO for an existing target. -/
def State.bstCmd (p kind clus unit : Nat) (s : State) : State :=
  let s := if kind = 1 ∨ kind = 2 then s.bounceStarts (p * 8 + clus) else s
  if s.testRefused p kind clus unit then s.updPed p (Ped.stat 0x40000000 0x40000000)
  else
    let w := BitVec.ofNat 32 (2 ^ 31 + unit * 4096 + clus * 256 + kind)
    let s := s.through s.now
    (s.updPed p (fun x => { (x.stat 0x4000000F kind) with bstRun := some (w, bits x.bstCfg.toNat 1 0) })).latch (s.testScope p kind clus unit)

def execTestCore (f : Bool) (k : CoreId) (s : State) : Outcome := s.host f true (State.bstCmd k.p.val 1 k.c.val k.q.val)
def execTestCluster (f : Bool) (c : ClusId) (s : State) : Outcome := s.host f true (State.bstCmd c.p.val 2 c.c.val 0)
def execTestPixel (f : Bool) (g : EngId) (s : State) : Outcome := s.host f true (State.bstCmd g.p.val 3 0 g.e.val)
def execTestEntropy (f : Bool) (g : EngId) (s : State) : Outcome := s.host f true (State.bstCmd g.p.val 4 0 g.e.val)
def execTestSkim (f : Bool) (p : Fin 20) (s : State) : Outcome := s.host f true (State.bstCmd p.val 5 0 0)
def execTestHbm (f : Bool) (k : Fin 12) (s : State) : Outcome := s.host f true (State.bstCmd k.val 6 0 k.val)

/-- Spare rows of a memory (Table 17.3). -/
def spareRows (mem : Nat) : Nat :=
  match mem with
  | 0 => 16 | 1 => 4 | 2 => 4 | 4 => 32 | 5 => 4 | 6 => 4 | 8 => 64 | _ => 0

/-- Key of a memory's used spare rows: block and memory. -/
def softKey (kind clus unit : Nat) (x : Fin 9 × Fin 16 × Nat) : Nat :=
  (if x.1.val ≤ 3 then clus * 16 + (if kind = 2 then x.2.1.val else unit) else testBlock kind clus unit) * 1024 +
    x.1.val * 64 + (if x.1.val = 8 then x.2.2 % 64 else 0)

/-- Use a spare row for each failing row: in mode 2 in fuse while entries are free (R680, R684). -/
def Ped.repair (mode kind clus unit : Nat) (rows : List (Fin 9 × Fin 16 × Nat)) (x : Ped) : Ped :=
  rows.foldl (fun x r =>
    let k := softKey kind clus unit r
    let x := { x with soft := Tbl.upd 0 k (· + 1) x.soft }
    if mode ≠ 2 then x
    else if x.fuse.length < 192 then { x with fuse := x.fuse ++ [BitVec.ofNat 64 (k * 2 ^ 32 + r.2.2)] }
    else x.stat 0x20000000 0x20000000) x

/-- Have the memories rows enough? -/
def Ped.roomFor (kind clus unit : Nat) (rows : List (Fin 9 × Fin 16 × Nat)) (x : Ped) : Bool :=
  rows.all (fun r => decide (Tbl.get 0 x.soft (softKey kind clus unit r) +
    (rows.filter (fun q => softKey kind clus unit q == softKey kind clus unit r)).length ≤ spareRows r.1.val))

/-- What a test decides: 0 PASS, 1 REPAIRED, 2 FAIL (Table 17.7). -/
def testResult (inj : Bool) (mode block kind clus unit : Nat) (f : TestFind) (x : Ped) : Nat :=
  if inj then 2
  else if block ≠ hHbm ∧ block ≠ hPlinth ∧ f.sig ≠ Config.expectedSig block then 2
  else if f.rows = [] then 0
  else if mode ≠ 0 ∧ x.roomFor kind clus unit f.rows ∧ f.again then 1 else 2

/-- Results in the BST registers; an injected failure shows bit 0 inverted (R443, R675). -/
def Ped.results (inj : Bool) (block kind : Nat) (res : Nat) (f : TestFind) (x : Ped) : Ped :=
  let sig := if inj ∧ kind ≠ 6 then f.sig ^^^ 1 else f.sig
  let addr := if inj ∧ kind = 6 then f.addr ^^^ 1 else f.addr
  { (x.stat 0x03000000 (res * 2 ^ 24)) with
    bstCount := f.count, bstSig := if kind = 6 then x.bstSig else sig
    bstExp := if kind = 6 then x.bstExp else Config.expectedSig block
    bstFail := BitVec.ofNat 64 (addr.toNat + f.bit.val * 2 ^ 48) }

/-- Zeros in an HBM3 stack (R677). -/
def State.zeroStack (k : Nat) (s : State) : State :=
  { s with mpa := Tbl.keep (fun a _ => a / 0x600000000 != k) s.mpa
           poison := Tbl.keep (fun g _ => 64 * g / 0x600000000 != k) s.poison }

/-- The health that a test leaves its block: a failure is soft; a pass ends a soft mark (R693). Spares already used by R689
stay out (R691). -/
def State.healthAfter (p block res : Nat) (s : State) : State :=
  let h := Tbl.get 0 (s.ped p).health block
  if res = 2 then (if h = 0 then s.setHealth p block 1 else s) else if h = 1 then s.setHealth p block 0 else s

/-- R675, R677, R680 to R685, R693. The running test of pedestal `p` ends. Once MOD_PG has fallen, it writes no fuse (R761). -/
def State.endTest (p : Nat) (f : TestFind) (s : State) : State :=
  match (s.ped p).bstRun, s.ras.rsts.find? (fun r => r.test && r.ped == p) with
  | some (w, mode), some r =>
    let kind := bits w.toNat 3 0
    let clus := bits w.toNat 10 8
    let unit := bits w.toNat 15 12
    let block := testBlock kind clus unit
    let inj := s.arm (bstBlock p + 0x2C) 0 ≠ 0
    let s := s.disarm (bstBlock p + 0x2C) 0
    let res := testResult inj mode block kind clus unit f (s.ped p)
    let mode := if s.pwr.pg then mode else min mode 1
    let s := s.updPed p (fun x =>
      let x := if res = 1 then x.repair mode kind clus unit f.rows else x
      { (x.results inj block kind res f) with bstRun := none })
    let s := s.unlatch r (rstCmd r.scope p r.clus r.unit)
    let s := if kind = 6 then s.zeroStack p else s
    let s := s.healthAfter p block res
    let s := if kind = 2 then (rangeFrom 0 16).foldl (fun s q =>
        s.healthAfter p (clus * 16 + q) (if f.cores.any (fun x => x.val == q) then 2 else 0)) s else s
    if kind = 1 ∨ kind = 2 then s.settleCluster (p * 8 + clus) else s
  | _, _ => s

def execTestEnd (p : Fin 20) (x : TestFind) (s : State) : Outcome := .next (s.endTest p.val x)

/-- SUBCODE of Table 17.5. -/
def State.substCode (s : State) (key : Nat) : Nat :=
  let c := key / 16
  if s.active ≠ 14 ∨ ¬ (rangeFrom (c * 16) 16).any (fun k => (s.core k).spare) then cUnsupported
  else if ¬ (s.core key).insvc then cBadDescriptor
  else if s.holdsJob c ∨ s.ras.rsts.any (fun r => r.ped == key / 128) then cBusy
  else cDone

/-- BST_SUBST with GO (R689, R690). -/
def State.subst (key : Nat) (s : State) : State :=
  let s := s.bounceStarts (key / 16)
  let code := s.substCode key
  let s := s.updPed (key / 128) (Ped.stat 0x00FF0000 (code * 65536))
  if code = cDone then
    ((s.setHealth (key / 128) (key % 128) 3).settleCluster (key / 16)).mark (bstBlock (key / 128) + 0x28) (2 ^ (key / 16 % 8))
  else s

def execSubstitute (f : Bool) (k : CoreId) (s : State) : Outcome := s.host f true (State.subst (coreKey k))

/-! ## Event counters' controls (R695, R696) -/

/-- Is an EVC offset that of a counter's SEL register (Table 17.9)? -/
def evcValid (off : Nat) : Bool :=
  let r := off % 0x80000
  off % 16 == 0 && (if off < 0xA00000 then
      (decide (r < 0x8000) && decide (r % 0x100 < 0x80)) || (decide (0x8000 ≤ r) && decide (r < 0x8800)) ||
      (decide (0xC000 ≤ r) && decide (r < 0xC400))
    else decide (off < 0xA02000))

/-- A write of SEL; a clear holds against the events of its cycle (R696). -/
def State.evcSel (off : Nat) (clear : Bool) (src : BitVec 8) (s : State) : State :=
  if evcValid off then
    let s := if clear then s.markWritten (evcBase + off) else s
    { s with evc := Tbl.upd EvCtr.reset (off / 16) (fun c => { src := src, cnt := if clear then 0 else c.cnt }) s.evc }
  else s

def execEvcClear (f : Bool) (off : BitVec 24) (src : BitVec 8) (s : State) : Outcome := s.host f true (State.evcSel off.toNat true src)
def execEvcSelect (f : Bool) (off : BitVec 24) (src : BitVec 8) (s : State) : Outcome := s.host f true (State.evcSel off.toNat false src)

def State.clearAll (s : State) : State :=
  State.markWritten evcCtl { s with evc := Tbl.map EvCtr.reset (fun _ c => { c with cnt := 0 }) s.evc }

def execClearall (f : Bool) (s : State) : Outcome := s.host f true State.clearAll
def execFreeze (f : Bool) (on : Bool) (s : State) : Outcome := s.host f true (fun s => { s with evFreeze := on })

end Sys2Proof.Machine
end

