-- ==== Sys2Proof/Machine/Power.lean ====
section
/-! DEFINITION. Input, rails, clocks, the throttle, cooling, start-up and the shutdowns (R687, R703, R704, R731 to R765,
R781). -/
namespace Sys2Proof.Machine
open Sys2Proof

def State.updPwr (f : Pwr → Pwr) (s : State) : State := { s with pwr := f s.pwr }

/-! ## What a loss of power leaves -/

/-- Spare rows that fuse entries use, by memory (R683, R684). -/
def fusedRows (fuse : List (BitVec 64)) : Tbl Nat := fuse.foldl (fun t w => Tbl.upd 0 (w.toNat / 2 ^ 32) (· + 1) t) []

/-- A pedestal without its main rails: the fuses stay. -/
def Ped.off (x : Ped) : Ped :=
  { Ped.reset with fuse := x.fuse, health := Tbl.keep (fun _ h => h == 2) x.health, soft := fusedRows x.fuse }

/-- A function without power: its host's memory and its pins stay. -/
def Hif.off (h : Hif) : Hif := { Hif.reset with mem := h.mem, perstN := h.perstN }

/-- The main rails are off: everything but the management domains, the fuses and what lies outside is lost (R763). -/
def State.railsOff (s : State) : State :=
  { s with cores := [], clus := Tbl.map Cluster.reset (fun _ c => { Cluster.reset with fused := c.fused }) s.clus, fresh := [], peds := Tbl.map Ped.reset (fun _ x => x.off) s.peds, mpa := [], poison := [], niches := []
           casts := [], jobs := [], sigs := [], hif0 := s.hif0.off, hif1 := s.hif1.off, sqs := [], cqs := []
           arms := Tbl.keep (fun k _ => decide (0x01010000 * 1024 ≤ k) && decide (k < 0x01040000 * 1024)) s.arms
           slots := none, slotShadow := none
           lath := { Lath.reset with ports := Tbl.map Port.reset (fun _ p => { Port.reset with present := p.present }) s.lath.ports }
           evc := [], evFreeze := false, ras := { s.ras with rsts := [], rststat := 0 } }

/-- What flash and fuses hold (R731). -/
def Mgt.off (m : Mgt) : Mgt :=
  { Mgt.reset with imgA := m.imgA, imgB := m.imgB, badA := m.badA, badB := m.badB, pref := m.pref, cfgRepair := m.cfgRepair
                   cfgDshare := m.cfgDshare, svn := m.svn, ecrev := m.ecrev, lmsrev := m.lmsrev, life := m.life
                   faultMem := m.faultMem, faultN := m.faultN, faultRep := m.faultRep }

/-- VMGT is off: nothing is retained but fuses and flash (R731); the pins and the input stand as they last were. -/
def State.powerOff (s : State) : State :=
  { s.railsOff with ftOff := none, ras := Ras.reset, mgt := s.mgt.off, arms := []
                    pwr := { Pwr.reset with pg := s.pwr.pg, rstN := s.pwr.rstN, vin := s.pwr.vin, latched := s.pwr.latched } }

/-! ## State sensors (Table 18.7, R727, R728) -/

def Pwr.capSensor (p : Pwr) : Nat := if p.droop then 2 else if p.level = 0 then 0 else 1
/-- The line that is not dry, line 0 before line 1. -/
def Pwr.leakSensor (p : Pwr) : Nat := if p.line0 = 0 then p.line1 else p.line0

/-- Events for the state sensors that changed. -/
def State.sensors (old : Pwr) (s : State) : State :=
  let ev := fun (id a b : Nat) (s : State) => if a = b then s else s.pldmEvent 0 id [b]
  (ev 0x300 old.capSensor s.pwr.capSensor (ev 0x301 old.state s.pwr.state (ev 0x302 old.leakSensor s.pwr.leakSensor s)))

/-- MOD_READY and the readiness sensor. -/
def State.setReady (r : Bool) (st : Nat) (s : State) : State :=
  let s := if s.pwr.ready = r then s else s.send (.ready r)
  s.updPwr (fun p => { p with ready := r, state := st })

/-! ## Detectors (Table 19.4, R751) -/

/-- Do the detectors trip: VMGT on, no emergency shutdown already, and not in the wait for coolant (R757)? -/
def State.watches (s : State) : Bool := s.pwr.vmgt && decide (s.pwr.phase ≠ 4) && decide (s.pwr.stop < 20)

/-- Are the main rails on? -/
def State.railsUp (s : State) : Bool := decide (5 ≤ s.pwr.phase) && decide (s.pwr.stop < 4 ∨ s.pwr.stop = 11 ∨ s.pwr.stop = 12 ∨ s.pwr.stop = 13)

def pwrBit (b : BitVec 5) (p : Pwr) : Pwr := { p with fault := p.fault ||| b }
def thmBit (b : BitVec 6) (p : Pwr) : Pwr := { p with thmFault := p.thmFault ||| b }

/-- Sticky bits of PWR_FAULT and THM_FAULT (Table 19.9). -/
def State.pwrFlag (b : BitVec 5) (s : State) : State := (s.updPwr (pwrBit b)).mark 0x01030004 b.toNat
def State.thmFlag (b : BitVec 6) (s : State) : State := (s.updPwr (thmBit b)).mark 0x01038004 b.toNat

/-- A detector reaches severity 3: the record, and the emergency shutdown begins and is latched. -/
def State.fatal (det : Nat) (ped : Option Nat) (flag : State → State) (s : State) : State :=
  if !s.watches then s
  else
    let i := s.ras.logtail.toNat
    ((flag s).errUE (Rec.base det 3 0 ped none)).updPwr (fun p => { p with stop := 21, fatal := some i, latched := true })

/-! ## Start of start-up -/

/-- A phase begins; the debug UART logs it (R754, R779). -/
def State.enterPhase (n : Nat) (s : State) : State := (s.updPwr (fun p => { p with phase := n })).send (.uart 0 n)

/-- Start-up begins at phase 1. -/
def State.startUp (s : State) : State :=
  (s.updPwr (fun p => { p with vmgt := true, stop := 0, latched := false })).enterPhase 1

def vinOk (v : BitVec 16) : Bool := decide (4400 ≤ v.toNat) && decide (v.toNat ≤ 6000)

/-- May start-up begin: power good, no voltage on VMGT, the emergency latch released, the input in range? -/
def State.mayStart (s : State) : Bool := s.pwr.pg && !s.pwr.vmgt && !s.pwr.latched && vinOk s.pwr.vin

/-- R753, R762. -/
def execModPgRise (bif0 bif1 smb : Bool) (vin : BitVec 16) (s : State) : Outcome :=
  let up := !s.pwr.pg
  let s := s.updPwr (fun p => { p with pg := true, vin := vin, latched := p.latched && !up })
  if s.pwr.vmgt then .next s
  else
    let s := s.updPwr (fun p => { p with bif0 := bif0, bif1 := bif1, smb := smb })
    .next (if s.mayStart then s.startUp else s)

/-- The input comes into range (Table 19.1). -/
def execVinInRange (vin : BitVec 16) (s : State) : Outcome :=
  let s := s.updPwr (fun p => { p with vin := vin })
  .next (if s.mayStart then s.startUp else s)

/-- R762. -/
def execVmgtOffRestart (s : State) : Outcome := .next (if s.mayStart then s.startUp else s)

/-! ## Start-up phases (Table 19.6) -/

/-- The fault records not yet reported go into the RAS ring ahead of any other (R752). -/
def State.postFaults (s : State) : State :=
  let m := s.mgt
  let ids := (rangeFrom 0 (min 512 (m.faultN - m.faultRep))).map (fun i => m.faultN - min 512 (m.faultN - m.faultRep) + i)
  let s := ids.foldl (fun (s : State) n =>
    let i := s.ras.logtail.toNat
    let bs := leBytes i 4 ++ (rangeFrom 4 60).map (fun o => s.mgt.faultMem.byte (n % 512 * 64 + o))
    let s := { s with ras := { s.ras with ring := Memory.write (i % 1024 * 64) bs s.ras.ring, logtail := s.ras.logtail + 1 } }
    s.pldmEvent 1 (leNat ((bs.drop 4).take 1)) [i, leNat ((bs.drop 4).take 1), leNat ((bs.drop 5).take 1)]) s
  { s with mgt := { s.mgt with faultRep := s.mgt.faultN } }

/-- Recovery (R704): start-up goes no further. -/
def State.recovery (st : Nat) (s : State) : State :=
  { s with mgt := { s.mgt with phase := 4 } }.updPwr (fun p => { p with state := st })

/-- The firmware of a slot runs, and the stored configuration is loaded (R40, R681, R703, R705). -/
def State.boot (slot : Bool) (s : State) : State :=
  let m := s.mgt
  let mode := BitVec.ofNat 32 (m.cfgRepair.getD 1)
  let s := { s with mgt := { m with phase := 1, slot := slot, fwver := BitVec.ofNat 32 (m.slotVer slot), keysOk := true
                                    bootMsg := natsOf ((m.img slot).at_ 0 128)
                                    bootFuse := [m.svn, m.ecrev.toNat, m.lmsrev.toNat, m.life.toNat]
                                    bootCfg := [m.cfgRepair.getD 1, m.cfgDshare.getD 1024] }
                    dshare := m.cfgDshare.getD 1024 }
  (rangeFrom 0 20).foldl (fun s p => s.updPed p (fun x => { x with bstCfg := mode })) s

/-- The end of phase 3 (R702 to R704, R730). -/
def State.bootRom (fuseErr : Bool) (s : State) : State :=
  let s := s.postFaults
  if fuseErr ∨ s.arm 0x01020018 0 ≠ 0 then
    ((s.disarm 0x01020018 0).errUE (Rec.base 0x32 2 0 none none)).recovery 3
  else
    let m := s.mgt
    let a := (m.img m.pref).check 1 m
    let b := (m.img (!m.pref)).check 1 m
    if a = 0 then (s.boot m.pref).enterPhase 4
    else if b = 0 then ({ s with mgt := { m with lastfail := a } }.boot (!m.pref)).enterPhase 4
    else { s with mgt := { m with lastfail := b } }.recovery 2

/-- KIND, cluster and unit of a block of a start-up test. -/
def blockKind (b : Nat) : Nat × Nat × Nat :=
  if b < 128 then (1, b / 16, b % 16) else if b < 136 then (2, b - 128, 0) else if b < 138 then (3, 0, b - 136)
  else if b < 140 then (4, 0, b - 138) else if b = 140 then (5, 0, 0) else if b = 142 then (6, 0, 0) else (7, 0, b)

/-- One finding of phase 8 (R680 to R685): a failing block is marked, in mode 0b10 in fuse too. -/
def State.startTest (p b : Nat) (f : TestFind) (s : State) : State :=
  if Tbl.get 0 (s.ped p).health b = 2 ∨ (b = hHbm ∧ s.bad p b) then s
  else
    let mode := bits (s.ped p).bstCfg.toNat 1 0
    let k := blockKind b
    let res := if b = hLath ∨ b = hPcie then 2 else testResult false mode b k.1 k.2.1 k.2.2 f (s.ped p)
    let s := s.updPed p (fun x => if res = 1 then x.repair mode k.1 k.2.1 k.2.2 f.rows else x)
    if res = 2 then s.setHealth p b (if mode = 2 then 2 else 1) else s

/-- The end of phase 7 (R755). -/
def State.stackFail (k : Nat) (s : State) : State :=
  (s.setHealth k hHbm 1).errUE { Rec.base 0x0C 2 0 (some k) none with unit := k }

/-- R687. -/
def State.readyMet (s : State) : Bool :=
  (rangeFrom 0 20).all (fun p => !s.bad p hSwitch) && !s.bad 0 hSync && !s.bad 10 hSync && (!s.bad 16 hPcie || !s.bad 17 hPcie)

/-- The running phase ends (R754 to R758). -/
def State.endPhase (x : PhaseEnd) (s : State) : State :=
  match s.pwr.phase with
  | 1 => s.enterPhase 2
  | 2 => ({ s with ftOff := some (-(16 * (s.now : Int))) }.updPwr (fun p => { p with lock := true, refok := true, fallback := false })).enterPhase 3
  | 3 => if s.mgt.phase = 0 then s.bootRom x.fuseErr else s
  | 4 => if 21 ≤ s.pwr.okRun then s.enterPhase 5 else s
  | 5 => s.enterPhase 6
  | 6 => (x.ports.foldl (fun s f => s.setHealth (if f then 17 else 16) hPcie 1) s).enterPhase 7
  | 7 => (x.hbms.foldl (fun s k => s.stackFail k.val) s).enterPhase 8
  | 8 => (x.finds.foldl (fun s t => s.startTest t.1.val t.2.1.val t.2.2) s).enterPhase 9
  | 9 => ((rangeFrom 0 160).foldl (fun (s : State) c => s.settleCluster c) { s.zeroAll with slots := none }).enterPhase 10
  | 10 =>
    let s := s.timePath
    if s.pwr.state ≠ 0 then s
    else if s.readyMet then (rangeFrom 0 16).foldl (fun s n => s.train n) ((s.setReady true 1).enterPhase 11)
    else (rangeFrom 0 16).foldl (fun s n => s.train n) (s.setReady false 3)
  | _ => s

def execStartupPhase (x : PhaseEnd) (s : State) : Outcome :=
  .next (if s.pwr.stop ≠ 0 ∨ !s.pwr.vmgt then s else (s.endPhase x).sensors s.pwr)

/-! ## Orderly shutdown and reset (Table 19.7, R760 to R763) -/

/-- Time 0 of Table 19.7. -/
def State.beginStop (n : Nat) (s : State) : State :=
  ((s.setReady false 0).updPwr (fun p => { p with stop := n })).sensors s.pwr

/-- R760, R763. -/
def execModPgFall (s : State) : Outcome :=
  let s := s.updPwr (fun p => { p with pg := false })
  if !s.pwr.vmgt ∨ 20 < s.pwr.stop ∨ (1 ≤ s.pwr.stop ∧ s.pwr.stop < 10) then .next s
  else if 10 < s.pwr.stop then .next (s.updPwr (fun p => { p with stop := p.stop - 10 }))
  else .next (s.beginStop 1)

/-- R763. -/
def execModRstNLow (s : State) : Outcome :=
  let s := s.updPwr (fun p => { p with rstN := false })
  .next (if !s.pwr.vmgt ∨ s.pwr.stop ≠ 0 then s else s.beginStop 11)

/-- Start-up runs from phase 2 once the rails are off and MOD_RST_N is high. -/
def State.restart (s : State) : State :=
  if s.pwr.stop = 14 ∧ s.pwr.rstN then
    ({ s with mgt := s.mgt.off }.updPwr (fun p => { p with stop := 0, lock := false, okRun := p.okRun })).enterPhase 2
  else s

def execModRstNHigh (s : State) : Outcome := .next ((s.updPwr (fun p => { p with rstN := true })).restart)

/-- Every unretired entry of a queue completes RESET_ABORT, in sequence order, and retires. -/
def State.abortQueue (q : QRef) (s : State) : State := (s.qAbort q cResetAbort (fun _ => true)).retireAll q

/-- 1 ms: jobs and entries end, those of rings and transmit queues too. -/
def State.stopWork (s : State) : State :=
  let s := s.endJobs (fun _ => true) cResetAbort
  let s := s.jobs.foldl (fun s kv => if kv.2.isSome then s.finishJob kv.1 cResetAbort else s) s
  let s := s.allQueues.foldl (fun s q => s.abortQueue q) s
  let s := s.peds.foldl (fun s kv => [(0, 0), (0, 1), (1, 0), (1, 1), (2, 0)].foldl (fun s ke => s.abortEngine kv.1 ke.1 ke.2) s) s
  s.abortTqs (fun _ _ _ => true)

/-- 2 ms: links go down; a flash write that has not completed is abandoned, and its slot marked invalid (R761). -/
def State.stopLinks (done : Bool) (s : State) : State :=
  let s := if s.hif0.linkUp then s.linkLoss false else s
  let s := if s.hif1.linkUp then s.linkLoss true else s
  let s := (rangeFrom 0 16).foldl (fun s n => s.portLeave n pDown) s
  match s.mgt.work with
  | some w =>
    match w.install, w.slot with
    | true, some slot => if done then s else { s with mgt := { (s.mgt.setBad slot) with work := none } }
    | _, _ => s
  | none => s

/-- The next stage of Table 19.7. -/
def State.stopStage (done : Bool) (s : State) : State :=
  let stage := fun (n : Nat) (s : State) => s.updPwr (fun p => { p with stop := n })
  match s.pwr.stop with
  | 1 => stage 2 s.stopWork
  | 2 => stage 3 (s.stopLinks done)
  | 3 => stage 4 s.railsOff
  | 4 => s.powerOff
  | 11 => stage 12 s.stopWork
  | 12 => stage 13 (s.stopLinks done)
  | 13 => (stage 14 s.railsOff).restart
  | _ => s

def execOrderlyShutdownStage (done : Bool) (s : State) : Outcome := .next (s.stopStage done)

/-! ## Emergency shutdown (Table 19.5, R751, R752) -/

/-- The fault record goes to the flash fault area. -/
def State.flashFault (s : State) : State :=
  match s.pwr.fatal with
  | none => s
  | some i =>
    let bs := (rangeFrom 0 64).map (fun o => s.ras.ring.byte (i % 1024 * 64 + o))
    { s with mgt := { s.mgt with faultMem := Memory.write (s.mgt.faultN % 512 * 64) bs s.mgt.faultMem, faultN := s.mgt.faultN + 1 } }

/-- The next stage of Table 19.5. At 1 µs the clocks stop; what the stopped blocks hold until their rails are off nothing can
read, so it goes then. -/
def execEmergencyShutdownStage (s : State) : Outcome :=
  let stage := fun (n : Nat) (s : State) => s.updPwr (fun p => { p with stop := n })
  match s.pwr.stop with
  | 21 => .next ((stage 22 (s.railsOff.setReady false 0)).sensors s.pwr)
  | 22 => .next (stage 23 s)
  | 23 => .next (stage 24 s.flashFault)
  | 24 => .next s.powerOff
  | _ => .next s

/-! ## Input and rails (R732 to R735) -/

def State.vinTrip (s : State) : State := s.fatal 0x20 none (State.pwrFlag 1)

/-- Below 43 V for 1 ms. -/
def execVinLow (vin : BitVec 16) (s : State) : Outcome :=
  let s := s.updPwr (fun p => { p with vin := vin })
  .next (if vin.toNat < 4300 then s.vinTrip else s)

/-- Above 62 V the input switch opens; in the wait for coolant no detector trips, and the module loses its input. -/
def execVinHigh (vin : BitVec 16) (s : State) : Outcome :=
  let s := s.updPwr (fun p => { p with vin := vin })
  if vin.toNat ≤ 6200 then .next s
  else if s.pwr.phase = 4 ∧ s.pwr.stop < 20 then .next s.powerOff
  else .next s.vinTrip

/-- Does a pedestal shutdown turn VCORE off? On pedestals 0 and 10 a short of it is fatal instead (Table 19.2). -/
def dieOff (p : Nat) : Bool := p != 0 && p != 10

/-- Blocks on the rails that a pedestal shutdown turns off (R734, Table 19.2). -/
def offBlocks (p : Nat) : List Nat :=
  (if dieOff p then rangeFrom (hClus 0) 8 ++ [hSync] else []) ++ [hPix 0, hPix 1, hEnt 0, hEnt 1, hSkim, hPlinth] ++
    (if p < 12 then [hHbm] else [])

/-- R734. -/
def State.pedOff (p : Nat) (s : State) : State :=
  let r : RstRun := ⟨4, p, 0, 0, true, false⟩
  let s := s.latchBlocks r
  let s := if dieOff p then s.clearBlocks r else s
  let gone := fun (a : Nat) => match s.loc a with
    | .hbm k => k == p
    | .plinth q _ => q == p
    | _ => false
  let s := { s with mpa := Tbl.keep (fun a _ => !gone a) s.mpa, poison := Tbl.keep (fun g _ => !gone (64 * g)) s.poison }
  let s := (offBlocks p).foldl (fun s b => s.setHealth p b (max 1 (Tbl.get 0 (s.ped p).health b))) s
  let s := (rangeFrom (p * 8) 8).foldl (fun s c => s.settleCluster c) s
  s.updPwr (fun w => { w with pedoff := w.pedoff ||| BitVec.ofNat 20 (2 ^ p) })

/-- A short on a rail (Table 19.2). -/
def State.short (p : Nat) (r : Rail) (s : State) : State :=
  let die := (r = .vmgt) ∨ (r = .vplinth) ∨ (r = .vcore ∧ (p = 0 ∨ p = 10))
  if r = .vmgt ∧ ¬ (p = 0 ∨ p = 10) ∨ (r = .vhbm ∧ 12 ≤ p) then s
  else if die then (if r = .vmgt ∨ s.railsUp then s.fatal 0x21 (some p) (State.pwrFlag 2) else s)
  else if !s.watches ∨ !s.railsUp ∨ s.pwr.pedoff.getLsbD p then s
  else ((s.pwrFlag 2).errUE (Rec.base 0x21 1 cResetAbort (some p) none)).pedOff p

def execRailShort (p : Fin 20) (r : Rail) (s : State) : Outcome := .next (s.short p.val r)

/-- Pedestals whose sense pair is open, injected ones included until the next throttle sample (R735, R750). -/
def injSense : Nat := 0x01030028
def State.senseOpen (s : State) : BitVec 20 :=
  (rangeFrom 0 20).foldl (fun m p => if s.arm injSense p ≠ 0 then m ||| BitVec.ofNat 20 (2 ^ p) else m) s.pwr.sense

/-- What detector SENSE does on an open pair. -/
def State.senseTrip (p : Nat) (s : State) : State := (s.pwrFlag 4).errUE (Rec.base 0x22 2 0 (some p) none)

def execSenseOpen (p : Fin 20) (r : Rail) (s : State) : Outcome :=
  if !s.watches ∨ (r ≠ .vmgt ∧ !s.railsUp) then .next s
  else .next ((s.senseTrip p.val).updPwr (fun w => { w with sense := w.sense ||| BitVec.ofNat 20 (2 ^ p.val) }))

/-! ## Clocks (R737 to R741) -/

/-- The reference or lock is lost: the management domains run from the internal oscillator. -/
def State.pllTrip (ref : Bool) (s : State) : State :=
  if s.pwr.phase < 3 then s
  else (s.fatal 0x24 none id).updPwr (fun p => { p with lock := false, refok := p.refok && !ref, fallback := true })

def execRefclkLoss (ref : Bool) (s : State) : Outcome := .next (if s.watches then s.pllTrip ref else s)

def State.droopFatal (p : Option Nat) (s : State) : State := s.fatal 0x23 p (State.pwrFlag 8)

/-- R739; a demand past R741 trips the detector. -/
def execDroopTrip (p : Fin 20) (vmem beyond : Bool) (s : State) : Outcome :=
  if !s.watches ∨ !s.railsUp ∨ (s.pwr.pedoff.getLsbD p.val ∧ (vmem ∨ dieOff p.val)) then .next s
  else if beyond then .next (s.droopFatal (some p.val))
  else if s.pwr.droop then .next s
  else .next ((s.updPwr (fun w => { w with droop := true, droops := satInc w.droops })).sensors s.pwr)

/-- Root edges withheld in one stretch at most (R374, R740). -/
def stretchMax : Nat := 65536

/-- Root edges are withheld: two make one CK_A. -/
def State.withholdEdges (n : Nat) (s : State) : State := s.withhold (8 * n)

/-- R740. A run of withheld edges reaches its limit. -/
def State.runLimit (s : State) : State :=
  let s := s.withholdEdges stretchMax
  if s.pwr.droop then s.droopFatal none else s

def execGateRunLimit (s : State) : Outcome := .next (if s.pwr.lock then s.runLimit else s)

/-- Withheld root edges among 1,048,576 at most, and that window (R741). -/
def gateMax : Nat := 786432
def gateWindow : Nat := 1048576

/-- Root edges since MOD_PG rose, the withheld ones included. -/
def State.rootEdge (s : State) : Nat := 2 * s.now + s.pwr.withheld.toNat

/-- Edges that droops withhold in the window that ends with a stretch of `n` edges from now (R741). -/
def State.gateSpent (s : State) (n : Nat) : Nat :=
  s.pwr.stretches.foldl (fun k x => k + (x.1 + x.2 - max x.1 (s.rootEdge + n - gateWindow))) n

/-- A stretch of `n` edges joins those of the window. -/
def State.noteStretch (n : Nat) (s : State) : State :=
  let old := s.pwr.stretches.filter (fun x => decide (s.rootEdge + n < x.1 + x.2 + gateWindow))
  s.updPwr (fun p => { p with stretches := (s.rootEdge, n) :: old })

/-- R739. A stretch longer than the limit ends there, its detector still tripped (R374, R740); one that would pass the limit of
R741 trips too, the edges past the limit not withheld. -/
def execDroopClear (edges : Nat) (s : State) : Outcome :=
  let spent := s.gateSpent edges
  .next (if !s.pwr.droop then s
    else if stretchMax < edges then s.runLimit
    else if gateMax < spent then (s.withholdEdges (edges - (spent - gateMax))).droopFatal none
    else (((s.noteStretch edges).withholdEdges edges).updPwr (fun p => { p with droop := false })).sensors s.pwr)

/-! ## Throttle (R743 to R746, R765) -/

/-- Is a limit of Table 19.3 in force? -/
def Pwr.flowLimit (p : Pwr) : Bool := decide (11 ≤ p.flowRun)
def Pwr.inletLimit (p : Pwr) : Bool := decide (11 ≤ p.inletRun)

/-- C of R745. -/
def State.effCap (s : State) : Nat :=
  let c := s.pwr.cap.toNat
  let c := if s.pwr.flowLimit ∨ s.pwr.inletLimit then min c 5000 else c
  if s.senseOpen ≠ 0 then min c 6000 else c

/-- PWR_THROTTLE.CAUSE: what makes C, or the temperature that counts as above C. -/
def State.capCause (s : State) (level : Nat) : Nat :=
  if s.pwr.tjHot then 5 else if s.pwr.hbmHot then 6 else if level = 0 then 0
  else
    let c := s.effCap
    if c = s.pwr.cap.toNat then 1 else if s.pwr.flowLimit then 2 else if s.pwr.inletLimit then 3 else 4

/-- One sample (R744). The level withholds its edges in each of the 1,125 groups of 64 until the next sample. -/
def State.throttle (pin vin iin : BitVec 16) (s : State) : State :=
  let c := s.effCap
  let above := decide (c < pin.toNat) || s.pwr.tjHot || s.pwr.hbmHot
  let l := s.pwr.level
  let l' := if above then min 32 (l + 1) else if 100 * pin.toNat < 98 * c then l - 1 else l
  let full := decide (l = 32) && above
  let cause := s.capCause l'
  let s := (s.withholdEdges (1125 * l)).updPwr (fun p => { p with
    pin := pin, vin := vin, iin := iin, level := l', effcap := BitVec.ofNat 16 c, cause := cause
    atLimit := if full then (if p.atLimit < 10000 then p.atLimit + 1 else p.atLimit) else 0 })
  (rangeFrom 0 20).foldl (fun s p => s.disarm injSense p) s

/-- The management domains run from phase 2 on. -/
def State.mgtRuns (s : State) : Bool := s.pwr.vmgt && decide (2 ≤ s.pwr.phase)

def execThrottleSample (pin vin iin : BitVec 16) (s : State) : Outcome :=
  .next (if s.mgtRuns then (s.throttle pin vin iin).sensors s.pwr else s)

/-- R746. No rule names the detector of this record. -/
def execCaplimit (s : State) : Outcome :=
  if s.pwr.atLimit ≠ 10000 then .next s
  else
    let r := s.drawFree
    .next (((r.2.pwrFlag 16).updPwr (fun p => { p with atLimit := 10001 })).record (Rec.base (r.1.toNat % 256) 2 0 none none) 1)

/-- PWR_CAP (Table 19.9, R765). -/
def State.setCap (v : Word) (s : State) : State :=
  let w := v.toNat % 65536
  if 1500 ≤ w ∧ w ≤ 7200 then s.updPwr (fun p => { p with cap := BitVec.ofNat 16 w }) else s

def execPwrCapWrite (f : Bool) (v : Word) (s : State) : Outcome := s.host f false (State.setCap v)

/-! ## Coolant and temperature (R747 to R750, R781) -/

/-- Table 20.7: 0 dry, 1 leak, 2 open, 3 short. -/
def lineState (ohms : Nat) : Nat := if ohms < 100 then 3 else if ohms < 50000 then 1 else if ohms ≤ 500000 then 0 else 2

def injTj : Nat := 0x01038020
def injHbm : Nat := 0x01038024
def injFlow : Nat := 0x01038028
def injInlet : Nat := 0x0103802C
def injLeak : Nat := 0x01038030
def injLine : Nat := 0x01038034

/-- An armed injection presents its condition for one more sample; its value is the samples left, plus 256 for LEVEL 1. -/
def State.present (off tgt : Nat) (s : State) : Nat × Bool × State :=
  let a := s.arm off tgt
  let left := a % 256
  if left = 0 then (0, false, s) else (left, decide (256 ≤ a), s.setArm off tgt (if left = 1 then 0 else a - 1))

/-- The state of a leak line with what is injected. -/
def State.lineNow (n ohms : Nat) (s : State) : Nat × State :=
  let a := s.present injLine n
  let b := a.2.2.present injLeak n
  (if b.1 ≠ 0 then 1 else if a.1 ≠ 0 then (if a.2.1 then 3 else 2) else lineState ohms, b.2.2)

def run (on : Bool) (n : Nat) : Nat := if on then n + 1 else 0

/-- Record and flag a condition that has just qualified. -/
def State.note (now : Bool) (det : Nat) (b : BitVec 6) (s : State) : State :=
  if now then (s.thmFlag b).errUE (Rec.base det 2 0 none none) else s

def tempOf (v : BitVec 16) : Int := v.toInt

/-- One sample of the coolant supervisor. -/
def State.coolant (flow inlet outlet : BitVec 16) (r0 r1 : Nat) (s : State) : State :=
  let old := s.pwr
  let fl := s.present injFlow 0
  let il := fl.2.2.present injInlet 0
  let a := il.2.2.lineNow 0 r0
  let b := a.2.lineNow 1 r1
  let low := decide (flow.toNat < 140) || decide (fl.1 ≠ 0)
  let low2 := decide (flow.toNat < 100) || (decide (fl.1 ≠ 0) && fl.2.1)
  let high := decide (400 < tempOf inlet) || decide (il.1 ≠ 0)
  let high2 := decide (450 < tempOf inlet) || (decide (il.1 ≠ 0) && il.2.1)
  let ok := !low && !high && a.1 == 0 && b.1 == 0
  let s := b.2.updPwr (fun p => { p with
    flow := flow, inlet := inlet, outlet := outlet, line0 := a.1, line1 := b.1, okRun := run ok p.okRun
    flowRun := run low p.flowRun, flowRun2 := run low2 p.flowRun2, inletRun := run high p.inletRun, inletRun2 := run high2 p.inletRun2 })
  if !s.watches ∨ !s.railsUp then s
  else
    let s := s.note (decide (s.pwr.flowRun = 11)) 0x27 4
    let s := s.note (decide (s.pwr.inletRun = 11)) 0x28 8
    let s := s.note (2 ≤ a.1 ∧ a.1 ≠ old.line0) 0x2A 32
    let s := s.note (2 ≤ b.1 ∧ b.1 ≠ old.line1) 0x2A 32
    if a.1 = 1 ∨ b.1 = 1 then s.fatal 0x29 none (State.thmFlag 16)
    else if 11 ≤ s.pwr.flowRun2 then s.fatal 0x27 none (State.thmFlag 4)
    else if 11 ≤ s.pwr.inletRun2 then s.fatal 0x28 none (State.thmFlag 8) else s

def execCoolantSample (flow inlet outlet : BitVec 16) (r0 r1 : Nat) (s : State) : Outcome :=
  .next (if s.mgtRuns then (s.coolant flow inlet outlet r0 r1).sensors s.pwr else s)

/-- Temperatures of like sensors: which are at a level, with what is injected, and their runs. -/
def State.temps (off n : Nat) (lim : Int) (ts : Tbl (BitVec 16)) (runs : Tbl Nat) (s : State) : Tbl Nat × State :=
  (rangeFrom 0 n).foldl (fun (acc : Tbl Nat × State) i =>
    let r := acc.2.present off i
    let at_ := decide (lim ≤ tempOf (Tbl.get 0 ts i)) || decide (r.1 ≠ 0)
    (Tbl.set 0 i (run at_ (Tbl.get 0 runs i)) acc.1, r.2.2)) ([], s)

def tempTbl (l : List (BitVec 16)) (n : Nat) : Tbl (BitVec 16) :=
  (rangeFrom 0 n).foldl (fun t i => Tbl.set 0 i (l.getD i 0) t) []

/-- One sample of the junctions and stacks: 100 °C and 95 °C throttle, 110 °C and 105 °C for 10 ms are fatal. -/
def State.thermal (tj hbm : List (BitVec 16)) (s : State) : State :=
  let ts := tempTbl tj 20
  let hs := tempTbl hbm 12
  let a := s.temps injTj 20 1100 ts s.pwr.tjRun
  let b := a.2.temps injHbm 12 1050 hs s.pwr.hbmRun
  let s := b.2.updPwr (fun p => { p with
    tj := ts, hbm := hs, tjRun := a.1, hbmRun := b.1
    tjHot := !a.1.isEmpty || ts.any (fun kv => decide (1000 ≤ tempOf kv.2))
    hbmHot := !b.1.isEmpty || hs.any (fun kv => decide (950 ≤ tempOf kv.2)) })
  if !s.watches ∨ !s.railsUp then s
  else
    match a.1.find? (fun kv => 2 ≤ kv.2), b.1.find? (fun kv => 2 ≤ kv.2) with
    | some kv, _ => s.fatal 0x25 (some kv.1) (State.thmFlag 1)
    | none, some kv => s.fatal 0x26 (some kv.1) (State.thmFlag 2)
    | none, none => s

def execThermalSample (tj hbm : List (BitVec 16)) (s : State) : Outcome :=
  .next (if s.mgtRuns then s.thermal tj hbm else s)

/-! ## Injections (R750, Table 19.10) -/

/-- A write to an injection register of Table 19.8, by its offset in the block. The conditions that need no qualifying time
act at once; the sampled ones are presented to the samples that follow. -/
def State.envInject (off : Nat) (v : Word) (s : State) : State :=
  let arm := bitAt v.toNat 0
  let lvl := if bitAt v.toNat 1 then 256 else 0
  let tgt := bits v.toNat 12 8
  let rail : Rail := match bits v.toNat 17 16 with | 0 => .vcore | 1 => .vplinth | 2 => .vmem | _ => .vhbm
  if !arm then s
  else match off with
    | 0x20 => s.vinTrip
    | 0x24 => if tgt < 20 then s.short tgt rail else s
    | 0x28 => if tgt < 20 ∧ s.watches then ((s.setArm injSense tgt 1).senseTrip tgt) else s
    | 0x2C => if tgt < 20 then s.droopFatal (some tgt) else s
    | 0x4014 => if s.watches then s.pllTrip true else s
    | 0x8020 => if tgt < 20 then s.setArm injTj tgt 2 else s
    | 0x8024 => if tgt < 12 then s.setArm injHbm tgt 2 else s
    | 0x8028 => s.setArm injFlow 0 (11 + lvl)
    | 0x802C => s.setArm injInlet 0 (11 + lvl)
    | 0x8030 => if tgt < 2 then s.setArm injLeak tgt 1 else s
    | 0x8034 => if tgt < 2 then s.setArm injLine tgt (1 + lvl) else s
    | _ => s

end Sys2Proof.Machine
end

