-- ==== Sys2Proof/Machine/Regs.lean ====
section
/-! DEFINITION. The registers of BAR0: what each reads as, and what a write does (R8 to R17, R263 to R267, R441, R442, R494,
R537, R551, R556, R557, R602, R603, R642, R643, R671 to R673, R692, R695, R729, R759, R764). -/
namespace Sys2Proof.Machine
open Sys2Proof

/-! ## Access (R12, R557, R660, R759) -/

/-- Blocks that a function decodes before the module is ready (R759): MBX, MGT, SEC, PWR, CLK, THM, RAS. -/
def earlyBlock (a : Nat) : Bool :=
  (decide (0x01000000 ≤ a) && decide (a < 0x01040000)) || (decide (0x01100000 ≤ a) && decide (a < 0x01200000))

/-- Does the block answer now? -/
def State.decodes (s : State) (a : Nat) : Bool := (s.allUp || earlyBlock a) && !s.inReset a

/-- The state after a command that the model always answers. -/
def nextOf (s : State) (o : Outcome) : State :=
  match o with
  | .next t => t
  | _ => s

/-- Half of a 64-bit register is written. -/
def setHalf (old : BitVec 64) (high : Bool) (v : Word) : BitVec 64 :=
  if high then (old &&& 0xFFFFFFFF) ||| (v.setWidth 64 <<< 32) else (old &&& 0xFFFFFFFF00000000) ||| v.setWidth 64

def boolN (b : Bool) (w : Nat) : Nat := if b then w else 0

/-! ## Reads -/

def stCode : CoreSt → Nat
  | .idle => 0 | .run => 1 | .wait => 2 | .hold => 3 | .suspended => 4 | .halted => 5 | .fault => 6 | .outOfService => 7

/-- A core page (Tables 02.9, 05.6, 06.10, 10.12). -/
def State.rdCore (s : State) (key o : Nat) : Nat :=
  let c := s.core key
  if 0x300 ≤ o ∧ o < 0x380 then
    let q := c.dq ((o - 0x300) / 0x20)
    let parked := q.entries.any (fun e => e.phase == .parked)
    match o % 0x20 with
    | 0 => boolN q.mode 1
    | 4 => boolN q.held.isSome (2 ^ 31) + boolN parked (2 ^ 30) + q.entries.length
    | 8 => q.next.toNat
    | 12 => match q.entries with | e :: _ => e.seq | [] => q.next.toNat
    | _ => 0
  else match o with
    | 0 => c.ycount.toNat * 65536 + stCode c.st
    | 4 => c.pc % 4096
    | 8 => c.fault.toNat
    | 0x18 => boolN c.spare 512 + boolN c.insvc 256 + c.lcore
    | 0x100 => c.aflags.toNat
    | 0x200 => s.sfuOutstanding key % 4096 * 16 + boolN c.active 1
    | 0x204 => 0x01030201
    | 0x208 => c.perr.toNat
    | _ => 0

/-- 64-bit registers of a core page. -/
def State.rdCore64 (s : State) (key o : Nat) : Option Nat :=
  let c := s.core key
  if 0x300 ≤ o ∧ o < 0x380 ∧ o % 0x20 = 0x18 then
    let q := c.dq ((o - 0x300) / 0x20)
    some (boolN (q.entries.any (fun e => e.phase == .parked)) (cFaultPending * 2 ^ 56) + boolN q.faultWrite (2 ^ 48) + q.faultDva)
  else if o = 0x10 then some (c.step s.now).toNat
  else if o = 0x20 then some c.issued.toNat else none

/-- CSQ_CL_MAP (Table 06.18). -/
def State.clMap (s : State) (clus : Nat) : Nat :=
  (rangeFrom 0 s.active).foldl (fun m i => m + (match s.physOf clus i with | some k => k % 16 | none => 0) * 16 ^ i) 0

/-- A cluster page (Tables 06.17, 08.7). -/
def State.rdClus (s : State) (clus o : Nat) : Nat :=
  let c := s.clu clus
  match o with
  | 0x100 => c.relQ.length * 65536 + (match c.relRun with | some r => r.idx * 256 + 1 | none => 0)
  | 0x104 => c.relCount.toNat
  | _ => 0

/-- Ring registers (Tables 11.14 to 11.18), at `o` from the first ring's base. -/
def State.rdRing (s : State) (p kind e o : Nat) : Nat :=
  let r := s.ring p (ringKey kind e (o / 0x20))
  match o % 0x20 with
  | 0 => r.base.toNat
  | 4 => r.cfg.toNat
  | 8 => r.tail.toNat
  | 12 => r.head.toNat
  | 0x14 => boolN r.held (2 ^ 31) + boolN r.overrun (2 ^ 30) + r.pending
  | _ => 0

/-- Ring registers lie at 0x10 to 0x8F of an engine. -/
def isRing (o : Nat) : Bool := decide (0x10 ≤ o) && decide (o < 0x90)

/-- Ring class of a key. -/
def ringClass (key : Nat) : Nat := key % 4

/-- PIX_STAT (Table 11.11). -/
def State.pixStat (s : State) (p e : Nat) : Nat :=
  let x := s.ped p
  (match Tbl.get none x.pixRun e with
   | some k => 2 ^ 31 + ringClass k.cmd.ring * 2 ^ 26 + k.cmd.stream % 4096
   | none => 0) + (x.frames.filter (fun f => f.peng == e)).length * 2 ^ 20

/-- The frame, packet or command that an entropy engine runs: CLASS, SUBSTREAM, STREAM, and whether it is a decode. Of several
frames, the first of the highest class; units that wait to be written come last (DEDUCED, log 120). -/
def State.entWork (s : State) (p e : Nat) : Option (Nat × Nat × Nat × Bool) :=
  let x := s.ped p
  let frames := sortBy (fun f => ringClass f.pix.cmd.ring) (x.frames.filter (fun f => f.eeng == e))
  match s.entRunning p e with
  | some d => some (ringClass d.cmd.ring, if d.audio then 0 else subOf d.rows d.subs.length d.row, d.cmd.stream, true)
  | none =>
    match frames with
    | f :: _ => some (ringClass f.pix.cmd.ring, subOf f.rows f.subs.length (min f.row (f.rows - 1)), f.pix.cmd.stream, false)
    | [] =>
      (x.units.find? (fun u => u.eeng == e)).map (fun u =>
        (match u.for_ with | .cmd k => ringClass k.ring | .frame => 0, 0, u.stream, false))

/-- ENT_STAT (Table 12.13). -/
def State.entStat (s : State) (p e : Nat) : Nat :=
  match s.entWork p e with
  | some (cls, sub, stream, dec) => 2 ^ 31 + boolN dec (2 ^ 30) + cls * 2 ^ 26 + sub % 64 * 2 ^ 20 + stream % 4096
  | none => 0

/-- SKM_STAT (Table 13.8). -/
def State.skmStat (s : State) (p : Nat) : Nat :=
  let x := s.ped p
  (match x.skmRun with
   | some j => 2 ^ 31 + boolN (j.cmd.op == 2) (2 ^ 30) + ringClass j.cmd.ring * 2 ^ 28 + j.block % 2 ^ 25
   | none => 0) + x.skmSaved.length % 8 * 2 ^ 25

/-- BST_HEALTH and BST_COREBAD (Table 17.7). -/
def State.healthWord (s : State) (p : Nat) : Nat :=
  let b := fun k i => boolN (if k < hPlinth then s.badWithPlinth p k else s.bad p k) (2 ^ i)
  (rangeFrom 0 8).foldl (fun m c => m + boolN (!s.clusUsable (p * 8 + c)) (2 ^ c)) 0 + b (hPix 0) 8 + b (hPix 1) 9 + b (hEnt 0) 10 +
  b (hEnt 1) 11 + b hSkim 12 + b hPlinth 13 + b hHbm 14 + b hLath 15 + b hPcie 16
def State.coreBad (s : State) (p c : Nat) : Nat :=
  (rangeFrom 0 16).foldl (fun m q => m + boolN (s.bad p (c * 16 + q)) (2 ^ q)) 0

/-- A BST block. -/
def State.rdBst (s : State) (p o : Nat) : Nat :=
  let x := s.ped p
  if 0x40 ≤ o ∧ o < 0x60 then s.coreBad p ((o - 0x40) / 4)
  else match o with
    | 0 => x.bstCfg.toNat
    | 8 => boolN x.bstRun.isSome (2 ^ 31) + x.bstStat.toNat
    | 0xC => x.bstCount.toNat
    | 0x10 => x.bstSig.toNat
    | 0x14 => x.bstExp.toNat
    | 0x20 => s.healthWord p
    | 0x24 => 192 - x.fuse.length
    | _ => 0

/-- A pedestal window (Table 06.9), but for 64-bit registers and SYC_VAL. -/
def State.rdPed (s : State) (p o : Nat) : Nat :=
  let x := s.ped p
  if o < 0x80000 then s.rdCore (p * 128 + o / 0x1000) (o % 0x1000)
  else if o < 0x88000 then s.rdClus (p * 8 + (o - 0x80000) / 0x1000) (o % 0x1000)
  else if 0x100000 ≤ o ∧ o < 0x180000 then
    let e := (o - 0x100000) / 0x1000
    if o = 0x102000 then x.pixCtxBase.toNat
    else if 2 ≤ e then 0
    else if isRing (o % 0x1000) then s.rdRing p 0 e (o % 0x1000 - 0x10)
    else match o % 0x1000 with | 0 => s.pixStat p e | 4 => (Tbl.get 0 x.pixErr e).toNat | _ => 0
  else if 0x180000 ≤ o ∧ o < 0x200000 then
    let e := (o - 0x180000) / 0x1000
    if o = 0x182000 then x.entCtxBase.toNat
    else if 2 ≤ e then 0
    else if isRing (o % 0x1000) then s.rdRing p 1 e (o % 0x1000 - 0x10)
    else match o % 0x1000 with | 0 => s.entStat p e | 4 => (Tbl.get 0 x.entErr e).toNat | _ => 0
  else if 0x200000 ≤ o ∧ o < 0x240000 then
    let r := o - 0x200000
    if isRing r then s.rdRing p 2 0 (r - 0x10)
    else match r with | 0 => s.skmStat p | 4 => x.skmErr.toNat | _ => 0
  else if o = 0x240000 then x.plnStat.toNat
  else if o = 0x2C4000 then x.sycStat.toNat
  else if 0x340000 ≤ o ∧ o < 0x380000 then s.rdBst p (o - 0x340000)
  else if o = 0x390000 then x.xltStat.toNat else 0

def State.rdPed64 (s : State) (p o : Nat) : Option Nat :=
  let x := s.ped p
  if o < 0x80000 then s.rdCore64 (p * 128 + o / 0x1000) (o % 0x1000)
  else if o < 0x88000 ∧ o % 0x1000 = 0 then some (s.clMap (p * 8 + (o - 0x80000) / 0x1000))
  else if o = 0x180100 ∨ o = 0x181100 then some (Tbl.get 0 x.entSym ((o - 0x180100) / 0x1000)).toNat
  else if o = 0x200100 then some x.skmIn.toNat
  else if o = 0x200108 then some x.skmOut.toNat
  else if o = 0x240008 then some x.plnErr.toNat
  else if o = 0x340018 then some x.bstFail.toNat
  else if 0x380000 ≤ o ∧ o < 0x388000 ∧ o % 8 = 0 then
    some ((Tbl.get 0 x.win ((o - 0x380000) / 16)).toNat / 2 ^ (64 * (o / 8 % 2)) % 2 ^ 64)
  else if o = 0x390008 then some x.xltMal.toNat else none

/-- Is an offset of the HIF block a register of a queue that the other function owns? It reads as 0 (R565). -/
def State.othersQueue (s : State) (f : Bool) (o : Nat) : Bool :=
  if 0x100000 ≤ o ∧ o < 0x120000 then !mayWrite f (s.sq ((o - 0x100000) / 0x100)).owner
  else if 0x200000 ≤ o ∧ o < 0x220000 then !mayWrite f (s.cq ((o - 0x200000) / 0x100)).owner
  else if 0x400000 ≤ o ∧ o < 0x600000 then !mayWrite f (s.sq ((o - 0x400000) / 0x1000)).owner
  else if 0x600000 ≤ o ∧ o < 0x800000 then !mayWrite f (s.cq ((o - 0x600000) / 0x1000)).owner
  else false

/-- The HIF block of a function (Tables 14.11 to 14.19), with the MSI-X table and pending bits. -/
def State.rdHif (s : State) (f : Bool) (o : Nat) : Nat :=
  let h := s.hif f
  let own := fun (w : Option Bool) => match w with | some g => 2 ^ 27 + boolN g (2 ^ 28) | none => 0
  if s.othersQueue f o then 0
  else if 0x100000 ≤ o ∧ o < 0x120000 then
    let q := s.sq ((o - 0x100000) / 0x100)
    match o % 0x100 with
    | 0x08 => q.cfg.toNat
    | 0x0C => q.head.toNat
    | 0x14 => boolN q.held.isSome (2 ^ 31) + boolN q.stopped (2 ^ 30) + boolN q.overrun (2 ^ 29) + own q.owner +
        boolN q.cfgerr (2 ^ 26) + q.entries.length % 2 ^ 13
    | 0x18 => q.next.toNat
    | 0x1C => match q.entries with | e :: _ => e.seq | [] => q.next.toNat
    | _ => 0
  else if 0x200000 ≤ o ∧ o < 0x220000 then
    let q := s.cq ((o - 0x200000) / 0x100)
    match o % 0x100 with
    | 0x08 => q.cfg.toNat
    | 0x0C => boolN q.phase 65536 + q.tail.toNat
    | 0x14 => boolN q.stopped (2 ^ 30) + boolN q.overrun (2 ^ 29) + own q.owner + boolN q.cfgerr (2 ^ 26) + q.heldC.length % 2 ^ 13
    | _ => 0
  else if 0x400000 ≤ o ∧ o < 0x600000 then (if o % 0x1000 = 0 then (s.sq ((o - 0x400000) / 0x1000)).tail.toNat else 0)
  else if 0x600000 ≤ o ∧ o < 0x800000 then (if o % 0x1000 = 0 then (s.cq ((o - 0x600000) / 0x1000)).head.toNat else 0)
  else if 0xE00000 ≤ o ∧ o < 0xE08000 then
    if o % 16 = 12 then boolN (!Tbl.get false h.unmasked ((o - 0xE00000) / 16)) 1 else h.msixTab.le (o - 0xE00000) 4
  else if 0xE10000 ≤ o ∧ o < 0xE10100 then
    (rangeFrom 0 32).foldl (fun m i => m + boolN (Tbl.get false h.pba ((o - 0xE10000) * 8 + i)) (2 ^ i)) 0
  else match o with
    | 0 => fnNum f
    | 4 => s.nicheMask f
    | 0xC => h.err.toNat
    | 0x28 => h.evcfg.toNat
    | 0x2C => h.evhead.toNat
    | 0x30 => h.evtail.toNat
    | _ => 0

def State.rdHif64 (s : State) (f : Bool) (o : Nat) : Option Nat :=
  let h := s.hif f
  if o = 0x10 then some h.b2base.toNat
  else if o = 0x20 then some h.evbase.toNat
  else if s.othersQueue f o then none
  else if 0x100000 ≤ o ∧ o < 0x120000 ∧ o % 0x100 = 0 then some (s.sq ((o - 0x100000) / 0x100)).base.toNat
  else if 0x200000 ≤ o ∧ o < 0x220000 ∧ o % 0x100 = 0 then some (s.cq ((o - 0x200000) / 0x100)).base.toNat else none

/-- The MBX block (Table 14.20). -/
def State.rdMbx (s : State) (f : Bool) (o : Nat) : Nat :=
  let m := s.mbx f
  match o with
  | 0x08 => m.h2m.length + boolN m.cmd.isSome 256
  | 0x0C => m.ack.toNat
  | 0x14 => m.m2h.length + boolN m.sent 256
  | 0x1C => m.cfg.toNat
  | 0x20 => m.stat.toNat
  | _ => 0

/-- SEC_FUSE (Table 18.9). -/
def Mgt.fuseWord (m : Mgt) : Nat := m.svn + m.ecrev.toNat * 256 + m.lmsrev.toNat * 4096 + m.life.toNat * 65536

/-- PWR_STAT.PHASE (Table 19.9). -/
def Pwr.phaseCode (p : Pwr) : Nat := if p.stop ≠ 0 then 12 else p.phase

/-- The hottest junction: pedestal and temperature; the lowest pedestal of several. -/
def Pwr.hottest (p : Pwr) : Nat × BitVec 16 :=
  (rangeFrom 1 19).foldl (fun b i => let t := Tbl.get 0 p.tj i; if tempOf b.2 < tempOf t then (i, t) else b) (0, Tbl.get 0 p.tj 0)

/-- PWR, CLK and THM (Table 19.8). Whether the throttle withholds the edge of this cycle no state fixes. -/
def State.rdPwr (s : State) (o : Nat) : Nat :=
  let p := s.pwr
  match o with
  | 0 => boolN p.ready (2 ^ 31) + p.phaseCode * 2 ^ 24 + p.state * 65536 + boolN (vinOk p.vin) 1
  | 4 => p.fault.toNat
  | 8 => p.cap.toNat
  | 0xC => p.effcap.toNat * 65536 + p.cause * 256 + p.level
  | 0x10 => p.pin.toNat * 65536 + p.vin.toNat
  | 0x14 => p.pedoff.toNat
  | 0x18 => s.senseOpen.toNat
  | 0x4000 => boolN (p.level ≠ 0 && (Config.freeValue s.free).getLsbD 0) 512 + boolN p.droop 256 + boolN p.fallback 4 + boolN p.refok 2 +
      boolN p.lock 1
  | 0x4010 => p.droops.toNat
  | 0x8000 => p.line1 * 64 + p.line0 * 16 + boolN (decide (p.inletRun ≠ 0)) 4 + boolN (decide (p.flowRun ≠ 0)) 2 +
      boolN (decide (21 ≤ p.okRun)) 1
  | 0x8004 => p.thmFault.toNat
  | 0x8010 => p.hottest.1 * 65536 + p.hottest.2.toNat
  | _ => 0

/-- RAS (Table 16.8). -/
def State.rdRas (s : State) (o : Nat) : Nat :=
  if 0x100 ≤ o ∧ o < 0x200 then (Tbl.get 0 s.ras.cecnt ((o - 0x100) / 4)).toNat
  else if 0x200 ≤ o ∧ o < 0x300 then (Tbl.get 0 s.ras.uecnt ((o - 0x200) / 4)).toNat
  else if 0x10000 ≤ o ∧ o < 0x20000 then s.ras.ring.le (o - 0x10000) 4
  else match o with
    | 0 => s.ras.logtail.toNat
    | 4 => s.ras.logcfg.toNat
    | 0xC => boolN (!s.ras.rsts.isEmpty) (2 ^ 31) + s.ras.rststat.toNat
    | _ => 0

/-- LTH (Tables 15.10 to 15.25). -/
def State.rdLth (s : State) (o : Nat) : Nat :=
  let l := s.lath
  if 0x10000 ≤ o ∧ o < 0x11000 then
    let p := s.port ((o - 0x10000) / 0x100)
    match o % 0x100 with
    | 0 => p.minl * 16 + boolN p.en 1
    | 4 => p.st * 2 ^ 29 + p.polinv.toNat * 256 + p.act.toNat
    | 8 => p.fault.toNat
    | 0xC => p.lmap.toNat
    | 0x20 => p.nbr.toNat
    | 0x24 => p.delay.toNat
    | _ => 0
  else if 0x100000 ≤ o ∧ o < 0x140000 then (Tbl.get 0 l.routes ((o - 0x100000) / 4)).toNat
  else if 0x200000 ≤ o ∧ o < 0x210000 then
    let r := s.rft ((o - 0x200000) / 16)
    match o % 16 with
    | 0 => r.cfg.toNat
    | 4 => r.ctr.toNat
    | 8 => r.exp.toNat
    | _ => boolN r.held (2 ^ 31) + boolN r.due 65536 + r.hcode * 256 + r.epoch.toNat
  else if 0x300000 ≤ o ∧ o < 0x304000 then
    let q := s.tq ((o - 0x300000) / 0x40)
    match o % 0x40 with
    | 0 => q.base.toNat
    | 4 => q.cfg.toNat
    | 8 => q.dest.toNat
    | 0xC => q.pctr.toNat
    | 0x10 => q.taken.toNat
    | 0x18 => boolN q.held (2 ^ 31) + q.ents.length % 2 ^ 13
    | 0x1C => q.next.toNat
    | _ => 0
  else if 0x400000 ≤ o ∧ o < 0x401000 then
    let g := s.grp ((o - 0x400000) / 16)
    match o % 16 with
    | 8 => g.bgt.toNat
    | 0xC => g.inst.toNat
    | _ => 0
  else match o with
    | 0 => boolN l.dup 65536 + l.id.toNat
    | 0x10 => boolN l.nocomref (2 ^ 17) + boolN l.notime (2 ^ 16) + l.depth.toNat * 256 + l.tport.toNat * 16 + boolN l.root 1
    | 0x20 => l.e2e.toNat
    | 0x24 => l.stat.toNat
    | _ => 0

def State.rdLth64 (s : State) (o : Nat) : Option Nat :=
  if o = 8 then some Config.uid.toNat
  else if o = 0x18 then some (s.ft % 2 ^ 64)
  else if 0x10000 ≤ o ∧ o < 0x11000 ∧ o % 0x100 = 0x10 then some (s.port ((o - 0x10000) / 0x100)).expuid.toNat
  else if 0x10000 ≤ o ∧ o < 0x11000 ∧ o % 0x100 = 0x18 then some (s.port ((o - 0x10000) / 0x100)).nbruid.toNat
  else if 0x400000 ≤ o ∧ o < 0x401000 ∧ o % 16 = 0 then some (s.grp ((o - 0x400000) / 16)).bg.toNat else none

/-- Any 32-bit register without a side effect (Table 14.2). -/
def State.rd32 (s : State) (f : Bool) (a : Nat) : Nat :=
  if a < 0x01000000 then s.rdHif f a
  else if a < 0x01010000 then s.rdMbx f (a - 0x01000000)
  else if a = 0x01010000 then s.mgt.state
  else if a = 0x01010004 then s.mgt.fwver.toNat
  else if a = 0x01020008 then s.mgt.fuseWord
  else if a = 0x0102000C then s.mgt.opened * 256
  else if 0x01030000 ≤ a ∧ a < 0x01040000 then s.rdPwr (a - 0x01030000)
  else if 0x01100000 ≤ a ∧ a < 0x01200000 then s.rdRas (a - 0x01100000)
  else if 0x02000000 ≤ a ∧ a < 0x03000000 then
    if a = 0x02F00000 then boolN s.evFreeze 1
    else if evcValid (a - 0x02000000) then (Tbl.get EvCtr.reset s.evc ((a - 0x02000000) / 16)).src.toNat else 0
  else if 0x03000000 ≤ a ∧ a < 0x04000000 then s.rdLth (a - 0x03000000)
  else if 0x04000000 ≤ a ∧ a < 0x09000000 then s.rdPed ((a - 0x04000000) / 0x400000) (a % 0x400000) else 0

/-- The 64-bit register whose low word lies at `a`. -/
def State.rd64 (s : State) (f : Bool) (a : Nat) : Option Nat :=
  if a < 0x01000000 then s.rdHif64 f a
  else if a = 0x01020000 then some Config.uid.toNat
  else if a = 0x01020010 then some s.mgt.nonce.toNat
  else if a = 0x01034008 then some s.pwr.withheld.toNat
  else if a = 0x01038008 then some (s.pwr.flow.toNat * 2 ^ 32 + s.pwr.outlet.toNat * 65536 + s.pwr.inlet.toNat)
  else if 0x02000000 ≤ a ∧ a < 0x02F00000 then
    if a % 16 = 8 ∧ evcValid (a - 0x02000008) then some (Tbl.get EvCtr.reset s.evc ((a - 0x02000000) / 16)).cnt.toNat else none
  else if 0x03000000 ≤ a ∧ a < 0x04000000 then s.rdLth64 (a - 0x03000000)
  else if 0x04000000 ≤ a ∧ a < 0x09000000 then s.rdPed64 ((a - 0x04000000) / 0x400000) (a % 0x400000) else none

/-- A host read of a counter (R241). -/
def State.ctrRead (id : Nat) (s : State) : Nat × State :=
  let off := sycBlock (id / 1024) + 0x4004
  let a := s.arm off (id % 1024)
  if a = 2 ∨ Tbl.get false (s.ped (id / 1024)).ctrBad (id % 1024) then
    let s := ((s.disarm off (id % 1024)).sycFlag (id / 1024) 4).errUE
      { Rec.base 0x08 2 0 (some (id / 1024)) none with synd := some (id % 1024) }
    (0, s.updPed (id / 1024) (fun p => { p with ctrBad := Tbl.set false (id % 1024) true p.ctrBad }))
  else if a = 1 then
    ((s.ctrVal id).toNat, ((s.disarm off (id % 1024)).sycFlag (id / 1024) 2).errCE
      { Rec.base 0x08 0 0 (some (id / 1024)) none with synd := some (id % 1024) })
  else ((s.ctrVal id).toNat, s)

/-- The counter whose SYC_VAL lies at a BAR0 offset. -/
def sycValAt (a : Nat) : Option Nat :=
  let o := a % 0x400000
  if 0x04000000 ≤ a ∧ a < 0x09000000 ∧ 0x2C0000 ≤ o ∧ o < 0x2C4000 ∧ o % 16 = 0 then
    some ((a - 0x04000000) / 0x400000 * 1024 + (o - 0x2C0000) / 16) else none

/-- CLK_STAT, whose current value is not fixed: reading it draws. -/
def drawnBy (a : Nat) : Bool := a == 0x01034000

/-- The W1C registers (Table 00.6). -/
def isW1c (a : Nat) : Bool :=
  let o := a % 0x400000
  if 0x04000000 ≤ a ∧ a < 0x09000000 then
    if o < 0x80000 then [0x008, 0x100, 0x208].contains (o % 0x1000)
    else [0x100004, 0x101004, 0x180004, 0x181004, 0x200004, 0x240000, 0x2C4000, 0x390000].contains o
  else [0x0C, 0x01000020, 0x01030004, 0x01038004, 0x03000024].contains a

/-- Where the collisions of a register are kept: HIF and MBX are a function's own. -/
def markAt (f : Bool) (a : Nat) : Nat := if a < 0x01010000 then fnReg f a else a

/-- One word is read (R10, R11, R14, R16, R660, R759). -/
def State.readWord (f : Bool) (a : Nat) (s : State) : Nat × State :=
  if !s.decodes a then (0, s)
  else if a = 0x34 then s.evlostTake f
  else if a = 0x01000010 then s.m2hTake f
  else if 0x03010000 ≤ a ∧ a < 0x03011000 ∧ a % 0x100 = 0x28 then s.retryTake ((a - 0x03010000) / 0x100)
  else match sycValAt a with
    | some id => (s.closeAt id).ctrRead id
    | none =>
      let setCap := fun (k : Nat) (v : Option Word) => s.updHif f (fun h => { h with capture := Tbl.set none k v h.capture })
      match s.rd64 f a with
      | some v => (v % 2 ^ 32, setCap a (some (BitVec.ofNat 32 (v / 2 ^ 32))))
      | none =>
        match (if 4 ≤ a then s.rd64 f (a - 4) else none) with
        | some v =>
          match Tbl.get none (s.hif f).capture (a - 4) with
          | some w => (w.toNat, setCap (a - 4) none)
          | none => (v / 2 ^ 32, s)
        | none => (s.rd32 f a, if drawnBy a then { s with free := s.free + 1 } else if isW1c a then s.unmark (markAt f a) else s)

/-- The words that a run of bytes touches, read in ascending order. -/
def State.readWords (f : Bool) : Nat → Nat → State → List Byte × State
  | _, 0, s => ([], s)
  | a, n + 1, s =>
    let r := s.readWord f (4 * a)
    let t := State.readWords f (a + 1) n r.2
    (leBytes r.1 4 ++ t.1, t.2)

/-- A read of `n` bytes of BAR0 (R13). -/
def State.barRead (f : Bool) (a n : Nat) (s : State) : State :=
  let k := (a % 4 + n + 3) / 4
  let r := State.readWords f (a / 4) k s
  r.2.send (.read (fnNum f) ((r.1.drop (a % 4)).take n) false)

/-- A read that the host may make: 1 to 4,096 bytes inside BAR0. -/
def execReg64LowRead (f : Bool) (a : BitVec 32) (n : Nat) (s : State) : Outcome :=
  if n = 0 ∨ 4096 < n ∨ 0x10000000 < a.toNat + n then .next s else s.host f false (State.barRead f a.toNat n)

def execSycValRead (f : Bool) (id : BitVec 15) (s : State) : Outcome :=
  if 20 * 1024 ≤ id.toNat then .next s
  else s.host f true (State.barRead f (sycBlock (id.toNat / 1024) + id.toNat % 1024 * 16) 4)

/-! ## Writes -/

/-- A host write of SYC_SET or SYC_ADD reaches its counter: the cycle's value is set, its signals are added and its SWAITs
compare, in the order of Table 06.4 (R234, R240). -/
def State.sycWrite (id : Nat) (v : Word) (set : Bool) (s : State) : State := (s.arrive1 id v.toNat set).through s.now

/-- Arm an injection. -/
def inj (off : Nat) (v : Word) (tgt : Nat) (kind : Nat) (s : State) : State :=
  if bitAt v.toNat 0 then s.setArm off tgt kind else s

/-- 1 for a single-bit error, 2 for DOUBLE in bit `i`. -/
def dbl (v : Word) (i : Nat) : Nat := if bitAt v.toNat i then 2 else 1

/-- TARGET of Table 16.14. -/
def tgtOf (v : Word) : Nat := bits v.toNat 15 8

/-- A core page. -/
def State.wrCore (key o : Nat) (v : Word) (s : State) : State :=
  let a := corePage key
  if 0x300 ≤ o ∧ o < 0x380 then
    let q := (o - 0x300) / 0x20
    if h : q < 4 ∧ key < 2560 then
      let k : CoreId := ⟨⟨key / 128, by omega⟩, ⟨key / 16 % 8, by omega⟩, ⟨key % 16, by omega⟩⟩
      match o % 0x20 with
      | 0 => if (s.core key).job.isSome then s else s.updCore key (fun c => c.setDq q { c.dq q with mode := bitAt v.toNat 0 })
      | 0x10 =>
        match bits v.toNat 1 0 with
        | 1 => nextOf s (execResume k ⟨q, h.1⟩ s)
        | 2 => nextOf s (execRetry k ⟨q, h.1⟩ s)
        | 3 => nextOf s (execCancel k ⟨q, h.1⟩ s)
        | _ => s
      | _ => s
    else s
  else match o with
    | 0x008 =>
      if bitAt v.toNat 31 ∧ ¬ (s.freshAt (a + 8)).getLsbD 31 then (s.updCore key (fun c => { c with fault := 0 })).unmark (a + 8)
      else s.unmark (a + 8)
    | 0x01C => inj (a + o) v 0 1 s
    | 0x100 => s.ackW1c (a + 0x100) (s.core key).aflags v (fun r s => s.updCore key (fun c => { c with aflags := r }))
    | 0x208 => s.ackW1c (a + 0x208) (s.core key).perr v (fun r s => s.updCore key (fun c => { c with perr := r }))
    | 0x20C => if bits v.toNat 1 0 = 3 ∨ !bitAt v.toNat 2 then s else s.setArm (a + o) (bits v.toNat 1 0) 2
    | 0x380 => inj (a + o) v (bits v.toNat 2 1) 2 s
    | 0x400 => inj (a + o) v 0 (dbl v 1) s
    | 0x404 => inj (a + o) v 0 (dbl v 1) s
    | 0x408 => if tgtOf v ≤ 4 then inj (a + o) v (tgtOf v) 2 s else s
    | 0x40C => if tgtOf v ≤ 7 then inj (a + o) v (tgtOf v) (dbl v 1) s else s
    | _ => s

/-- A ring's registers (Tables 11.14 to 11.18). A SIZE of 1 to 3 or 13 to 15 and an OFFSET past plinth memory are not accepted. -/
def State.wrRing (p kind e o : Nat) (v : Word) (s : State) : State :=
  let c := o / 0x20
  let key := ringKey kind e c
  match o % 0x20 with
  | 0 => if v.toNat < 0xA0000000 then s.updRing p key (fun r => { r with base := v &&& 0xFFFFFFC0 }) else s
  | 4 =>
    let sz := bits v.toNat 3 0
    if (s.ring p key).pending ≠ 0 ∨ (1 ≤ sz ∧ sz ≤ 3) ∨ 13 ≤ sz then s else s.updRing p key (fun r => { r with cfg := v &&& 0xF })
  | 8 =>
    let s := s.ringTail p key (v.setWidth 16)
    if kind = 0 then s.pixSettle p e else if kind = 1 then s.entSettle p e else s.skmSettle p
  | 0x10 =>
    match bits v.toNat 1 0 with
    | 1 => s.ringResume p key
    | 3 =>
      if kind = 0 then (s.pixDrop p e c cCancelled).pixSettle p e
      else if kind = 1 then (s.entDrop p e c cCancelled).entSettle p e
      else if h : p < 20 then s.skmCancel ⟨p, h⟩ c else s
    | _ => s
  | _ => s

/-- Does a ring of the plinth hold pending commands, or (`all`) a frame or unit of it? -/
def Ped.mediaPending (all : Bool) (x : Ped) : Bool :=
  x.rings.any (fun kv => kv.2.pending != 0) || (all && (!x.frames.isEmpty || !x.units.isEmpty || !x.decs.isEmpty))

/-- A BST block (Table 17.7). -/
def State.wrBst (p o : Nat) (v : Word) (s : State) : State :=
  let w := v.toNat
  match o with
  | 0 => if w % 4 = 3 then s else s.updPed p (fun x => { x with bstCfg := v &&& 3 })
  | 4 =>
    let kind := bits w 3 0
    let unit := bits w 15 12
    if !bitAt w 31 ∨ kind = 0 ∨ 6 < kind ∨ ((kind = 3 ∨ kind = 4) ∧ 1 < unit) ∨ (kind = 6 ∧ (11 < p ∨ unit ≠ p)) then s
    else s.bstCmd p kind (if kind ≤ 2 then bits w 10 8 else 0) (if kind = 2 ∨ kind = 5 then 0 else unit)
  | 0x28 => if bitAt w 31 then s.subst ((p * 8 + bits w 10 8) * 16 + bits w 3 0) else s
  | 0x2C => inj (bstBlock p + o) v 0 1 s
  | _ => s

/-- A pedestal window. -/
def State.wrPed (p o : Nat) (v : Word) (s : State) : State :=
  let b := pedBase p
  let w := v.toNat
  if o < 0x80000 then s.wrCore (p * 128 + o / 0x1000) (o % 0x1000) v
  else if o < 0x88000 then
    if o % 0x1000 = 0x200 then inj (b + o) v 0 (dbl v 1) s
    else if o % 0x1000 = 0x204 then inj (b + o) v 0 2 s else s
  else if 0x100000 ≤ o ∧ o < 0x180000 then
    let e := (o - 0x100000) / 0x1000
    if o = 0x102000 then
      if 0x500 ≤ w / 2 ^ 21 ∨ (s.ped p).mediaPending false then s else s.updPed p (fun x => { x with pixCtxBase := v &&& 0xFFE00000 })
    else if 2 ≤ e then s
    else if isRing (o % 0x1000) then s.wrRing p 0 e (o % 0x1000 - 0x10) v
    else match o % 0x1000 with
      | 4 => s.ackW1c (b + o) (Tbl.get 0 (s.ped p).pixErr e) v (fun r s => s.updPed p (fun x => { x with pixErr := Tbl.set 0 e r x.pixErr }))
      | 8 => inj (b + o) v 0 (dbl v 1) s
      | _ => s
  else if 0x180000 ≤ o ∧ o < 0x200000 then
    let e := (o - 0x180000) / 0x1000
    if o = 0x182000 then
      if 0x1400 ≤ w / 2 ^ 19 ∨ (s.ped p).mediaPending true then s else s.updPed p (fun x => { x with entCtxBase := v &&& 0xFFF80000 })
    else if 2 ≤ e then s
    else if isRing (o % 0x1000) then s.wrRing p 1 e (o % 0x1000 - 0x10) v
    else match o % 0x1000 with
      | 4 => s.ackW1c (b + o) (Tbl.get 0 (s.ped p).entErr e) v (fun r s => s.updPed p (fun x => { x with entErr := Tbl.set 0 e r x.entErr }))
      | 8 => if bitAt w 4 then s.setArm (b + o) (bits w 3 0) 2 else s
      | _ => s
  else if 0x200000 ≤ o ∧ o < 0x240000 then
    let r := o - 0x200000
    if isRing r then s.wrRing p 2 0 (r - 0x10) v
    else match r with
      | 4 => s.ackW1c (b + o) (s.ped p).skmErr v (fun r s => s.updPed p (fun x => { x with skmErr := r }))
      | 8 => inj (b + o) v 0 2 s
      | _ => s
  else if 0x2C0000 ≤ o ∧ o < 0x2C4000 then
    let id := p * 1024 + (o - 0x2C0000) / 16
    match o % 16 with
    | 4 => s.sycWrite id v true
    | 8 => s.sycWrite id (v &&& 0xFFFF) false
    | _ => s
  else if 0x340000 ≤ o ∧ o < 0x380000 then s.wrBst p (o - 0x340000) v
  else match o with
    | 0x240000 => s.ackW1c (b + o) (s.ped p).plnStat v (fun r s => s.updPed p (fun x => { x with plnStat := r }))
    | 0x240010 => if bitAt w 6 then s.setArm (b + o) (bits w 5 0) (dbl v 7) else s
    | 0x240100 => if p < 12 then inj (b + o) v 0 (dbl v 1) s else s
    | 0x280000 => if tgtOf v ≤ 4 then inj (b + o) v (tgtOf v) (dbl v 1) s else s
    | 0x2C4000 => s.ackW1c (b + o) (s.ped p).sycStat v (fun r s => s.updPed p (fun x => { x with sycStat := r }))
    | 0x2C4004 => if bitAt w 10 then (s.setArm (b + o) (bits w 9 0) (dbl v 11)).rewait (p * 1024 + bits w 9 0) else s
    | 0x390000 => s.ackW1c (b + o) (s.ped p).xltStat v (fun r s => s.updPed p (fun x => { x with xltStat := r }))
    | 0x390010 => inj (b + o) v 0 (dbl v 1) s
    | _ => s

/-- BASE of an SQ or CQ: written while the queue is disabled or STOPPED, by the function that may (R565, R567). -/
def baseHalf (old : BitVec 64) (high : Bool) (v : Word) : BitVec 64 := setHalf old high v &&& 0xFFFFFFFFFFFFF000

/-- The HIF block of a function. -/
def State.wrHif (f : Bool) (o : Nat) (v : Word) (s : State) : State :=
  let h := s.hif f
  let w := v.toNat
  if 0x100000 ≤ o ∧ o < 0x120000 then
    let n := (o - 0x100000) / 0x100
    if hn : n < 512 then
      let q := s.sq n
      match o % 0x100 with
      | 0x00 => if mayWrite f q.owner ∧ (!bitAt q.cfg.toNat 31 ∨ q.stopped) then s.setSq n { q with base := baseHalf q.base false v } else s
      | 0x04 => if mayWrite f q.owner ∧ (!bitAt q.cfg.toNat 31 ∨ q.stopped) then s.setSq n { q with base := baseHalf q.base true v } else s
      | 0x08 => s.sqcfg f n v
      | 0x10 =>
        match bits w 1 0 with
        | 1 => s.sqResume f ⟨n, hn⟩
        | 2 => s.sqStart f n
        | 3 => s.sqCancel f ⟨n, hn⟩
        | _ => s
      | _ => s
    else s
  else if 0x200000 ≤ o ∧ o < 0x220000 then
    let n := (o - 0x200000) / 0x100
    let q := s.cq n
    match o % 0x100 with
    | 0x00 => if mayWrite f q.owner ∧ (!bitAt q.cfg.toNat 31 ∨ q.stopped) then s.setCq n { q with base := baseHalf q.base false v } else s
    | 0x04 => if mayWrite f q.owner ∧ (!bitAt q.cfg.toNat 31 ∨ q.stopped) then s.setCq n { q with base := baseHalf q.base true v } else s
    | 0x08 => s.cqcfg f n v
    | 0x10 => if bits w 1 0 = 2 then s.cqStart f n else s
    | _ => s
  else if 0x400000 ≤ o ∧ o < 0x600000 then (if o % 0x1000 = 0 then s.sqtail f ((o - 0x400000) / 0x1000) v else s)
  else if 0x600000 ≤ o ∧ o < 0x800000 then (if o % 0x1000 = 0 then s.cqhead f ((o - 0x600000) / 0x1000) v else s)
  else if 0xE00000 ≤ o ∧ o < 0xE08000 then
    if o % 16 = 12 then
      (s.setHif f { h with unmasked := Tbl.set false ((o - 0xE00000) / 16) (!bitAt w 0) h.unmasked }).flushMsix f
    else s.setHif f { h with msixTab := Memory.write (o - 0xE00000) (leBytes w 4) h.msixTab }
  else match o with
    | 0x0C => s.ackW1c (fnReg f 0x0C) h.err v (fun r s => s.updHif f (fun h => { h with err := r }))
    | 0x10 => s.setHif f { h with b2base := b2Mask h.b2log (setHalf h.b2base false v) }
    | 0x14 => s.setHif f { h with b2base := b2Mask h.b2log (setHalf h.b2base true v) }
    | 0x20 => s.setHif f { h with evbase := setHalf h.evbase false v }
    | 0x24 => s.setHif f { h with evbase := setHalf h.evbase true v }
    | 0x28 => s.evcfg f v
    | 0x2C =>
      let s := s.setHif f { h with evhead := v.setWidth 16 }
      if h.taken.isSome ∧ evSize h ≠ 0 then s.postTaken f 0 else s
    | 0x38 => if bits w 2 1 = 3 then s else inj 0x38 v (fnNum f) (bits w 2 1 + 1) s
    | 0x3C => inj 0x3C v (fnNum f) (dbl v 1) s
    | _ => s

/-- The MBX block of a function. -/
def State.wrMbx (f : Bool) (o : Nat) (v : Word) (s : State) : State :=
  let m := s.mbx f
  match o with
  | 0x00 => s.setMbx f (m.push v)
  | 0x04 =>
    let s := if bitAt v.toNat 0 then s.sendCmd f else s
    if bitAt v.toNat 1 then s.setMbx f { s.mbx f with h2m := [] } else s
  | 0x18 => s.setMbx f (m.hostAcks v)
  | 0x1C => s.setMbx f { m with cfg := v &&& 0x800007FF }
  | 0x20 => s.ackW1c (fnReg f 0x01000020) m.stat v (fun r s => s.setMbx f { s.mbx f with stat := r })
  | 0x24 => inj injMbx v (fnNum f) 1 s
  | _ => s

/-- LTH. -/
def State.wrLth (f : Bool) (o : Nat) (v : Word) (s : State) : State :=
  let w := v.toNat
  if 0x10000 ≤ o ∧ o < 0x11000 then
    let n := (o - 0x10000) / 0x100
    match o % 0x100 with
    | 0x00 =>
      let m := bits w 7 4
      let s := s.updPort n (fun p => { p with minl := if 1 ≤ m ∧ m ≤ 8 then m else p.minl, en := bitAt w 0 })
      if !bitAt w 0 then s.portLeave n pDown else if bitAt w 1 then s.train n else s
    | 0x10 => s.updPort n (fun p => { p with expuid := setHalf p.expuid false v })
    | 0x14 => s.updPort n (fun p => { p with expuid := setHalf p.expuid true v })
    | _ => s
  else if 0x100000 ≤ o ∧ o < 0x140000 then
    if 5 ≤ w % 8 then s else s.updLath (fun l => { l with routes := Tbl.set 0 ((o - 0x100000) / 4) (v &&& 0x000FFFF7) l.routes })
  else if 0x200000 ≤ o ∧ o < 0x210000 then
    let n := (o - 0x200000) / 16
    match o % 16 with
    | 0 =>
      if bitAt w 31 ∧ (s.niche (bits w 30 26)).owner ≠ some f then s else s.updRft n (fun r => { r with cfg := v &&& 0xFFE0FFFF })
    | 4 => s.updRft n (fun r => { r with ctr := v &&& 0x7FFF })
    | _ => s
  else if 0x300000 ≤ o ∧ o < 0x304000 then
    let n := (o - 0x300000) / 0x40
    let q := s.tq n
    match o % 0x40 with
    | 0x00 => if q.en ∨ 0xA0000000 ≤ w then s else s.setTq n { q with base := v &&& 0xFFFFFFC0 }
    | 0x04 => s.tqcfg f n v
    | 0x08 => if q.en then s else s.setTq n { q with dest := v &&& 0xFFFF0FFF }
    | 0x0C => if q.en then s else s.setTq n { q with pctr := v &&& 0x7FFF }
    | 0x14 =>
      match bits w 1 0 with
      | 1 => s.tqResume n
      | 3 => s.tqCancel n
      | _ => s
    | _ => s
  else if 0x400000 ≤ o ∧ o < 0x401000 then
    let n := (o - 0x400000) / 16
    let g := s.grp n
    let put := fun (g : Grp) => s.updLath (fun l => { l with groups := Tbl.set Grp.reset n g l.groups })
    if s.lath.waits.any (fun x => x.grp == n && (s.barWait x.job).isSome) then s
    else match o % 16 with
      | 0 => put { g with bg := setHalf g.bg false v }
      | 4 => put { g with bg := setHalf g.bg true (v &&& 0xFF) }
      | 8 => put { g with bgt := v &&& 0xFFFF00FF }
      | _ => s
  else match o with
    | 0x00 => s.modid w
    | 0x10 => (s.updLath (fun l => { l with root := bitAt w 0, tport := BitVec.ofNat 4 (w / 16) })).timePath
    | 0x20 =>
      let old := s.lath.e2e.toNat
      let r := if bits w 19 16 = 0 then bits old 19 16 else bits w 19 16
      let t := if w % 65536 = 0 then old % 65536 else w % 65536
      s.updLath (fun l => { l with e2e := BitVec.ofNat 32 (r * 65536 + t) })
    | 0x24 => s.ackW1c 0x03000024 s.lath.stat v (fun r s => s.updLath (fun l => { l with stat := r }))
    | 0x28 => if bitAt w 4 then s.setArm 0x03000028 (bits w 3 0) 2 else s
    | 0x2C => if bitAt w 4 then s.setArm 0x0300002C 0 2 else s
    | _ => s

/-- MGT_INJ_MEM names no access that would consume it: the error is met at once (detector 0x31). -/
def State.injMem (v : Word) (s : State) : State :=
  if !bitAt v.toNat 0 then s
  else if bitAt v.toNat 1 then s.standbyTakeover 0x31 2 else s.errCE (Rec.base 0x31 0 0 none none)

/-- RAS. -/
def State.wrRas (o : Nat) (v : Word) (s : State) : State :=
  let w := v.toNat
  match o with
  | 4 => { s with ras := { s.ras with logcfg := v &&& 0xFF } }
  | 8 => s.rasRst (bits w 30 28) (bits w 20 16) (bits w 10 8) (bits w 3 0)
  | _ => s

/-- PWR, CLK and THM. -/
def State.wrPwr (o : Nat) (v : Word) (s : State) : State :=
  match o with
  | 4 => s.ackW1c 0x01030004 s.pwr.fault v (fun r s => s.updPwr (fun p => { p with fault := r }))
  | 8 => s.setCap v
  | 0x8004 => s.ackW1c 0x01038004 s.pwr.thmFault v (fun r s => s.updPwr (fun p => { p with thmFault := r }))
  | _ => s.envInject o v

/-- EVC (R695, R696). -/
def State.wrEvc (o : Nat) (v : Word) (s : State) : State :=
  if o = 0xF00000 then
    let s := if bitAt v.toNat 1 then s.clearAll else s
    { s with evFreeze := bitAt v.toNat 0 }
  else s.evcSel o (bitAt v.toNat 31) (v.setWidth 8)

/-- One whole aligned word is written (R12, R14, R660, R759). -/
def State.wr (f : Bool) (a : Nat) (v : Word) (s : State) : State :=
  if !s.decodes a then s
  else if a < 0x01000000 then s.wrHif f a v
  else if a < 0x01010000 then s.wrMbx f (a - 0x01000000) v
  else if a = 0x01010008 then s.injMem v
  else if a = 0x0101000C then inj a v 0 1 s
  else if a = 0x0102000C then (if bitAt v.toNat 0 then s.newNonce else s)
  else if a = 0x01020018 then inj a v 0 1 s
  else if 0x01030000 ≤ a ∧ a < 0x01040000 then s.wrPwr (a - 0x01030000) v
  else if 0x01100000 ≤ a ∧ a < 0x01200000 then s.wrRas (a - 0x01100000) v
  else if 0x02000000 ≤ a ∧ a < 0x03000000 then s.wrEvc (a - 0x02000000) v
  else if 0x03000000 ≤ a ∧ a < 0x04000000 then s.wrLth f (a - 0x03000000) v
  else if 0x04000000 ≤ a ∧ a < 0x09000000 then s.wrPed ((a - 0x04000000) / 0x400000) (a % 0x400000) v else s

def wordOf (bs : List Byte) : Word := BitVec.ofNat 32 (leNat bs)

/-- A write of BAR0: one aligned word, or two, the lower first; every other write is discarded (R12). -/
def State.barWrite (f : Bool) (a : Nat) (bs : List Byte) (s : State) : State :=
  if a % 4 ≠ 0 then s
  else if bs.length = 4 then s.wr f a (wordOf bs)
  else if bs.length = 8 then (s.wr f a (wordOf (bs.take 4))).wr f (a + 4) (wordOf (bs.drop 4)) else s

def execRegisterWrite (f : Bool) (a : BitVec 32) (bs : List Byte) (s : State) : Outcome :=
  s.host f false (State.barWrite f a.toNat bs)

def execSycSet (f : Bool) (id : BitVec 15) (v : Word) (s : State) : Outcome :=
  if 20 * 1024 ≤ id.toNat then .next s
  else s.host f true (State.wr f (sycBlock (id.toNat / 1024) + id.toNat % 1024 * 16 + 4) v)

def execSycAdd (f : Bool) (id : BitVec 15) (v : Word) (s : State) : Outcome :=
  if 20 * 1024 ≤ id.toNat then .next s
  else s.host f true (State.wr f (sycBlock (id.toNat / 1024) + id.toNat % 1024 * 16 + 8) v)

/-- The injection registers of Tables 05.6 to 18.8 and 16.13. -/
def isInj (a : Nat) : Bool :=
  let o := a % 0x400000
  if 0x04000000 ≤ a ∧ a < 0x09000000 then
    if o < 0x80000 then [0x01C, 0x20C, 0x380, 0x400, 0x404, 0x408, 0x40C].contains (o % 0x1000)
    else if o < 0x88000 then [0x200, 0x204].contains (o % 0x1000)
    else [0x100008, 0x101008, 0x180008, 0x181008, 0x200008, 0x240010, 0x240100, 0x280000, 0x2C4004, 0x34002C, 0x390010].contains o
  else [0x38, 0x3C, 0x01000024, 0x01010008, 0x0101000C, 0x01020018, 0x03000028, 0x0300002C].contains a

/-- R671. Arm a detector's injection register. -/
def execErrorInjectionArm (f : Bool) (a : BitVec 32) (v : Word) (s : State) : Outcome :=
  if isInj a.toNat then s.host f false (State.wr f a.toNat v) else .next s

/-- The injection registers of Table 19.8. -/
def isEnv (a : Nat) : Bool :=
  [0x20, 0x24, 0x28, 0x2C, 0x4014, 0x8020, 0x8024, 0x8028, 0x802C, 0x8030, 0x8034].any (fun o => 0x01030000 + o == a)

/-- R750. -/
def execEnvInjection (f : Bool) (a : BitVec 32) (v : Word) (s : State) : Outcome :=
  if isEnv a.toNat then s.host f false (State.wr f a.toNat v) else .next s

end Sys2Proof.Machine
end

