-- ==== Sys2Proof/Machine/Mgmt.lean ====
section
/-! DEFINITION. Management: MCTP control, PLDM and SPDM (R715 to R719, R723, R725 to R728). Message layouts and the numbers
of commands and error codes belong to the outside standards; a response is logged as its items. -/
namespace Sys2Proof.Machine
open Sys2Proof

/-- Does controller firmware, or recovery, serve requests? -/
def State.serves (s : State) : Bool := s.pwr.vmgt && decide (s.mgt.phase ≠ 0)

/-- The controller's answer on SMBus. -/
def State.smbus (proto cmd code : Nat) (data : List Nat) (s : State) : State := s.send (.mgmt 2 proto cmd code data)

/-! ## MCTP control (R725) -/

/-- Place of a row in the opcode table: the number under which its response is logged. -/
def State.mctp (cmd : Nat) (g : State → Nat × List Nat × State) (s : State) : Outcome :=
  if !s.serves then .next s
  else let r := g s; .next (r.2.2.smbus 0 cmd r.1 r.2.1)

/-- The null and the broadcast endpoint ID are no assignment. -/
def execSetEndpointId (eid : BitVec 8) (s : State) : Outcome :=
  s.mctp 242 (fun s => if eid = 0 ∨ eid = 0xFF then (2, [], s)
    else (0, [eid.toNat], { s with mgt := { s.mgt with eid := eid } })) 

def execGetEndpointId (s : State) : Outcome := s.mctp 243 (fun s => (0, [s.mgt.eid.toNat], s))

/-- Message types 0, 1 and 5. -/
def mctpTypes : List Nat := [0, 1, 5]

def execGetMctpVersionSupport (ty : BitVec 8) (s : State) : Outcome :=
  s.mctp 244 (fun s => if mctpTypes.contains ty.toNat then (0, Config.mctpVersion ty.toNat, s) else (0x80, [], s))

def execGetMessageTypeSupport (s : State) : Outcome := s.mctp 245 (fun s => (0, mctpTypes, s))

/-! ## PLDM (R726 to R728) -/

def State.pldm (cmd : Nat) (g : State → Nat × List Nat × State) (s : State) : Outcome :=
  if !s.serves then .next s
  else let r := g s; .next (r.2.2.smbus 1 cmd r.1 r.2.1)

/-- Sensor IDs of Table 18.7, in its order. -/
def sensorIds : List Nat :=
  [1, 2, 3, 0x10, 0x11, 0x12] ++ rangeFrom 0x100 20 ++ rangeFrom 0x200 12 ++ [0x300, 0x301, 0x302]

/-- Numeric readings (Table 18.7). -/
def State.reading (s : State) (id : Nat) : Option Nat :=
  let p := s.pwr
  if 0x100 ≤ id ∧ id < 0x114 then some (Tbl.get 0 p.tj (id - 0x100)).toNat
  else if 0x200 ≤ id ∧ id < 0x20C then some (Tbl.get 0 p.hbm (id - 0x200)).toNat
  else match id with
    | 1 => some p.vin.toNat
    | 2 => some p.iin.toNat
    | 3 => some p.pin.toNat
    | 0x10 => some p.inlet.toNat
    | 0x11 => some p.outlet.toNat
    | 0x12 => some p.flow.toNat
    | _ => none

/-- State readings (Table 18.7). -/
def State.stateReading (s : State) (id : Nat) : Option Nat :=
  match id with
  | 0x300 => some s.pwr.capSensor
  | 0x301 => some s.pwr.state
  | 0x302 => some s.pwr.leakSensor
  | _ => none

/-- One PDR a sensor. -/
def execGetPdrRepositoryInfo (s : State) : Outcome := s.pldm 246 (fun s => (0, [sensorIds.length], s))

/-- The PDR with handle `h`, from 1 on: the sensor it describes, and the rest of the record. -/
def execGetPdr (h : Nat) (s : State) : Outcome :=
  s.pldm 247 (fun s => match sensorIds[h - 1]? with
    | some id => if h = 0 then (0x82, [], s) else (0, id :: Config.pdrBody id, s)
    | none => (0x82, [], s))

def optReading (o : Option Nat) (s : State) : Nat × List Nat × State :=
  match o with
  | some v => (0, [v], s)
  | none => (0x80, [], s)

def execGetSensorReading (id : BitVec 16) (s : State) : Outcome := s.pldm 248 (fun s => optReading (s.reading id.toNat) s)
def execGetStateSensorReadings (id : BitVec 16) (s : State) : Outcome := s.pldm 249 (fun s => optReading (s.stateReading id.toNat) s)

/-- R728, R778: the receiver is set, or unset; with one set, the held events are sent. -/
def State.setReceiver (on : Bool) (eid : BitVec 8) (s : State) : State :=
  State.sendEvents { s with mgt := { s.mgt with recv := if on then some eid.toNat else none } }

def execSetEventReceiver (on : Bool) (eid : BitVec 8) (s : State) : Outcome :=
  if !s.serves then .next s else .next ((s.smbus 1 250 0 []).setReceiver on eid)

def execGetTid (s : State) : Outcome := s.pldm 251 (fun s => (0, [Config.tid], s))
/-- Messaging control (0) and platform monitoring (2). -/
def execGetPldmTypes (s : State) : Outcome := s.pldm 252 (fun s => (0, [0, 2], s))

/-- Command numbers of the two types. -/
def pldmCommands (ty : Nat) : List Nat := if ty = 0 then [2, 3, 4, 5] else if ty = 2 then [4, 0x0A, 0x11, 0x21, 0x50, 0x51] else []

def execGetPldmCommands (ty : BitVec 8) (s : State) : Outcome :=
  s.pldm 253 (fun s => if pldmCommands ty.toNat = [] then (0x83, [], s) else (0, pldmCommands ty.toNat, s))
def execGetPldmVersion (ty : BitVec 8) (s : State) : Outcome :=
  s.pldm 254 (fun s => if pldmCommands ty.toNat = [] then (0x83, [], s) else (0, Config.pldmVersion ty.toNat, s))

/-! ## SPDM (R718, R719, R723) -/

/-- SPDM error codes. -/
def eInvalid : Nat := 0x01
def eBusy : Nat := 0x03
def eUnexpected : Nat := 0x04
def eUnspecified : Nat := 0x05
def eUnsupported : Nat := 0x07

/-- A request on a channel that reaches the responder. -/
def State.spdm (c : Fin 3) (cmd : Nat) (g : State → Nat × List Nat × State) (s : State) : Outcome :=
  let reached := c.val = 2 ∨ ((s.hif (c.val == 1)).linkUp ∧ s.pcieUp)
  if !s.serves ∨ ¬ reached then .next s
  else let r := g s; .next (r.2.2.send (.mgmt c.val 5 cmd r.1 r.2.1))

def State.spdmStep (s : State) (c : Fin 3) : Nat := Tbl.get 0 s.mgt.spdm c.val
def State.setStep (c : Fin 3) (n : Nat) (s : State) : State := { s with mgt := { s.mgt with spdm := Tbl.set 0 c.val n s.mgt.spdm } }

/-- R704: recovery serves version and capability discovery only. -/
def State.attests (s : State) : Bool := s.mgt.phase == 1

/-- What a request after negotiation answers. -/
def State.negotiated (c : Fin 3) (g : State → Nat × List Nat × State) (s : State) : Nat × List Nat × State :=
  if !s.attests then (eUnsupported, [], s) else if s.spdmStep c ≠ 3 then (eUnexpected, [], s) else g s

/-- SPDM 1.3; the negotiation starts anew. -/
def execGetVersion (c : Fin 3) (s : State) : Outcome := s.spdm c 255 (fun s => (0, [0x13], s.setStep c 1))

def execGetCapabilities (c : Fin 3) (s : State) : Outcome :=
  s.spdm c 256 (fun s => if s.spdmStep c = 0 then (eUnexpected, [], s) else (0, [Config.spdmFlags], s.setStep c 2))

def execNegotiateAlgorithms (c : Fin 3) (ok : Bool) (s : State) : Outcome :=
  s.spdm c 257 (fun s => if !s.attests then (eUnsupported, [], s)
    else if s.spdmStep c ≠ 2 then (eUnexpected, [], s)
    else if !ok then (eInvalid, [], s)
    else (0, [], s.setStep c 3))

/-- The chain of slot 0 (R717), for the alias certificate of this start-up. -/
def State.chain (s : State) : List Nat := Config.certChain (Config.sha384 s.mgt.bootMsg)

def execGetDigests (c : Fin 3) (s : State) : Outcome :=
  s.spdm c 258 (fun s => s.negotiated c (fun s => (0, Config.sha384 s.chain, s)))

def execGetCertificate (c : Fin 3) (slot : Fin 8) (off len : Nat) (s : State) : Outcome :=
  s.spdm c 259 (fun s => s.negotiated c (fun s =>
    if slot.val ≠ 0 then (eInvalid, [], s) else (0, (s.chain.drop off).take len, s)))

/-- A nonce of the true random source (R700): a draw. -/
def State.drawRandom (s : State) : BitVec 64 × State := (Config.trueRandom s.free, { s with free := s.free + 1 })

/-- A response signed by the alias key. -/
def State.signed (items : List Nat) (s : State) : List Nat :=
  items ++ Config.signature (Config.aliasKey (Config.sha384 s.mgt.bootMsg)) items

/-- Is scan open (R723)? -/
def State.scanOpen (s : State) : Bool := s.mgt.opened == 2

def execChallenge (c : Fin 3) (slot : Fin 8) (n : BitVec 256) (s : State) : Outcome :=
  s.spdm c 260 (fun s => s.negotiated c (fun s =>
    if s.scanOpen then (eUnspecified, [], s)
    else if slot.val ≠ 0 then (eInvalid, [], s)
    else let r := s.drawRandom; (0, r.2.signed ([n.toNat, r.1.toNat] ++ Config.sha384 s.chain), r.2)))

/-- The RT-8 coefficient image (R211). -/
def rt8Image : List Nat := natsOf rt8Bytes

/-- Measurements (Table 18.5). -/
def State.measurement (s : State) (i : Nat) : Option (List Nat) :=
  let m := s.mgt
  match i with
  | 1 => some (Config.sha384 Config.bootRom)
  | 2 => some (Config.sha384 (natsOf ((m.img m.slot).at_ 0 128)))
  | 3 => some (Config.sha384 (natsOf (leBytes 0x01030201 4) ++ rt8Image))
  | 4 => some (Config.sha384 m.bootFuse)
  | 5 => some (Config.sha384 m.bootCfg)
  | 6 => some (Config.sha384 [m.opened])
  | _ => none

/-- Index 0: how many there are; 0xFF: all of them. -/
def State.measured (s : State) (idx : Nat) : Option (List Nat) :=
  if idx = 0 then some [6]
  else if idx = 0xFF then some ((rangeFrom 1 6).flatMap (fun i => (s.measurement i).getD []))
  else s.measurement idx

def execGetMeasurements (c : Fin 3) (idx : BitVec 8) (signed : Bool) (n : BitVec 256) (s : State) : Outcome :=
  s.spdm c 261 (fun s => s.negotiated c (fun s =>
    if signed ∧ s.scanOpen then (eUnspecified, [], s)
    else match s.measured idx.toNat with
      | none => (eInvalid, [], s)
      | some d =>
        if signed then let r := s.drawRandom; (0, r.2.signed (d ++ [n.toNat, r.1.toNat]), r.2) else (0, d, s)))

/-- At most four sessions (R718). -/
def execKeyExchange (c : Fin 3) (s : State) : Outcome :=
  s.spdm c 262 (fun s => s.negotiated c (fun s =>
    if s.scanOpen then (eUnspecified, [], s)
    else if 4 ≤ s.mgt.sessions.length then (eBusy, [], s)
    else
      let r := s.drawRandom
      let id := s.mgt.nextSess
      let m := r.2.mgt
      (0, r.2.signed (id :: Config.exchangeKey r.1.toNat),
        { r.2 with mgt := { m with sessions := m.sessions ++ [⟨id, c.val, false⟩], nextSess := id + 1 } })))

/-- The session of a channel with an identifier. -/
def State.session (s : State) (c : Fin 3) (id : Nat) : Option Session :=
  s.mgt.sessions.find? (fun x => x.id == id && x.chan == c.val)

def State.dropSession (id : Nat) (s : State) : State :=
  { s with mgt := { s.mgt with sessions := s.mgt.sessions.filter (fun x => x.id != id) } }

/-- A handshake whose data are wrong ends its session. -/
def execFinish (c : Fin 3) (id : Nat) (ok : Bool) (s : State) : Outcome :=
  s.spdm c 263 (fun s => s.negotiated c (fun s =>
    match s.session c id with
    | none => (eInvalid, [], s)
    | some x =>
      if x.done then (eUnexpected, [], s)
      else if !ok then (eInvalid, [], s.dropSession id)
      else (0, [id], { s with mgt := { s.mgt with sessions := s.mgt.sessions.map (fun x => if x.id = id then { x with done := true } else x) } })))

/-- What a finished session answers. -/
def State.inSession (c : Fin 3) (id : Nat) (g : State → Nat × List Nat × State) (s : State) : Nat × List Nat × State :=
  s.negotiated c (fun s => match s.session c id with
    | some x => if x.done then g s else (eUnexpected, [], s)
    | none => (eInvalid, [], s))

def execEndSession (c : Fin 3) (id : Nat) (s : State) : Outcome :=
  s.spdm c 264 (fun s => s.inSession c id (fun s => (0, [id], s.dropSession id)))

def execSpdmHeartbeat (c : Fin 3) (id : Nat) (s : State) : Outcome :=
  s.spdm c 265 (fun s => s.inSession c id (fun s => (0, [id], s)))

/-- IDE keys are managed over a secured session on DOE only: two selective streams a function (R718, Table 14.1). -/
def execIdeKeyManagement (c : Fin 3) (id : Nat) (stream : Fin 2) (go : Bool) (s : State) : Outcome :=
  s.spdm c 266 (fun s =>
    if c.val = 2 then (eUnsupported, [], s)
    else s.inSession c id (fun s =>
      let k := c.val * 2 + stream.val
      let rest := s.mgt.ide.filter (· ≠ k)
      if go then
        let r := s.drawRandom
        (0, [k], { r.2 with mgt := { r.2.mgt with ide := rest ++ [k] } })
      else (0, [k], { s with mgt := { s.mgt with ide := rest } })))

end Sys2Proof.Machine
end

