-- ==== Sys2Proof/Machine/Dispatch.lean ====
section
/-! DEFINITION. One arm for each command. -/
namespace Sys2Proof.Machine
open Sys2Proof

def exec (i : Instr) (s : State) : Host.Outcome State Fault Refusal :=
  match i with
  | .nop k b slot => Sys2Proof.Machine.execNop k b slot s
  | .tmma k b td init pp fa fb mr nr km sa sb sp => Sys2Proof.Machine.execTmma k b td init pp fa fb mr nr km sa sb sp s
  | .tld k b td fmt sa => Sys2Proof.Machine.execTld k b td fmt sa s
  | .tst k b ts sa => Sys2Proof.Machine.execTst k b ts sa s
  | .tcvt k b ts tf cv mr nr sd sr => Sys2Proof.Machine.execTcvt k b ts tf cv mr nr sd sr s
  | .vadd k b vd va vb pr => Sys2Proof.Machine.execVadd k b vd va vb pr s
  | .vsub k b vd va vb pr => Sys2Proof.Machine.execVsub k b vd va vb pr s
  | .vmul k b vd va vb pr => Sys2Proof.Machine.execVmul k b vd va vb pr s
  | .vdiv k b vd va vb pr => Sys2Proof.Machine.execVdiv k b vd va vb pr s
  | .vfma k b vd va vb vc pr => Sys2Proof.Machine.execVfma k b vd va vb vc pr s
  | .vmin k b vd va vb pr => Sys2Proof.Machine.execVmin k b vd va vb pr s
  | .vmax k b vd va vb pr => Sys2Proof.Machine.execVmax k b vd va vb pr s
  | .vcmp k b pd va vb cc pr => Sys2Proof.Machine.execVcmp k b pd va vb cc pr s
  | .vsel k b vd va vb pr => Sys2Proof.Machine.execVsel k b vd va vb pr s
  | .vbcast k b vd sa => Sys2Proof.Machine.execVbcast k b vd sa s
  | .vext k b sd va lane => Sys2Proof.Machine.execVext k b sd va lane s
  | .viadd k b vd va vb pr => Sys2Proof.Machine.execViadd k b vd va vb pr s
  | .visub k b vd va vb pr => Sys2Proof.Machine.execVisub k b vd va vb pr s
  | .vimul k b vd va vb pr => Sys2Proof.Machine.execVimul k b vd va vb pr s
  | .vand k b vd va vb pr => Sys2Proof.Machine.execVand k b vd va vb pr s
  | .vor k b vd va vb pr => Sys2Proof.Machine.execVor k b vd va vb pr s
  | .vxor k b vd va vb pr => Sys2Proof.Machine.execVxor k b vd va vb pr s
  | .vshl k b vd va vb pr => Sys2Proof.Machine.execVshl k b vd va vb pr s
  | .vshr k b vd va vb pr => Sys2Proof.Machine.execVshr k b vd va vb pr s
  | .vsar k b vd va vb pr => Sys2Proof.Machine.execVsar k b vd va vb pr s
  | .vimin k b vd va vb pr => Sys2Proof.Machine.execVimin k b vd va vb pr s
  | .vimax k b vd va vb pr => Sys2Proof.Machine.execVimax k b vd va vb pr s
  | .vipsum k b vd va pr => Sys2Proof.Machine.execVipsum k b vd va pr s
  | .vcvt k b vd vs sf tf e cv sr => Sys2Proof.Machine.execVcvt k b vd vs sf tf e cv sr s
  | .vcvtr k b sf tf cv norec ss sd sr sh => Sys2Proof.Machine.execVcvtr k b sf tf cv norec ss sd sr sh s
  | .vsfu k b fn vd vs sf tf pr => Sys2Proof.Machine.execVsfu k b fn vd vs sf tf pr s
  | .vsmax k b sf tf ss sd sh => Sys2Proof.Machine.execVsmax k b sf tf ss sd sh s
  | .vnorm k b sf tf ss sd sh se gb sg => Sys2Proof.Machine.execVnorm k b sf tf ss sd sh se gb sg s
  | .sfswap k b => Sys2Proof.Machine.execSfswap k b s
  | .vboxd k b ss sd sh sp => Sys2Proof.Machine.execVboxd k b ss sd sh sp s
  | .vnms k b ss sd sh sp => Sys2Proof.Machine.execVnms k b ss sd sh sp s
  | .vrng k b vd si stream => Sys2Proof.Machine.execVrng k b vd si stream s
  | .vgetst k b vd sel slot => Sys2Proof.Machine.execVgetst k b vd sel slot s
  | .sld k b sd sa off => Sys2Proof.Machine.execSld k b sd sa off s
  | .sst k b ss sa off => Sys2Proof.Machine.execSst k b ss sa off s
  | .vld k b vd fmt sa off => Sys2Proof.Machine.execVld k b vd fmt sa off s
  | .vst k b vs fmt sa off pr => Sys2Proof.Machine.execVst k b vs fmt sa off pr s
  | .dmaq k b q sd sa => Sys2Proof.Machine.execDmaq k b q sd sa s
  | .dwait k b q sa => Sys2Proof.Machine.execDwait k b q sa s
  | .asend k b route ns ss sd cen sc => Sys2Proof.Machine.execAsend k b route ns ss sd cen sc s
  | .add k b sd sa sb => Sys2Proof.Machine.execAdd k b sd sa sb s
  | .sub k b sd sa sb => Sys2Proof.Machine.execSub k b sd sa sb s
  | .mul k b sd sa sb => Sys2Proof.Machine.execMul k b sd sa sb s
  | .and k b sd sa sb => Sys2Proof.Machine.execAnd k b sd sa sb s
  | .or k b sd sa sb => Sys2Proof.Machine.execOr k b sd sa sb s
  | .xor k b sd sa sb => Sys2Proof.Machine.execXor k b sd sa sb s
  | .shl k b sd sa sb => Sys2Proof.Machine.execShl k b sd sa sb s
  | .shr k b sd sa sb => Sys2Proof.Machine.execShr k b sd sa sb s
  | .sar k b sd sa sb => Sys2Proof.Machine.execSar k b sd sa sb s
  | .addi k b sd sa imm => Sys2Proof.Machine.execAddi k b sd sa imm s
  | .movi k b sd imm => Sys2Proof.Machine.execMovi k b sd imm s
  | .movhi k b sd imm => Sys2Proof.Machine.execMovhi k b sd imm s
  | .scmp k b pd sa sb cc => Sys2Proof.Machine.execScmp k b pd sa sb cc s
  | .pand k b pd pa pb => Sys2Proof.Machine.execPand k b pd pa pb s
  | .por k b pd pa pb => Sys2Proof.Machine.execPor k b pd pa pb s
  | .pxor k b pd pa pb => Sys2Proof.Machine.execPxor k b pd pa pb s
  | .pnot k b pd pa => Sys2Proof.Machine.execPnot k b pd pa s
  | .pmov k b pd sa => Sys2Proof.Machine.execPmov k b pd sa s
  | .smovp k b sd pa => Sys2Proof.Machine.execSmovp k b sd pa s
  | .br k b cond pn tgt => Sys2Proof.Machine.execBr k b cond pn tgt s
  | .ssig k b sc inc => Sys2Proof.Machine.execSsig k b sc inc s
  | .swait k b pd consume tmode sc st timeout => Sys2Proof.Machine.execSwait k b pd consume tmode sc st timeout s
  | .yield k b => Sys2Proof.Machine.execYield k b s
  | .halt k b => Sys2Proof.Machine.execHalt k b s
  | .fclr k b mask => Sys2Proof.Machine.execFclr k b mask s
  | .sgetst k b sd sel slot entry => Sys2Proof.Machine.execSgetst k b sd sel slot entry s
  | .sstep k b sd => Sys2Proof.Machine.execSstep k b sd s
  | .illegalEncoding k w => Sys2Proof.Machine.execIllegalEncoding k w s
  | .instructionRange k => Sys2Proof.Machine.execInstructionRange k s
  | .resultLand k => Sys2Proof.Machine.execResultLand k s
  | .syncSignalApply id => Sys2Proof.Machine.execSyncSignalApply id s
  | .syncWaitTimeout k => Sys2Proof.Machine.execSyncWaitTimeout k s
  | .armatureFrameStart => Sys2Proof.Machine.execArmatureFrameStart s
  | .asendSlotLand k => Sys2Proof.Machine.execAsendSlotLand k s
  | .refreshWindow p bank errs => Sys2Proof.Machine.execRefreshWindow p bank errs s
  | .jobStart j => Sys2Proof.Machine.execJobStart j s
  | .jobComplete j => Sys2Proof.Machine.execJobComplete j s
  | .jobStoppedComplete j => Sys2Proof.Machine.execJobStoppedComplete j s
  | .jobSuspend j => Sys2Proof.Machine.execJobSuspend j s
  | .jobResume j => Sys2Proof.Machine.execJobResume j s
  | .stopInPlace j => Sys2Proof.Machine.execStopInPlace j s
  | .jobTimeLimit j => Sys2Proof.Machine.execJobTimeLimit j s
  | .copy q seq n e => Sys2Proof.Machine.execCopy q seq n e s
  | .fill q seq n => Sys2Proof.Machine.execFill q seq n s
  | .dmaDescriptorCheck q => Sys2Proof.Machine.execDmaDescriptorCheck q s
  | .dmaEntryBegin q seq => Sys2Proof.Machine.execDmaEntryBegin q seq s
  | .dmaEntryComplete q seq => Sys2Proof.Machine.execDmaEntryComplete q seq s
  | .dmaEntryRetire q => Sys2Proof.Machine.execDmaEntryRetire q s
  | .resume k q => Sys2Proof.Machine.execResume k q s
  | .retry k q => Sys2Proof.Machine.execRetry k q s
  | .cancel k q => Sys2Proof.Machine.execCancel k q s
  | .reliefCommandStart c => Sys2Proof.Machine.execReliefCommandStart c s
  | .reliefCommandComplete c => Sys2Proof.Machine.execReliefCommandComplete c s
  | .ctxset g n => Sys2Proof.Machine.execCtxset g n s
  | .encframe g rows => Sys2Proof.Machine.execEncframe g rows s
  | .decframe g rows => Sys2Proof.Machine.execDecframe g rows s
  | .recon g rows => Sys2Proof.Machine.execRecon g rows s
  | .ctxget g => Sys2Proof.Machine.execCtxget g s
  | .pixRowBoundary g => Sys2Proof.Machine.execPixRowBoundary g s
  | .pixRtailWrite g c v => Sys2Proof.Machine.execPixRtailWrite g c v s
  | .pixResume g c => Sys2Proof.Machine.execPixResume g c s
  | .pixCancel g c => Sys2Proof.Machine.execPixCancel g c s
  | .latentEntryTake g stream => Sys2Proof.Machine.execLatentEntryTake g stream s
  | .decodeEntryTake g stream => Sys2Proof.Machine.execDecodeEntryTake g stream s
  | .tblrdyTake g stream => Sys2Proof.Machine.execTblrdyTake g stream s
  | .unitWrite g stream => Sys2Proof.Machine.execUnitWrite g stream s
  | .ectxset g => Sys2Proof.Machine.execEctxset g s
  | .etabload g => Sys2Proof.Machine.execEtabload g s
  | .decunit g => Sys2Proof.Machine.execDecunit g s
  | .aencode g => Sys2Proof.Machine.execAencode g s
  | .estream g => Sys2Proof.Machine.execEstream g s
  | .entRtailWrite g c v => Sys2Proof.Machine.execEntRtailWrite g c v s
  | .entResume g c => Sys2Proof.Machine.execEntResume g c s
  | .entCancel g c => Sys2Proof.Machine.execEntCancel g c s
  | .compress p n => Sys2Proof.Machine.execCompress p n s
  | .decompress p n => Sys2Proof.Machine.execDecompress p n s
  | .skimBlockBoundary p => Sys2Proof.Machine.execSkimBlockBoundary p s
  | .skmRtailWrite p c v => Sys2Proof.Machine.execSkmRtailWrite p c v s
  | .skmResume p c => Sys2Proof.Machine.execSkmResume p c s
  | .skmCancel p c => Sys2Proof.Machine.execSkmCancel p c s
  | .sqFetch n e => Sys2Proof.Machine.execSqFetch n e s
  | .jobrun n e => Sys2Proof.Machine.execJobrun n e s
  | .castload n => Sys2Proof.Machine.execCastload n s
  | .castdrop n => Sys2Proof.Machine.execCastdrop n s
  | .hostReadTimeout n seq => Sys2Proof.Machine.execHostReadTimeout n seq s
  | .hifSqtailWrite f n v => Sys2Proof.Machine.execHifSqtailWrite f n v s
  | .hifCqheadWrite f n v => Sys2Proof.Machine.execHifCqheadWrite f n v s
  | .hifSqcfgWrite f n v => Sys2Proof.Machine.execHifSqcfgWrite f n v s
  | .hifCqcfgWrite f n v => Sys2Proof.Machine.execHifCqcfgWrite f n v s
  | .sqResume f n => Sys2Proof.Machine.execSqResume f n s
  | .sqCancel f n => Sys2Proof.Machine.execSqCancel f n s
  | .sqStart f n => Sys2Proof.Machine.execSqStart f n s
  | .cqStart f n => Sys2Proof.Machine.execCqStart f n s
  | .msixAggregationEnd n => Sys2Proof.Machine.execMsixAggregationEnd n s
  | .hifEvcfgWrite f v => Sys2Proof.Machine.execHifEvcfgWrite f v s
  | .hifEvlostRead f => Sys2Proof.Machine.execHifEvlostRead f s
  | .bar2Read f off len => Sys2Proof.Machine.execBar2Read f off len s
  | .bar2Write f off bs ep => Sys2Proof.Machine.execBar2Write f off bs ep s
  | .bar2Resize f n => Sys2Proof.Machine.execBar2Resize f n s
  | .linkDown f => Sys2Proof.Machine.execLinkDown f s
  | .linkUp f => Sys2Proof.Machine.execLinkUp f s
  | .functionLevelReset f => Sys2Proof.Machine.execFunctionLevelReset f s
  | .perstN f high => Sys2Proof.Machine.execPerstN f high s
  | .configurationSpaceWrite f w => Sys2Proof.Machine.execConfigurationSpaceWrite f w s
  | .mbxH2mData f v => Sys2Proof.Machine.execMbxH2mData f v s
  | .send f => Sys2Proof.Machine.execSend f s
  | .clear f => Sys2Proof.Machine.execClear f s
  | .mbxM2hDataRead f => Sys2Proof.Machine.execMbxM2hDataRead f s
  | .mbxM2hAck f v => Sys2Proof.Machine.execMbxM2hAck f v s
  | .m2hMessageSend f => Sys2Proof.Machine.execM2hMessageSend f s
  | .nicheSet f => Sys2Proof.Machine.execNicheSet f s
  | .nicheClear f => Sys2Proof.Machine.execNicheClear f s
  | .slotLoad f => Sys2Proof.Machine.execSlotLoad f s
  | .takeover f => Sys2Proof.Machine.execTakeover f s
  | .fwStage f => Sys2Proof.Machine.execFwStage f s
  | .fwInstall f => Sys2Proof.Machine.execFwInstall f s
  | .fwActivate f => Sys2Proof.Machine.execFwActivate f s
  | .fwActivateTimeout => Sys2Proof.Machine.execFwActivateTimeout s
  | .mgtStatus f => Sys2Proof.Machine.execMgtStatus f s
  | .cfgSet f => Sys2Proof.Machine.execCfgSet f s
  | .dbgUnlock f => Sys2Proof.Machine.execDbgUnlock f s
  | .nonce f => Sys2Proof.Machine.execNonce f s
  | .heartbeatCheck beat => Sys2Proof.Machine.execHeartbeatCheck beat s
  | .mailboxAcknowledgement f => Sys2Proof.Machine.execMailboxAcknowledgement f s
  | .portTrain n => Sys2Proof.Machine.execPortTrain n s
  | .retrain f n => Sys2Proof.Machine.execRetrain f n s
  | .trainingComplete n ls => Sys2Proof.Machine.execTrainingComplete n ls s
  | .trainingRetry n => Sys2Proof.Machine.execTrainingRetry n s
  | .lpresN n high => Sys2Proof.Machine.execLpresN n high s
  | .linkBlockReceive n ctl data ok corrected => Sys2Proof.Machine.execLinkBlockReceive n ctl data ok corrected s
  | .linkReplayTimeout n => Sys2Proof.Machine.execLinkReplayTimeout n s
  | .alignmentMarkerSend n => Sys2Proof.Machine.execAlignmentMarkerSend n s
  | .alignmentMarkerReceive n ctl data depth => Sys2Proof.Machine.execAlignmentMarkerReceive n ctl data depth s
  | .lthModidWrite f v => Sys2Proof.Machine.execLthModidWrite f v s
  | .packetForward => Sys2Proof.Machine.execPacketForward s
  | .writePacket => Sys2Proof.Machine.execWritePacket s
  | .signalPacket => Sys2Proof.Machine.execSignalPacket s
  | .ackPacket => Sys2Proof.Machine.execAckPacket s
  | .nakPacket => Sys2Proof.Machine.execNakPacket s
  | .nackPacket => Sys2Proof.Machine.execNackPacket s
  | .discReq => Sys2Proof.Machine.execDiscReq s
  | .discRsp => Sys2Proof.Machine.execDiscRsp s
  | .barArrive => Sys2Proof.Machine.execBarArrive s
  | .barRelease => Sys2Proof.Machine.execBarRelease s
  | .barrierArriveSend j => Sys2Proof.Machine.execBarrierArriveSend j s
  | .barrierJobStart j => Sys2Proof.Machine.execBarrierJobStart j s
  | .barrierTimeout j => Sys2Proof.Machine.execBarrierTimeout j s
  | .ackTimer flow => Sys2Proof.Machine.execAckTimer flow s
  | .tqEntryTake t => Sys2Proof.Machine.execTqEntryTake t s
  | .e2eTimeout t => Sys2Proof.Machine.execE2eTimeout t s
  | .tqResume f t => Sys2Proof.Machine.execTqResume f t s
  | .tqCancel f t => Sys2Proof.Machine.execTqCancel f t s
  | .lthTqcfgWrite f t v => Sys2Proof.Machine.execLthTqcfgWrite f t v s
  | .lthRetryRead f n => Sys2Proof.Machine.execLthRetryRead f n s
  | .portDown n => Sys2Proof.Machine.execPortDown n s
  | .resetCore f k => Sys2Proof.Machine.execResetCore f k s
  | .resetCluster f c => Sys2Proof.Machine.execResetCluster f c s
  | .resetMedia f p u => Sys2Proof.Machine.execResetMedia f p u s
  | .resetPedestal f p => Sys2Proof.Machine.execResetPedestal f p s
  | .resetPort f n => Sys2Proof.Machine.execResetPort f n s
  | .resetHbm f k => Sys2Proof.Machine.execResetHbm f k s
  | .resetComplete => Sys2Proof.Machine.execResetComplete s
  | .testCore f k => Sys2Proof.Machine.execTestCore f k s
  | .testCluster f c => Sys2Proof.Machine.execTestCluster f c s
  | .testPixel f g => Sys2Proof.Machine.execTestPixel f g s
  | .testEntropy f g => Sys2Proof.Machine.execTestEntropy f g s
  | .testSkim f p => Sys2Proof.Machine.execTestSkim f p s
  | .testHbm f k => Sys2Proof.Machine.execTestHbm f k s
  | .testEnd p x => Sys2Proof.Machine.execTestEnd p x s
  | .substitute f k => Sys2Proof.Machine.execSubstitute f k s
  | .evcClear f off src => Sys2Proof.Machine.execEvcClear f off src s
  | .evcSelect f off src => Sys2Proof.Machine.execEvcSelect f off src s
  | .clearall f => Sys2Proof.Machine.execClearall f s
  | .freeze f on => Sys2Proof.Machine.execFreeze f on s
  | .sycSet f id v => Sys2Proof.Machine.execSycSet f id v s
  | .sycAdd f id v => Sys2Proof.Machine.execSycAdd f id v s
  | .sycValRead f id => Sys2Proof.Machine.execSycValRead f id s
  | .reg64LowRead f a n => Sys2Proof.Machine.execReg64LowRead f a n s
  | .registerWrite f a bs => Sys2Proof.Machine.execRegisterWrite f a bs s
  | .errorInjectionArm f a v => Sys2Proof.Machine.execErrorInjectionArm f a v s
  | .envInjection f a v => Sys2Proof.Machine.execEnvInjection f a v s
  | .modPgRise bif0 bif1 smb vin => Sys2Proof.Machine.execModPgRise bif0 bif1 smb vin s
  | .modPgFall => Sys2Proof.Machine.execModPgFall s
  | .orderlyShutdownStage done => Sys2Proof.Machine.execOrderlyShutdownStage done s
  | .modRstNLow => Sys2Proof.Machine.execModRstNLow s
  | .modRstNHigh => Sys2Proof.Machine.execModRstNHigh s
  | .startupPhase x => Sys2Proof.Machine.execStartupPhase x s
  | .vinLow vin => Sys2Proof.Machine.execVinLow vin s
  | .vinHigh vin => Sys2Proof.Machine.execVinHigh vin s
  | .railShort p r => Sys2Proof.Machine.execRailShort p r s
  | .senseOpen p r => Sys2Proof.Machine.execSenseOpen p r s
  | .refclkLoss ref => Sys2Proof.Machine.execRefclkLoss ref s
  | .droopTrip p vmem beyond => Sys2Proof.Machine.execDroopTrip p vmem beyond s
  | .droopClear edges => Sys2Proof.Machine.execDroopClear edges s
  | .gateRunLimit => Sys2Proof.Machine.execGateRunLimit s
  | .throttleSample pin vin iin => Sys2Proof.Machine.execThrottleSample pin vin iin s
  | .caplimit => Sys2Proof.Machine.execCaplimit s
  | .pwrCapWrite f v => Sys2Proof.Machine.execPwrCapWrite f v s
  | .coolantSample flow inlet outlet r0 r1 => Sys2Proof.Machine.execCoolantSample flow inlet outlet r0 r1 s
  | .thermalSample tj hbm => Sys2Proof.Machine.execThermalSample tj hbm s
  | .emergencyShutdownStage => Sys2Proof.Machine.execEmergencyShutdownStage s
  | .vinInRange vin => Sys2Proof.Machine.execVinInRange vin s
  | .vmgtOffRestart => Sys2Proof.Machine.execVmgtOffRestart s
  | .setEndpointId eid => Sys2Proof.Machine.execSetEndpointId eid s
  | .getEndpointId => Sys2Proof.Machine.execGetEndpointId s
  | .getMctpVersionSupport ty => Sys2Proof.Machine.execGetMctpVersionSupport ty s
  | .getMessageTypeSupport => Sys2Proof.Machine.execGetMessageTypeSupport s
  | .getPdrRepositoryInfo => Sys2Proof.Machine.execGetPdrRepositoryInfo s
  | .getPdr h => Sys2Proof.Machine.execGetPdr h s
  | .getSensorReading id => Sys2Proof.Machine.execGetSensorReading id s
  | .getStateSensorReadings id => Sys2Proof.Machine.execGetStateSensorReadings id s
  | .setEventReceiver on eid => Sys2Proof.Machine.execSetEventReceiver on eid s
  | .getTid => Sys2Proof.Machine.execGetTid s
  | .getPldmTypes => Sys2Proof.Machine.execGetPldmTypes s
  | .getPldmCommands ty => Sys2Proof.Machine.execGetPldmCommands ty s
  | .getPldmVersion ty => Sys2Proof.Machine.execGetPldmVersion ty s
  | .getVersion c => Sys2Proof.Machine.execGetVersion c s
  | .getCapabilities c => Sys2Proof.Machine.execGetCapabilities c s
  | .negotiateAlgorithms c ok => Sys2Proof.Machine.execNegotiateAlgorithms c ok s
  | .getDigests c => Sys2Proof.Machine.execGetDigests c s
  | .getCertificate c slot off len => Sys2Proof.Machine.execGetCertificate c slot off len s
  | .challenge c slot n => Sys2Proof.Machine.execChallenge c slot n s
  | .getMeasurements c idx signed n => Sys2Proof.Machine.execGetMeasurements c idx signed n s
  | .keyExchange c => Sys2Proof.Machine.execKeyExchange c s
  | .finish c id ok => Sys2Proof.Machine.execFinish c id ok s
  | .endSession c id => Sys2Proof.Machine.execEndSession c id s
  | .spdmHeartbeat c id => Sys2Proof.Machine.execSpdmHeartbeat c id s
  | .ideKeyManagement c id stream go => Sys2Proof.Machine.execIdeKeyManagement c id stream go s

end Sys2Proof.Machine
end

