-- ==== Sys2Proof/WellFormed.lean ====
section
/-! DEFINITION. Which commands are well formed: what the types of the operands leave open. -/
namespace Sys2Proof

/-- Field VC belongs to VFMA; it is a reserved field of the other FA32 instructions (Table 07.5). -/
def VSlot.wf : VSlot → Bool
  | .nop => true
  | .farith op _ _ _ vc _ => decide (op = .fma) || decide (vc = 0)
  | .cmp _ _ _ _ _ => true
  | .sel _ _ _ _ => true
  | .bcast _ _ => true
  | .ext _ _ _ => true
  | .iarith _ _ _ _ _ => true
  | .ipsum _ _ _ => true
  | .cvt _ _ _ _ _ _ _ => true
  | .cvtr _ _ _ _ _ _ _ _ => true
  | .sfu _ _ _ _ _ _ => true
  | .smax _ _ _ _ _ => true
  | .norm _ _ _ _ _ _ _ _ => true
  | .sfswap => true
  | .boxd _ _ _ _ => true
  | .nms _ _ _ _ => true
  | .rng _ _ _ => true
  | .getst _ _ _ => true

/-- A bundle whose reserved fields are 0 (R283). -/
def Bundle.wf (b : Bundle) : Bool := b.v.wf

/-- A sync counter that exists: 1,024 on each of 20 pedestals (R227). -/
def idOk (id : BitVec 15) : Bool := decide (id.toNat < 20 * 1024)

/-- Bytes of one read or write. -/
def lenOk (n : Nat) : Bool := decide (1 ≤ n) && decide (n ≤ 4096)

/-- Data bytes of a link block that are listed (R605). -/
def blockOk (bs : List Byte) : Bool := decide (bs.length ≤ 640)

/-- Failing rows lie in a memory that Table 17.3 or 17.1 names. -/
def TestFind.wf (x : TestFind) : Bool := decide (x.rows.length ≤ 4096)

/-- The facts of one end of a phase name each port once. -/
def PhaseEnd.wf (x : PhaseEnd) : Bool := decide (x.ports.length ≤ 2) && x.finds.all (fun t => t.2.2.wf)

/-- The operands are such as the row admits. -/
def Instr.wf (i : Instr) : Bool :=
  match i with
  | .nop _ b _ => b.wf
  | .tmma _ b _ _ _ _ _ _ _ _ _ _ _ => b.wf
  | .tld _ b _ _ _ => b.wf
  | .tst _ b _ _ => b.wf
  | .tcvt _ b _ _ _ _ _ _ _ => b.wf
  | .vadd _ b _ _ _ _ => b.wf
  | .vsub _ b _ _ _ _ => b.wf
  | .vmul _ b _ _ _ _ => b.wf
  | .vdiv _ b _ _ _ _ => b.wf
  | .vfma _ b _ _ _ _ _ => b.wf
  | .vmin _ b _ _ _ _ => b.wf
  | .vmax _ b _ _ _ _ => b.wf
  | .vcmp _ b _ _ _ _ _ => b.wf
  | .vsel _ b _ _ _ _ => b.wf
  | .vbcast _ b _ _ => b.wf
  | .vext _ b _ _ _ => b.wf
  | .viadd _ b _ _ _ _ => b.wf
  | .visub _ b _ _ _ _ => b.wf
  | .vimul _ b _ _ _ _ => b.wf
  | .vand _ b _ _ _ _ => b.wf
  | .vor _ b _ _ _ _ => b.wf
  | .vxor _ b _ _ _ _ => b.wf
  | .vshl _ b _ _ _ _ => b.wf
  | .vshr _ b _ _ _ _ => b.wf
  | .vsar _ b _ _ _ _ => b.wf
  | .vimin _ b _ _ _ _ => b.wf
  | .vimax _ b _ _ _ _ => b.wf
  | .vipsum _ b _ _ _ => b.wf
  | .vcvt _ b _ _ _ _ _ _ _ => b.wf
  | .vcvtr _ b _ _ _ _ _ _ _ _ => b.wf
  | .vsfu _ b _ _ _ _ _ _ => b.wf
  | .vsmax _ b _ _ _ _ _ => b.wf
  | .vnorm _ b _ _ _ _ _ _ _ _ => b.wf
  | .sfswap _ b => b.wf
  | .vboxd _ b _ _ _ _ => b.wf
  | .vnms _ b _ _ _ _ => b.wf
  | .vrng _ b _ _ _ => b.wf
  | .vgetst _ b _ _ _ => b.wf
  | .sld _ b _ _ _ => b.wf
  | .sst _ b _ _ _ => b.wf
  | .vld _ b _ _ _ _ => b.wf
  | .vst _ b _ _ _ _ _ => b.wf
  | .dmaq _ b _ _ _ => b.wf
  | .dwait _ b _ _ => b.wf
  | .asend _ b _ _ _ _ _ _ => b.wf
  | .add _ b _ _ _ => b.wf
  | .sub _ b _ _ _ => b.wf
  | .mul _ b _ _ _ => b.wf
  | .and _ b _ _ _ => b.wf
  | .or _ b _ _ _ => b.wf
  | .xor _ b _ _ _ => b.wf
  | .shl _ b _ _ _ => b.wf
  | .shr _ b _ _ _ => b.wf
  | .sar _ b _ _ _ => b.wf
  | .addi _ b _ _ _ => b.wf
  | .movi _ b _ _ => b.wf
  | .movhi _ b _ _ => b.wf
  | .scmp _ b _ _ _ _ => b.wf
  | .pand _ b _ _ _ => b.wf
  | .por _ b _ _ _ => b.wf
  | .pxor _ b _ _ _ => b.wf
  | .pnot _ b _ _ => b.wf
  | .pmov _ b _ _ => b.wf
  | .smovp _ b _ _ => b.wf
  | .br _ b _ _ _ => b.wf
  | .ssig _ b _ _ => b.wf
  | .swait _ b _ _ _ _ _ _ => b.wf
  | .yield _ b => b.wf
  | .halt _ b => b.wf
  | .fclr _ b _ => b.wf
  | .sgetst _ b _ _ _ _ => b.wf
  | .sstep _ b _ => b.wf
  | .illegalEncoding _ _ => true
  | .instructionRange _ => true
  | .resultLand _ => true
  | .syncSignalApply id => idOk id
  | .syncWaitTimeout _ => true
  | .armatureFrameStart => true
  | .asendSlotLand _ => true
  | .refreshWindow _ _ errs => errs.all (fun e => decide (e.1.toNat < 0xA0000000))
  | .jobStart _ => true
  | .jobComplete _ => true
  | .jobStoppedComplete _ => true
  | .jobSuspend _ => true
  | .jobResume _ => true
  | .stopInPlace _ => true
  | .jobTimeLimit _ => true
  | .copy _ _ _ _ => true
  | .fill _ _ _ => true
  | .dmaDescriptorCheck _ => true
  | .dmaEntryBegin _ _ => true
  | .dmaEntryComplete _ _ => true
  | .dmaEntryRetire _ => true
  | .resume _ _ => true
  | .retry _ _ => true
  | .cancel _ _ => true
  | .reliefCommandStart _ => true
  | .reliefCommandComplete _ => true
  | .ctxset _ _ => true
  | .encframe _ _ => true
  | .decframe _ _ => true
  | .recon _ _ => true
  | .ctxget _ => true
  | .pixRowBoundary _ => true
  | .pixRtailWrite _ _ _ => true
  | .pixResume _ _ => true
  | .pixCancel _ _ => true
  | .latentEntryTake _ _ => true
  | .decodeEntryTake _ _ => true
  | .tblrdyTake _ _ => true
  | .unitWrite _ _ => true
  | .ectxset _ => true
  | .etabload _ => true
  | .decunit _ => true
  | .aencode _ => true
  | .estream _ => true
  | .entRtailWrite _ _ _ => true
  | .entResume _ _ => true
  | .entCancel _ _ => true
  | .compress _ _ => true
  | .decompress _ _ => true
  | .skimBlockBoundary _ => true
  | .skmRtailWrite _ _ _ => true
  | .skmResume _ _ => true
  | .skmCancel _ _ => true
  | .sqFetch _ _ => true
  | .jobrun _ _ => true
  | .castload _ => true
  | .castdrop _ => true
  | .hostReadTimeout _ _ => true
  | .hifSqtailWrite _ _ _ => true
  | .hifCqheadWrite _ _ _ => true
  | .hifSqcfgWrite _ _ _ => true
  | .hifCqcfgWrite _ _ _ => true
  | .sqResume _ _ => true
  | .sqCancel _ _ => true
  | .sqStart _ _ => true
  | .cqStart _ _ => true
  | .msixAggregationEnd _ => true
  | .hifEvcfgWrite _ _ => true
  | .hifEvlostRead _ => true
  | .bar2Read _ _ len => lenOk len
  | .bar2Write _ _ bs _ => lenOk bs.length
  | .bar2Resize _ _ => true
  | .linkDown _ => true
  | .linkUp _ => true
  | .functionLevelReset _ => true
  | .perstN _ _ => true
  | .configurationSpaceWrite _ _ => true
  | .mbxH2mData _ _ => true
  | .send _ => true
  | .clear _ => true
  | .mbxM2hDataRead _ => true
  | .mbxM2hAck _ _ => true
  | .m2hMessageSend _ => true
  | .nicheSet _ => true
  | .nicheClear _ => true
  | .slotLoad _ => true
  | .takeover _ => true
  | .fwStage _ => true
  | .fwInstall _ => true
  | .fwActivate _ => true
  | .fwActivateTimeout => true
  | .mgtStatus _ => true
  | .cfgSet _ => true
  | .dbgUnlock _ => true
  | .nonce _ => true
  | .heartbeatCheck _ => true
  | .mailboxAcknowledgement _ => true
  | .portTrain _ => true
  | .retrain _ _ => true
  | .trainingComplete _ ls => decide (ls.length ≤ 8)
  | .trainingRetry _ => true
  | .lpresN _ _ => true
  | .linkBlockReceive _ _ data _ _ => blockOk data
  | .linkReplayTimeout _ => true
  | .alignmentMarkerSend _ => true
  | .alignmentMarkerReceive _ _ data _ => blockOk data
  | .lthModidWrite _ _ => true
  | .packetForward => true
  | .writePacket => true
  | .signalPacket => true
  | .ackPacket => true
  | .nakPacket => true
  | .nackPacket => true
  | .discReq => true
  | .discRsp => true
  | .barArrive => true
  | .barRelease => true
  | .barrierArriveSend _ => true
  | .barrierJobStart _ => true
  | .barrierTimeout _ => true
  | .ackTimer _ => true
  | .tqEntryTake _ => true
  | .e2eTimeout _ => true
  | .tqResume _ _ => true
  | .tqCancel _ _ => true
  | .lthTqcfgWrite _ _ _ => true
  | .lthRetryRead _ _ => true
  | .portDown _ => true
  | .resetCore _ _ => true
  | .resetCluster _ _ => true
  | .resetMedia _ _ _ => true
  | .resetPedestal _ _ => true
  | .resetPort _ _ => true
  | .resetHbm _ _ => true
  | .resetComplete => true
  | .testCore _ _ => true
  | .testCluster _ _ => true
  | .testPixel _ _ => true
  | .testEntropy _ _ => true
  | .testSkim _ _ => true
  | .testHbm _ _ => true
  | .testEnd _ x => x.wf
  | .substitute _ _ => true
  | .evcClear _ off _ => decide (off.toNat % 16 = 0)
  | .evcSelect _ off _ => decide (off.toNat % 16 = 0)
  | .clearall _ => true
  | .freeze _ _ => true
  | .sycSet _ id _ => idOk id
  | .sycAdd _ id _ => idOk id
  | .sycValRead _ id => idOk id
  | .reg64LowRead _ _ n => lenOk n
  | .registerWrite _ _ bs => lenOk bs.length
  | .errorInjectionArm _ _ _ => true
  | .envInjection _ _ _ => true
  | .modPgRise _ _ _ _ => true
  | .modPgFall => true
  | .orderlyShutdownStage _ => true
  | .modRstNLow => true
  | .modRstNHigh => true
  | .startupPhase x => x.wf
  | .vinLow _ => true
  | .vinHigh _ => true
  | .railShort _ _ => true
  | .senseOpen _ _ => true
  | .refclkLoss _ => true
  | .droopTrip _ _ _ => true
  | .droopClear _ => true
  | .gateRunLimit => true
  | .throttleSample _ _ _ => true
  | .caplimit => true
  | .pwrCapWrite _ _ => true
  | .coolantSample _ _ _ _ _ => true
  | .thermalSample tj hbm => decide (tj.length ≤ 20) && decide (hbm.length ≤ 12)
  | .emergencyShutdownStage => true
  | .vinInRange _ => true
  | .vmgtOffRestart => true
  | .setEndpointId _ => true
  | .getEndpointId => true
  | .getMctpVersionSupport _ => true
  | .getMessageTypeSupport => true
  | .getPdrRepositoryInfo => true
  | .getPdr h => decide (1 ≤ h)
  | .getSensorReading _ => true
  | .getStateSensorReadings _ => true
  | .setEventReceiver _ _ => true
  | .getTid => true
  | .getPldmTypes => true
  | .getPldmCommands _ => true
  | .getPldmVersion _ => true
  | .getVersion _ => true
  | .getCapabilities _ => true
  | .negotiateAlgorithms _ _ => true
  | .getDigests _ => true
  | .getCertificate _ _ _ _ => true
  | .challenge _ _ _ => true
  | .getMeasurements _ _ _ _ => true
  | .keyExchange _ => true
  | .finish _ _ _ => true
  | .endSession _ _ => true
  | .spdmHeartbeat _ _ => true
  | .ideKeyManagement _ _ _ _ => true

/-- The core on which a slot command issues, and the whole bundle: the rest of it, and the slot that the command names. -/
def Instr.issues (i : Instr) : Option (CoreId × Bundle) :=
  match i with
  | .nop k b .t => some (k, { b with t := .nop })
  | .nop k b .v => some (k, { b with v := .nop })
  | .nop k b .m => some (k, { b with m := .nop })
  | .nop k b .c => some (k, { b with c := .nop })
  | .tmma k b td init pp fa fb mr nr km sa sb sp => some (k, { b with t := .tmma td init pp fa fb mr nr km sa sb sp })
  | .tld k b td fmt sa => some (k, { b with t := .tld td fmt sa })
  | .tst k b ts sa => some (k, { b with t := .tst ts sa })
  | .tcvt k b ts tf cv mr nr sd sr => some (k, { b with t := .tcvt ts tf cv mr nr sd sr })
  | .vadd k b vd va vb pr => some (k, { b with v := .farith .add vd va vb 0 pr })
  | .vsub k b vd va vb pr => some (k, { b with v := .farith .sub vd va vb 0 pr })
  | .vmul k b vd va vb pr => some (k, { b with v := .farith .mul vd va vb 0 pr })
  | .vdiv k b vd va vb pr => some (k, { b with v := .farith .div vd va vb 0 pr })
  | .vfma k b vd va vb vc pr => some (k, { b with v := .farith .fma vd va vb vc pr })
  | .vmin k b vd va vb pr => some (k, { b with v := .farith .min vd va vb 0 pr })
  | .vmax k b vd va vb pr => some (k, { b with v := .farith .max vd va vb 0 pr })
  | .vcmp k b pd va vb cc pr => some (k, { b with v := .cmp pd va vb cc pr })
  | .vsel k b vd va vb pr => some (k, { b with v := .sel vd va vb pr })
  | .vbcast k b vd sa => some (k, { b with v := .bcast vd sa })
  | .vext k b sd va lane => some (k, { b with v := .ext sd va lane })
  | .viadd k b vd va vb pr => some (k, { b with v := .iarith .add vd va vb pr })
  | .visub k b vd va vb pr => some (k, { b with v := .iarith .sub vd va vb pr })
  | .vimul k b vd va vb pr => some (k, { b with v := .iarith .mul vd va vb pr })
  | .vand k b vd va vb pr => some (k, { b with v := .iarith .and vd va vb pr })
  | .vor k b vd va vb pr => some (k, { b with v := .iarith .or vd va vb pr })
  | .vxor k b vd va vb pr => some (k, { b with v := .iarith .xor vd va vb pr })
  | .vshl k b vd va vb pr => some (k, { b with v := .iarith .shl vd va vb pr })
  | .vshr k b vd va vb pr => some (k, { b with v := .iarith .shr vd va vb pr })
  | .vsar k b vd va vb pr => some (k, { b with v := .iarith .sar vd va vb pr })
  | .vimin k b vd va vb pr => some (k, { b with v := .iarith .min vd va vb pr })
  | .vimax k b vd va vb pr => some (k, { b with v := .iarith .max vd va vb pr })
  | .vipsum k b vd va pr => some (k, { b with v := .ipsum vd va pr })
  | .vcvt k b vd vs sf tf e cv sr => some (k, { b with v := .cvt vd vs sf tf e cv sr })
  | .vcvtr k b sf tf cv norec ss sd sr sh => some (k, { b with v := .cvtr sf tf cv norec ss sd sr sh })
  | .vsfu k b fn vd vs sf tf pr => some (k, { b with v := .sfu fn vd vs sf tf pr })
  | .vsmax k b sf tf ss sd sh => some (k, { b with v := .smax sf tf ss sd sh })
  | .vnorm k b sf tf ss sd sh se gb sg => some (k, { b with v := .norm sf tf ss sd sh se gb sg })
  | .sfswap k b => some (k, { b with v := .sfswap })
  | .vboxd k b ss sd sh sp => some (k, { b with v := .boxd ss sd sh sp })
  | .vnms k b ss sd sh sp => some (k, { b with v := .nms ss sd sh sp })
  | .vrng k b vd si stream => some (k, { b with v := .rng vd si stream })
  | .vgetst k b vd sel slot => some (k, { b with v := .getst vd sel slot })
  | .sld k b sd sa off => some (k, { b with m := .sld sd sa off })
  | .sst k b ss sa off => some (k, { b with m := .sst ss sa off })
  | .vld k b vd fmt sa off => some (k, { b with m := .vld vd fmt sa off })
  | .vst k b vs fmt sa off pr => some (k, { b with m := .vst vs fmt sa off pr })
  | .dmaq k b q sd sa => some (k, { b with m := .dmaq q sd sa })
  | .dwait k b q sa => some (k, { b with m := .dwait q sa })
  | .asend k b route ns ss sd cen sc => some (k, { b with m := .asend route ns ss sd cen sc })
  | .add k b sd sa sb => some (k, { b with c := .alu .add sd sa sb })
  | .sub k b sd sa sb => some (k, { b with c := .alu .sub sd sa sb })
  | .mul k b sd sa sb => some (k, { b with c := .alu .mul sd sa sb })
  | .and k b sd sa sb => some (k, { b with c := .alu .and sd sa sb })
  | .or k b sd sa sb => some (k, { b with c := .alu .or sd sa sb })
  | .xor k b sd sa sb => some (k, { b with c := .alu .xor sd sa sb })
  | .shl k b sd sa sb => some (k, { b with c := .alu .shl sd sa sb })
  | .shr k b sd sa sb => some (k, { b with c := .alu .shr sd sa sb })
  | .sar k b sd sa sb => some (k, { b with c := .alu .sar sd sa sb })
  | .addi k b sd sa imm => some (k, { b with c := .addi sd sa imm })
  | .movi k b sd imm => some (k, { b with c := .movi sd imm })
  | .movhi k b sd imm => some (k, { b with c := .movhi sd imm })
  | .scmp k b pd sa sb cc => some (k, { b with c := .scmp pd sa sb cc })
  | .pand k b pd pa pb => some (k, { b with c := .palu .and pd pa pb })
  | .por k b pd pa pb => some (k, { b with c := .palu .or pd pa pb })
  | .pxor k b pd pa pb => some (k, { b with c := .palu .xor pd pa pb })
  | .pnot k b pd pa => some (k, { b with c := .pnot pd pa })
  | .pmov k b pd sa => some (k, { b with c := .pmov pd sa })
  | .smovp k b sd pa => some (k, { b with c := .smovp sd pa })
  | .br k b cond pn tgt => some (k, { b with c := .br cond pn tgt })
  | .ssig k b sc inc => some (k, { b with c := .ssig sc inc })
  | .swait k b pd consume tmode sc st timeout => some (k, { b with c := .swait pd consume tmode sc st timeout })
  | .yield k b => some (k, { b with c := .yield })
  | .halt k b => some (k, { b with c := .halt })
  | .fclr k b mask => some (k, { b with c := .fclr mask })
  | .sgetst k b sd sel slot entry => some (k, { b with c := .sgetst sd sel slot entry })
  | .sstep k b sd => some (k, { b with c := .sstep sd })
  | .illegalEncoding _ _ => none
  | .instructionRange _ => none
  | .resultLand _ => none
  | .syncSignalApply _ => none
  | .syncWaitTimeout _ => none
  | .armatureFrameStart => none
  | .asendSlotLand _ => none
  | .refreshWindow _ _ _ => none
  | .jobStart _ => none
  | .jobComplete _ => none
  | .jobStoppedComplete _ => none
  | .jobSuspend _ => none
  | .jobResume _ => none
  | .stopInPlace _ => none
  | .jobTimeLimit _ => none
  | .copy _ _ _ _ => none
  | .fill _ _ _ => none
  | .dmaDescriptorCheck _ => none
  | .dmaEntryBegin _ _ => none
  | .dmaEntryComplete _ _ => none
  | .dmaEntryRetire _ => none
  | .resume _ _ => none
  | .retry _ _ => none
  | .cancel _ _ => none
  | .reliefCommandStart _ => none
  | .reliefCommandComplete _ => none
  | .ctxset _ _ => none
  | .encframe _ _ => none
  | .decframe _ _ => none
  | .recon _ _ => none
  | .ctxget _ => none
  | .pixRowBoundary _ => none
  | .pixRtailWrite _ _ _ => none
  | .pixResume _ _ => none
  | .pixCancel _ _ => none
  | .latentEntryTake _ _ => none
  | .decodeEntryTake _ _ => none
  | .tblrdyTake _ _ => none
  | .unitWrite _ _ => none
  | .ectxset _ => none
  | .etabload _ => none
  | .decunit _ => none
  | .aencode _ => none
  | .estream _ => none
  | .entRtailWrite _ _ _ => none
  | .entResume _ _ => none
  | .entCancel _ _ => none
  | .compress _ _ => none
  | .decompress _ _ => none
  | .skimBlockBoundary _ => none
  | .skmRtailWrite _ _ _ => none
  | .skmResume _ _ => none
  | .skmCancel _ _ => none
  | .sqFetch _ _ => none
  | .jobrun _ _ => none
  | .castload _ => none
  | .castdrop _ => none
  | .hostReadTimeout _ _ => none
  | .hifSqtailWrite _ _ _ => none
  | .hifCqheadWrite _ _ _ => none
  | .hifSqcfgWrite _ _ _ => none
  | .hifCqcfgWrite _ _ _ => none
  | .sqResume _ _ => none
  | .sqCancel _ _ => none
  | .sqStart _ _ => none
  | .cqStart _ _ => none
  | .msixAggregationEnd _ => none
  | .hifEvcfgWrite _ _ => none
  | .hifEvlostRead _ => none
  | .bar2Read _ _ _ => none
  | .bar2Write _ _ _ _ => none
  | .bar2Resize _ _ => none
  | .linkDown _ => none
  | .linkUp _ => none
  | .functionLevelReset _ => none
  | .perstN _ _ => none
  | .configurationSpaceWrite _ _ => none
  | .mbxH2mData _ _ => none
  | .send _ => none
  | .clear _ => none
  | .mbxM2hDataRead _ => none
  | .mbxM2hAck _ _ => none
  | .m2hMessageSend _ => none
  | .nicheSet _ => none
  | .nicheClear _ => none
  | .slotLoad _ => none
  | .takeover _ => none
  | .fwStage _ => none
  | .fwInstall _ => none
  | .fwActivate _ => none
  | .fwActivateTimeout => none
  | .mgtStatus _ => none
  | .cfgSet _ => none
  | .dbgUnlock _ => none
  | .nonce _ => none
  | .heartbeatCheck _ => none
  | .mailboxAcknowledgement _ => none
  | .portTrain _ => none
  | .retrain _ _ => none
  | .trainingComplete _ _ => none
  | .trainingRetry _ => none
  | .lpresN _ _ => none
  | .linkBlockReceive _ _ _ _ _ => none
  | .linkReplayTimeout _ => none
  | .alignmentMarkerSend _ => none
  | .alignmentMarkerReceive _ _ _ _ => none
  | .lthModidWrite _ _ => none
  | .packetForward => none
  | .writePacket => none
  | .signalPacket => none
  | .ackPacket => none
  | .nakPacket => none
  | .nackPacket => none
  | .discReq => none
  | .discRsp => none
  | .barArrive => none
  | .barRelease => none
  | .barrierArriveSend _ => none
  | .barrierJobStart _ => none
  | .barrierTimeout _ => none
  | .ackTimer _ => none
  | .tqEntryTake _ => none
  | .e2eTimeout _ => none
  | .tqResume _ _ => none
  | .tqCancel _ _ => none
  | .lthTqcfgWrite _ _ _ => none
  | .lthRetryRead _ _ => none
  | .portDown _ => none
  | .resetCore _ _ => none
  | .resetCluster _ _ => none
  | .resetMedia _ _ _ => none
  | .resetPedestal _ _ => none
  | .resetPort _ _ => none
  | .resetHbm _ _ => none
  | .resetComplete => none
  | .testCore _ _ => none
  | .testCluster _ _ => none
  | .testPixel _ _ => none
  | .testEntropy _ _ => none
  | .testSkim _ _ => none
  | .testHbm _ _ => none
  | .testEnd _ _ => none
  | .substitute _ _ => none
  | .evcClear _ _ _ => none
  | .evcSelect _ _ _ => none
  | .clearall _ => none
  | .freeze _ _ => none
  | .sycSet _ _ _ => none
  | .sycAdd _ _ _ => none
  | .sycValRead _ _ => none
  | .reg64LowRead _ _ _ => none
  | .registerWrite _ _ _ => none
  | .errorInjectionArm _ _ _ => none
  | .envInjection _ _ _ => none
  | .modPgRise _ _ _ _ => none
  | .modPgFall => none
  | .orderlyShutdownStage _ => none
  | .modRstNLow => none
  | .modRstNHigh => none
  | .startupPhase _ => none
  | .vinLow _ => none
  | .vinHigh _ => none
  | .railShort _ _ => none
  | .senseOpen _ _ => none
  | .refclkLoss _ => none
  | .droopTrip _ _ _ => none
  | .droopClear _ => none
  | .gateRunLimit => none
  | .throttleSample _ _ _ => none
  | .caplimit => none
  | .pwrCapWrite _ _ => none
  | .coolantSample _ _ _ _ _ => none
  | .thermalSample _ _ => none
  | .emergencyShutdownStage => none
  | .vinInRange _ => none
  | .vmgtOffRestart => none
  | .setEndpointId _ => none
  | .getEndpointId => none
  | .getMctpVersionSupport _ => none
  | .getMessageTypeSupport => none
  | .getPdrRepositoryInfo => none
  | .getPdr _ => none
  | .getSensorReading _ => none
  | .getStateSensorReadings _ => none
  | .setEventReceiver _ _ => none
  | .getTid => none
  | .getPldmTypes => none
  | .getPldmCommands _ => none
  | .getPldmVersion _ => none
  | .getVersion _ => none
  | .getCapabilities _ => none
  | .negotiateAlgorithms _ _ => none
  | .getDigests _ => none
  | .getCertificate _ _ _ _ => none
  | .challenge _ _ _ => none
  | .getMeasurements _ _ _ _ => none
  | .keyExchange _ => none
  | .finish _ _ _ => none
  | .endSession _ _ => none
  | .spdmHeartbeat _ _ => none
  | .ideKeyManagement _ _ _ _ => none

end Sys2Proof
end

