-- ==== Sys2Proof/Safety.lean ====
section
/-! DEFINITION. What counts as a sound state, and the terms in which the statements speak of commands that complete. -/
namespace Sys2Proof.Machine
open Sys2Proof

/-! ## Sound states -/

/-- Storage of a core in canonical form. -/
def Core.wf (c : Core) : Bool :=
  c.cstore.wf && c.istore.wf && Tbl.wf 0 c.sreg && Tbl.wf 0 c.preg && Tbl.wf 0 c.vreg && Tbl.wf 0 c.tile

/-- Every memory of the module and its hosts in canonical form: addresses strictly rising, no byte listed that reads as an
unlisted one. -/
def State.memWf (s : State) : Bool :=
  s.mpa.wf && s.hif0.mem.wf && s.hif1.mem.wf && s.ras.ring.wf && s.mgt.faultMem.wf && s.cores.all (fun kv => kv.2.wf) &&
  s.clus.all (fun kv => kv.2.store.wf)

/-- The tables of units in canonical form. -/
def State.tblWf (s : State) : Bool :=
  Tbl.wf Core.reset s.cores && Tbl.wf Cluster.reset s.clus && Tbl.wf Ped.reset s.peds && Tbl.wf Niche.reset s.niches &&
  Tbl.wf none s.casts && Tbl.wf none s.jobs && Tbl.wf Sq.reset s.sqs && Tbl.wf Cq.reset s.cqs && Tbl.wf false s.poison &&
  Tbl.wf 0 s.arms && Tbl.wf EvCtr.reset s.evc && Tbl.wf 0 s.fresh

/-- What a suspended job keeps of a core in canonical form (R255 to R257). -/
def SavedCore.wf (v : SavedCore) : Bool := v.istore.wf && v.cstore.wf && v.ctx.all (·.wf)

/-- The same for all its cores and clusters. -/
def Job.wf (j : Job) : Bool := j.saved.all (·.wf) && j.savedClus.all (fun v => v.store.wf)

/-- Every job's saved context in canonical form. -/
def State.savedWf (s : State) : Bool :=
  s.jobs.all (fun kv => match kv.2 with
    | some j => j.wf
    | none => true)

/-- A sound state: equal contents are equal data. -/
def State.wf (s : State) : Bool := s.memWf && s.tblWf && s.savedWf

/-! ## Completion -/

/-- The command completes: `exec` answers a next state, and `post` holds of it. -/
def Completes (i : Instr) (s : State) (post : State → Prop) : Prop := ∃ t, exec i s = .next t ∧ post t

/-- No error injection is armed anywhere (R671). -/
def State.unarmed (s : State) : Bool := s.arms.isEmpty

/-- Nothing is on its way or due: no result in flight, no slot of an ASEND, no signal, no timeout. -/
def State.calm (s : State) : Bool := s.keys.isEmpty

/-- One event alone is due. -/
def State.oneDue (s : State) : Bool := s.keys.length == 1

/-- Are the bytes of a run all in plinth memory or HBM3? -/
def State.inDram (s : State) (a n : Nat) : Bool :=
  (rangeFrom a n).all (fun x => (s.loc x).carriesPoison)

/-! ## Issue -/

/-- The state in the cycle in which core `key` next issues: time has moved on to it. -/
def State.atIssue (s : State) (key : Nat) : State := s.advance (s.issueAt key)

/-- Core `key` in that cycle. -/
def State.coreAt (s : State) (key : Nat) : Core := (s.atIssue key).core key

/-- Bundle `b` is the next of core `key`, and nothing keeps it from issuing with all its effects: the root is not gated (R371),
a job runs, no wait stands (R231), the bundle's place is supplied and its line complete (R214, R218), no hold of Table 06.1, no suspension (R252), no fault or breach of the
timing contract in any slot (R220, R222), no injection armed. The answer is the core's job. -/
def State.issuable (s : State) (key : Nat) (b : Bundle) : Option Job :=
  let t := s.issueAt key
  let a := s.atIssue key
  let c := a.core key
  match s.running key, a.running key with
  | some _, some (_, jb) =>
    if !s.gated && (s.core key).wait.isNone && c.pc < 4096 && !a.linePending key (c.pc / 16) && Tbl.get false c.supplied c.pc && c.wait.isNone && a.unarmed &&
        !(b.c == .yield && jb.stopIdx == some ((c.ycount.toNat + 1) % 65536)) && (a.holdBefore key b).isNone &&
        (a.faultsOf key t [] (a.plans key jb.niche jb.seed (c.step t) b)).1.isEmpty
    then some jb else none
  | _, _ => none

/-- A slot command issues bundle `b` whole, and of the state after it `post` holds, given the core in the issue cycle, that
cycle, and the job. -/
def Issues (i : Instr) (k : CoreId) (b : Bundle) (s : State) (post : Core → Nat → Job → State → Prop) : Prop :=
  ∀ jb, s.issuable (coreKey k) b = some jb →
    Completes i s (post (s.coreAt (coreKey k)) (s.issueAt (coreKey k)) jb)

/-- A result of slot `slot` of core `k`, issued in cycle `t`, is in flight: it lands `lat` cycles later. -/
def State.willLand (u : State) (k : CoreId) (t slot lat : Nat) (wr : List Wr) (fl : AFlags) : Prop :=
  (⟨t + lat, slot, wr, fl⟩ : Flight) ∈ (u.core (coreKey k)).flights

/-- The same for lanes of a vector register: lane, value, flags. -/
def State.lanesInFlight (u : State) (k : CoreId) (t lat : Nat) (vd : BitVec 5) (ls : List (Nat × Nat × AFlags)) : Prop :=
  u.willLand k t 1 lat [.vreg vd.toNat (ls.map (fun l => (l.1, BitVec.ofNat 32 l.2.1)))]
    (ls.foldl (fun f l => f ||| l.2.2) Flag.none)

/-- The same for a scalar or predicate result of the C slot. -/
def State.scalarInFlight (u : State) (k : CoreId) (t lat : Nat) (sd : BitVec 5) (v : BitVec 64) : Prop :=
  u.willLand k t 3 lat [.sreg sd.toNat v] Flag.none
def State.predInFlight (u : State) (k : CoreId) (t : Nat) (pd : BitVec 3) (v : BitVec 64) : Prop :=
  u.willLand k t 3 1 [.preg pd.toNat v] Flag.none

/-! ## Jobs and queues -/

/-- Nothing keeps an entry of an SQ from beginning: it is accepted, no failure before it holds the queue, and its FENCE is met
(R572, R578). -/
def Sq.mayRun (q : Sq) (seq : Nat) : Prop :=
  ∃ i e, q.entries[i]? = some e ∧ e.seq = seq ∧ (∀ x ∈ q.entries.take i, x.seq ≠ seq) ∧ e.phase = .accepted ∧ e.doomed = false ∧
    laterThan q.entries q.held i = false ∧ (e.desc.fence = true → ∀ x ∈ q.entries.take i, x.phase = .complete)

/-- No job runs on a cluster of the list, or still drains there (R53, R246). -/
def State.clustersFree (s : State) (clus : List Nat) : Prop :=
  ∀ n v, (n, some v) ∈ s.jobs → v.st = .running ∨ (v.st = .stopping ∧ s.jobCores n ≠ []) → ∀ c ∈ v.cast.clus, c ∉ clus

/-- A staged job may start: its entry may begin, the module is not shutting down (R760), its clusters are free and its niche's
(R50), no job suspended there shares a counter (R258), and every core that it uses is in service. -/
def State.jobMayStart (s : State) (jb : Job) : Prop :=
  jb.st = .staged ∧ (s.sq jb.sq).mayRun jb.seq ∧ s.pwr.stop = 0 ∧ s.clustersFree jb.cast.clus ∧
  (∀ n v, (n, some v) ∈ s.jobs → v.st ≠ .staged → (∃ c ∈ v.cast.clus, c ∈ jb.cast.clus) →
    ∀ c ∈ v.cast.ctrs, c.1 ∉ jb.cast.ctrs.map (·.1)) ∧
  (∀ c ∈ jb.cast.clus, (s.niche jb.niche).has c = true) ∧ ∀ pl ∈ jb.cast.places, (s.physOf pl.2.1 pl.2.2).isSome = true

/-- No queue of the job's cores holds an entry, and its relief engines are idle (R249, R352). -/
def State.drained (s : State) (j : Nat) (jb : Job) : Prop :=
  (∀ k ∈ s.jobCores j, ∀ q, q < 4 → ((s.core k).dq q).entries = []) ∧
  (s.jobCores j ≠ [] → ∀ c ∈ jb.cast.clus, (s.clu c).relQ = [] ∧ (s.clu c).relRun = none)

/-- A job that was told to stop at a yield point, or stopped in place, is ready for its save: every core has stopped, its queues
are empty or wait at a parked entry, and its relief engines are idle (R252, R254, R437). -/
def State.jobMaySave (s : State) (j : Nat) (jb : Job) : Prop :=
  jb.st = .running ∧ jb.stopIdx.isSome = true ∧
  (∀ k ∈ s.jobCores j, ((s.core k).st = .suspended ∨ (s.core k).st = .halted) ∧ ∀ q, q < 4 →
    (((s.core k).dq q).entries = [] ∨ (jb.inPlace = true ∧ (∃ e ∈ ((s.core k).dq q).entries, e.phase = .parked) ∧
      ∀ e ∈ ((s.core k).dq q).entries, e.phase ≠ .running))) ∧
  (jb.inPlace = true ∨ ∃ k ∈ s.jobCores j, (s.core k).st = .suspended) ∧
  ∀ c ∈ jb.cast.clus, (s.clu c).relQ = [] ∧ (s.clu c).relRun = none

/-- A suspended job may resume: its clusters free, its cores in service (R259). -/
def State.jobMayResume (s : State) (jb : Job) : Prop :=
  jb.st = .suspended ∧ s.clustersFree jb.cast.clus ∧ ∀ v ∈ jb.saved, (s.physOf (v.key / 16) (v.key % 16)).isSome = true

/-- The entry that asked for a job is complete with `code` in `u`, where no earlier failure held its queue in `s` (R569, R578). -/
def State.jobAnswered (u s : State) (jb : Job) (code : Nat) : Prop :=
  ∀ (n : Fin 512) (e : Entry), n.val = jb.sq → s.qEntry (.sq n) jb.seq = some e → e.phase ≠ .complete → s.qHeld (.sq n) = none →
    ∃ x, u.qEntry (.sq n) jb.seq = some x ∧ x.phase = .complete ∧ x.code = code

/-! ## Host queues -/

/-- An SQ of function `f` may fetch its next entry (R571, R598, R759, R760). -/
def State.mayFetch (s : State) (n : Nat) (f : Bool) : Prop :=
  (s.sq n).owner = some f ∧ bitAt (s.sq n).cfg.toNat 31 = true ∧ (s.sq n).stopped = false ∧ (s.sq n).releasing = false ∧
  (s.hif f).linkUp = true ∧ (s.hif f).bme = true ∧ 11 ≤ s.pwr.phase ∧ s.pwr.stop = 0 ∧ (s.sq n).head ≠ (s.sq n).tail ∧
  s.sqUnwritten n < 512

/-- `e` is the entry of an SQ that is checked next (R569). -/
def State.checksNext (s : State) (n : Fin 512) (op : Nat) (e : Entry) : Prop :=
  s.nextCheck (.sq n) = some e ∧ s.qEntry (.sq n) e.seq = some e ∧ e.desc.op = op

/-- The conditions of R573 on a JOBRUN whose handle names the cast `c`. -/
def State.jobrunOk (s : State) (n : Fin 512) (d : Desc) (c : Cast) : Prop :=
  let nc := s.qNiche (.sq n)
  s.cast nc (d.handle % 64) = some c ∧ d.bad = false ∧ d.args % 64 = 0 ∧ (d.cen = true → (s.niche nc).ownsCtr d.ctr = true) ∧
  (d.bar = true → (s.grp (d.bgrp % 256)).nmem ≠ 0 ∧ s.lath.notime = false ∧ s.lath.nocomref = false)

/-- Conditions 1 to 3 of R790 on a CASTLOAD or CASTDROP. -/
def State.castOk (s : State) (n : Fin 512) (d : Desc) : Prop :=
  let nc := s.qNiche (.sq n)
  d.bad = false ∧ (d.cen = true → (s.niche nc).ownsCtr d.ctr = true) ∧ s.castBusy nc d.castHandle = false

/-! ## Media engines -/

/-- No detector finds anything: no injection armed, no segment poisoned, no reset or test running. -/
def State.clean (s : State) : Bool := s.unarmed && s.poison.isEmpty && s.ras.rsts.isEmpty

/-- Rings of an engine, of which none is held. -/
def State.ringsFree (s : State) (p kind e : Nat) : Prop := ∀ c, c < 4 → (s.ring p (ringKey kind e c)).held = false

/-- `c` is the command that a pixel engine takes next: the engine runs no frame command, is in service, and no higher ring has
a command that may start (R453 to R457). -/
def State.pixNext (s : State) (p e : Nat) (c : RingCmd) : Prop :=
  Tbl.get none (s.ped p).pixRun e = none ∧ s.ringsFree p 0 e ∧ s.pixPick p e = some (.fresh c) ∧ between 1 5 c.op = true ∧
  s.badWithPlinth p (hPix e) = false

/-- The state in which the engine has read the ring entry and the stream's context record. -/
def State.pixRead (s : State) (p _ : Nat) (c : RingCmd) : State :=
  let s := s.ringTake p c.ring
  ((s.readRun (Rec.base 0 1 0 (some p) none) (ringAddr p (s.ring p c.ring) c.idx) 64).2.2.ctxRead p c.stream).2.2

/-- The same for an entropy engine, where a command of a higher ring may pre-empt a DECUNIT at its row boundary (R455). -/
def State.entNext (s : State) (p e : Nat) (c : RingCmd) : Prop :=
  s.ringsFree p 1 e ∧ s.entPick p e = some c ∧ between 1 5 c.op = true ∧ s.badWithPlinth p (hEnt e) = false

/-- The state in which it has read the ring entry, the context record and the stream record. -/
def State.entRead (s : State) (p e : Nat) (c : RingCmd) : State :=
  let r := Rec.base 0 1 0 (some p) none
  let s := (s.entPreempt p e).ringTake p c.ring
  let s := ((s.readRun r (ringAddr p (s.ring p c.ring) c.idx) 64).2.2.ctxRead p c.stream).2.2
  (s.readRun r (recAddr s p c.stream) 128).2.2

/-- The stream is valid, and of this ring and engine; a unit is coded or decoded as its stream record says (R453, R533). -/
def entStream (e : Nat) (c : RingCmd) (x y : Memory) : Bool :=
  ctxValid x && ctxClass x == c.ring % 4 && ctxEeng x == e &&
  (decide (c.op < 3) || (srValid y && srDecode y == (c.op == 3)))

/-- An engine may take 1 from a counter at once: it holds at least 1, its ECC is sound, and nothing of this cycle waits to reach
it (Table 06.4). -/
def State.counterReady (s : State) (id : Nat) : Bool :=
  decide (0 < (s.ctrVal id).toNat) && !Tbl.get false (s.ped (id / 1024)).ctrBad (id % 1024) &&
  s.arm (sycBlock (id / 1024) + 0x4004) (id % 1024) == 0 && !s.sigs.any (fun g => g.ctr == id && decide (g.due ≤ s.now))

/-- The state with that 1 taken. -/
def State.took (s : State) (id : Nat) : State := s.ctrPut id (s.ctrVal id - 1)

/-- `c` is the job that Skim takes next. -/
def State.skmNext (s : State) (p : Nat) (c : RingCmd) : Prop :=
  (s.ped p).skmRun = none ∧ s.ringsFree p 2 0 ∧ s.skmPick p = some (.inr c) ∧ s.badWithPlinth p hSkim = false

/-! ## Mailboxes and Lath -/

/-- The outstanding command of function `f` has this OP and these words, and no answer is decided (R590). -/
def State.commanded (s : State) (f : Bool) (op : Nat) (ws : List Word) : Prop :=
  (s.mbx f).cmd = some ws ∧ (s.mbx f).reply = none ∧ cmdOp ws = op

/-- A port is enabled and usable, on a module that has started and runs, with no reset of it (R612, R686, R774). -/
def State.portUsable (s : State) (n : Nat) : Prop :=
  (s.port n).en = true ∧ s.bad n hLath = false ∧ 10 ≤ s.pwr.phase ∧ s.pwr.stop = 0 ∧
  ∀ r ∈ s.ras.rsts, r.ped = n → r.scope ≠ 4 ∧ r.scope ≠ 5

/-- The logical lane whose codeword a port awaits, where no codeword waits (R606). -/
def Port.awaits (p : Port) (l : Nat) : Prop := p.rxq = [] ∧ p.rxOrder[p.rxTurn]? = some l

/-- A TQ may take its next entry: enabled and not held, with room, on a ready module with an ID, no reset of its pedestal
(R624, R634, R658, R760). -/
def State.tqMayTake (s : State) (t : Nat) : Prop :=
  let q := s.tq t
  q.en = true ∧ q.held = false ∧ 11 ≤ s.pwr.phase ∧ s.pwr.stop = 0 ∧ s.lath.id ≠ 0 ∧ q.ents.length < 2 ^ q.size ∧
  (∀ r ∈ s.ras.rsts, r.scope = 4 → r.ped ≠ q.ped) ∧ s.counterReady q.pctr.toNat = true

/-! ## Requests of a host, and frames -/

/-- A request of function `f` acts: its link is up, memory decode is on, the block decodes (`all`: a block that decodes
only once the module is ready), and no injection is armed. -/
def State.hostActs (s : State) (f all : Bool) : Bool :=
  (s.hif f).linkUp && !(s.hif f).d3 && s.pcieUp && (!all || s.allUp) && s.unarmed

/-- Cores, clusters, jobs, casts, niches, poison and plinth memory and HBM3 are as before. -/
def State.sameCompute (u s : State) : Prop :=
  u.cores = s.cores ∧ u.clus = s.clus ∧ u.jobs = s.jobs ∧ u.casts = s.casts ∧ u.niches = s.niches ∧ u.mpa = s.mpa ∧
  u.poison = s.poison ∧ u.active = s.active ∧ u.dshare = s.dshare

/-- The pedestals and the Lath are as before. -/
def State.sameUnits (u s : State) : Prop := u.peds = s.peds ∧ u.lath = s.lath

/-- Host queues are as before. -/
def State.sameQueues (u s : State) : Prop := u.sqs = s.sqs ∧ u.cqs = s.cqs

/-- The answer that a function's outstanding command awaits. -/
def State.answered (u : State) (f : Bool) (code detail : Nat) : Prop := (u.mbx f).reply = some (ackOf code detail)

/-- Data of the blocks that a port has yet to have acknowledged, oldest first. -/
def Port.outgoing (p : Port) : List (List Byte) := p.unack.map (·.2) ++ p.txq

end Sys2Proof.Machine
end

