-- ==== Sys2Proof/Certificates/Slice0/Obligations.lean ====
section
/-! DEFINITION. The statements for the provers, family by family in the order of the opcode table. -/
open Sys2Proof Sys2Proof.Machine

/-! ## The queue, the reset, every command -/

/-- ASKED OF A BLOCK. A step is the effect of the command at the front of the queue on the state with the queue's rest; on an
empty queue the block idles (DESIGN CHOICE, log entry 1). -/
def Obligations.StepRunsFront : Prop :=
  (∀ (c : Instr) (rest : List Instr) (s : State), s.pending = c :: rest → step s = exec c (s.dequeued rest)) ∧
  (∀ s : State, s.pending = [] → step s = .next s)

/-- No command of the table is refused and none faults: for every command and every state `exec` answers a next state. -/
def Obligations.EveryCommandAnswers : Prop := ∀ (i : Instr) (s : State), ∃ t, exec i s = .next t

/-- The state after reset is sound, no command waits, no core belongs to a job, nothing is in flight, and the registers hold
the values that the register tables of chapters 06, 14 to 17 and 19 give for reset (LTH_E2E Table 15.10, RAS_LOGCFG
Table 16.8, BST_CFG Table 17.6, PWR_CAP Table 19.8). -/
def Obligations.ResetSound : Prop :=
  let r := State.reset
  r.wf = true ∧ r.pending = [] ∧ r.calm = true ∧ r.unarmed = true ∧ r.ras.rsts = [] ∧
  (∀ k, (r.core k).st = .idle ∧ (r.core k).job = none ∧ (r.core k).ycount = 0 ∧ (r.core k).aflags = 0 ∧ (r.core k).issued = 0) ∧
  (∀ p, (r.ped p).bstCfg = 1 ∧ (r.ped p).sycStat = 0 ∧ (r.ped p).plnStat = 0 ∧ ∀ i, Tbl.get 0 (r.ped p).counters i = 0) ∧
  (∀ n, (r.sq n).cfg = 0 ∧ (r.sq n).held = none ∧ (r.cq n).cfg = 0 ∧ (r.niche n).owner = none) ∧
  r.ras.logtail = 0 ∧ r.ras.logcfg = 1 ∧ r.pwr.cap = 7200 ∧ r.pwr.stop = 0 ∧ r.pwr.ready = false ∧ r.lath.id = 0 ∧
  r.lath.e2e = 0x80064 ∧ ∀ n, (r.port n).en = true ∧ (r.port n).minl = 4 ∧ (r.port n).st = pDown

/-- Every step keeps the state sound: every memory and every table of units stays in canonical form. -/
def Obligations.StepKeepsSound : Prop :=
  ∀ s t : State, s.wf = true → step s = .next t → t.wf = true

/-- Commands do not touch the queue: a step takes one command from its front and leaves the rest as it is. -/
def Obligations.StepKeepsQueueRest : Prop :=
  ∀ (c : Instr) (rest : List Instr) (s t : State), s.pending = c :: rest → step s = .next t → t.pending = rest

/-! ## Encoding -/

/-- A bundle without reserved values reads back from its 256 bits, and no slot of it is refused (R281 to R283,
Tables 07.4 to 07.7). -/
def Obligations.BundleRoundTrip : Prop :=
  ∀ b : Bundle, b.wf = true → decodeBundle (encodeBundle b) = (b, [])

/-- The other direction: a word of which R283 refuses no slot is the encoding of what it reads as. -/
def Obligations.BundleWordUnique : Prop :=
  ∀ (w : BitVec 256) (b : Bundle), decodeBundle w = (b, []) → b.wf = true ∧ encodeBundle b = w

/-! ## Number formats -/

/-- R65 to R67. The exact value of every code of the floating formats. -/
def Obligations.FormatCodes : Prop :=
  let val (neg : Bool) (m : Nat) (e : Int) : Val := .num ⟨if neg then -(m : Int) else m, e⟩
  let sign (w : Nat) (neg : Bool) : Nat := if neg then 2 ^ w else 0
  (∀ (neg : Bool) (e f : Nat), f < 8 →
    (¬ (neg = true ∧ f = 0) → readFloat .fe8 (sign 7 neg + f) = val neg f (-10)) ∧
    (1 ≤ e → e ≤ 15 → readFloat .fe8 (sign 7 neg + e * 8 + f) = val neg (8 + f) (e - 11))) ∧
  (∀ (neg : Bool) (e f : Nat), f < 512 →
    (¬ (neg = true ∧ f = 0) → readFloat .fe16 (sign 15 neg + f) = val neg f (-40)) ∧
    (1 ≤ e → e ≤ 63 → readFloat .fe16 (sign 15 neg + e * 512 + f) = val neg (512 + f) (e - 41))) ∧
  (∀ (neg : Bool) (e f : Nat), f < 2 ^ 23 →
    readFloat .fa32 (sign 31 neg + f) = val neg f (-149) ∧
    (1 ≤ e → e ≤ 254 → readFloat .fa32 (sign 31 neg + e * 2 ^ 23 + f) = val neg (2 ^ 23 + f) (e - 150))) ∧
  readFloat .fe8 0x80 = .nan ∧ readFloat .fe16 0x8000 = .nan

/-! ## Issue of bundles -/

/-- Every slot command whose bundle may issue issues it: time has moved on to the issue cycle, one more bundle is counted,
and every result of its four plans is in flight with its latency (R214, R293, R376). -/
def Obligations.SlotCommandsIssue : Prop :=
  ∀ (i : Instr) (k : CoreId) (b : Bundle) (s : State), i.issues = some (k, b) →
    Issues i k b s (fun c t jb u =>
      u.now = t ∧ (u.core (coreKey k)).issued = c.issued + 1 ∧
      ∀ p ∈ (s.atIssue (coreKey k)).plans (coreKey k) jb.niche jb.seed (c.step t) b, ∀ r ∈ p.2.res,
        u.willLand k t p.1 r.lat r.wr r.flags)

/-- The frame of every slot command: in its issue cycle no register, flag, byte or counter changes (results land later,
R293), but for FCLR's flags and SFSWAP's active bank; other cores, jobs and niches are untouched. -/
def Obligations.SlotCommandsFrame : Prop :=
  ∀ (i : Instr) (k : CoreId) (b : Bundle) (s : State), i.issues = some (k, b) →
    Issues i k b s (fun c _ _ u =>
      let d := u.core (coreKey k)
      let a := s.atIssue (coreKey k)
      (d.sreg = c.sreg ∧ d.preg = c.preg ∧ d.vreg = c.vreg ∧ d.tile = c.tile ∧ d.tkind = c.tkind ∧ d.stat = c.stat ∧
        d.err = c.err ∧ d.cstore = c.cstore ∧ d.istore = c.istore ∧ d.bank0 = c.bank0 ∧ d.bank1 = c.bank1 ∧ d.job = c.job) ∧
      ((∀ m, b.c ≠ .fclr m) → d.aflags = c.aflags) ∧ (b.v ≠ .sfswap → d.active = c.active) ∧
      (∀ j, j ≠ coreKey k → u.core j = a.core j) ∧ u.clus = a.clus ∧ u.peds = a.peds ∧ u.mpa = a.mpa ∧ u.jobs = a.jobs ∧
      u.niches = a.niches ∧ u.sqs = a.sqs ∧ u.hif0 = a.hif0 ∧ u.hif1 = a.hif1 ∧ u.lath = a.lath ∧ u.mgt = a.mgt ∧
      u.pwr = a.pwr ∧ u.ras = a.ras)

/-- R170, R171, R300. FA32 arithmetic on the active lanes: VADD, VSUB, VMUL, VFMA, VMIN and VMAX land after 4 cycles, VDIV
after 12, with the operations' flags. -/
def Obligations.FloatLanes : Prop :=
  ∀ (s : State) (k : CoreId) (b : Bundle) (vd va vb vc : BitVec 5) (pr : BitVec 4),
    let result (lat : Nat) (f : Nat → Nat → Nat → Nat × AFlags) (c : Core) (t : Nat) (_ : Job) (u : State) : Prop :=
      u.lanesInFlight k t lat vd
        ((c.actives pr).map (fun l => (l, f (c.lane va l).toNat (c.lane vb l).toNat (c.lane vc l).toNat)))
    Issues (.vadd k b vd va vb pr) k { b with v := .farith .add vd va vb 0 pr } s (result 4 (fun x y _ => fadd x y)) ∧
    Issues (.vsub k b vd va vb pr) k { b with v := .farith .sub vd va vb 0 pr } s (result 4 (fun x y _ => fsub x y)) ∧
    Issues (.vmul k b vd va vb pr) k { b with v := .farith .mul vd va vb 0 pr } s (result 4 (fun x y _ => fmul x y)) ∧
    Issues (.vdiv k b vd va vb pr) k { b with v := .farith .div vd va vb 0 pr } s (result 12 (fun x y _ => fdiv x y)) ∧
    Issues (.vfma k b vd va vb vc pr) k { b with v := .farith .fma vd va vb vc pr } s (result 4 ffma) ∧
    Issues (.vmin k b vd va vb pr) k { b with v := .farith .min vd va vb 0 pr } s (result 4 (fun x y _ => fmin x y)) ∧
    Issues (.vmax k b vd va vb pr) k { b with v := .farith .max vd va vb 0 pr } s (result 4 (fun x y _ => fmax x y))

/-- R302. 32-bit integer lanes: the active lanes of VD, after 2 cycles, without flags. -/
def Obligations.IntegerLanes : Prop :=
  ∀ (s : State) (k : CoreId) (b : Bundle) (vd va vb : BitVec 5) (pr : BitVec 4),
    let result (f : Word → Word → Word) (c : Core) (t : Nat) (_ : Job) (u : State) : Prop :=
      u.lanesInFlight k t 2 vd ((c.actives pr).map (fun l => (l, (f (c.lane va l) (c.lane vb l)).toNat, Flag.none)))
    let slot (op : IOp) : Bundle := { b with v := .iarith op vd va vb pr }
    Issues (.viadd k b vd va vb pr) k (slot .add) s (result (· + ·)) ∧
    Issues (.visub k b vd va vb pr) k (slot .sub) s (result (· - ·)) ∧
    Issues (.vimul k b vd va vb pr) k (slot .mul) s (result (· * ·)) ∧
    Issues (.vand k b vd va vb pr) k (slot .and) s (result (· &&& ·)) ∧
    Issues (.vor k b vd va vb pr) k (slot .or) s (result (· ||| ·)) ∧
    Issues (.vxor k b vd va vb pr) k (slot .xor) s (result (· ^^^ ·)) ∧
    Issues (.vshl k b vd va vb pr) k (slot .shl) s (result (fun x y => x <<< (y.toNat % 32))) ∧
    Issues (.vshr k b vd va vb pr) k (slot .shr) s (result (fun x y => x >>> (y.toNat % 32))) ∧
    Issues (.vsar k b vd va vb pr) k (slot .sar) s (result (fun x y => x.sshiftRight (y.toNat % 32))) ∧
    Issues (.vimin k b vd va vb pr) k (slot .min) s (result (fun x y => if x.slt y then x else y)) ∧
    Issues (.vimax k b vd va vb pr) k (slot .max) s (result (fun x y => if x.slt y then y else x))

/-- R289, R301, R303, R310, R311, R379. VCMP writes all 64 bits of PD, 0 in inactive lanes; VSEL takes VA in active lanes
and VB in the others; VBCAST, VEXT, VIPSUM, VRNG and VGETST as their rules say. -/
def Parts.LaneMoves : Prop :=
  ∀ (s : State) (k : CoreId) (b : Bundle) (pd : BitVec 3) (vd va vb sa sd si : BitVec 5) (cc : BitVec 3) (pr : BitVec 4)
    (lane : BitVec 6) (stream slot : BitVec 4) (sel : BitVec 2),
    Issues (.vcmp k b pd va vb cc pr) k { b with v := .cmp pd va vb cc pr } s (fun c t _ u =>
      let r := fun l => if c.activeLane pr l then laneCmp cc.toNat (c.lane va l) (c.lane vb l) else (false, Flag.none)
      u.willLand k t 1 2 [.preg pd.toNat (laneBits (fun l => (r l).1))] (orFlags (lanes64.map r))) ∧
    Issues (.vsel k b vd va vb pr) k { b with v := .sel vd va vb pr } s (fun c t _ u =>
      u.lanesInFlight k t 2 vd (lanes64.map (fun l =>
        (l, (if c.activeLane pr l then c.lane va l else c.lane vb l).toNat, Flag.none)))) ∧
    Issues (.vbcast k b vd sa) k { b with v := .bcast vd sa } s (fun c t _ u =>
      u.lanesInFlight k t 2 vd (lanes64.map (fun l => (l, (c.s sa).toNat % 2 ^ 32, Flag.none)))) ∧
    Issues (.vext k b sd va lane) k { b with v := .ext sd va lane } s (fun c t _ u =>
      u.willLand k t 1 2 [.sreg sd.toNat ((c.lane va lane.toNat).setWidth 64)] Flag.none) ∧
    Issues (.vipsum k b vd va pr) k { b with v := .ipsum vd va pr } s (fun c t _ u =>
      u.lanesInFlight k t 4 vd ((c.actives pr).map (fun l =>
        (l, ((c.actives pr).foldl (fun (x : Word) i => if i ≤ l then x + c.lane va i else x) 0).toNat, Flag.none)))) ∧
    Issues (.vrng k b vd si stream) k { b with v := .rng vd si stream } s (fun c t jb u =>
      u.lanesInFlight k t 6 vd ((rangeFrom 0 16).flatMap (fun q => (rangeFrom 0 4).map (fun w =>
        (4 * q + w, genDraw jb.seed stream.toNat (((c.s si).toNat + q) % 2 ^ 64) / 2 ^ (32 * w) % 2 ^ 32, Flag.none))))) ∧
    Issues (.vgetst k b vd sel slot) k { b with v := .getst vd sel slot } s (fun c t _ u =>
      u.lanesInFlight k t 6 vd (lanes64.map (fun l => (l, (c.statSel sel.toNat slot.toNat l).toNat, Flag.none))))

/-- R172, R304. VCVT converts the 64 lanes as one row, writes VD, a record when the target is dynamic and the statistics;
VSFU applies a function to the active lanes in 8 cycles a pass. -/
def Parts.LaneConversions : Prop :=
  ∀ (s : State) (k : CoreId) (b : Bundle) (vd vs sr : BitVec 5) (sf tf : BitVec 3) (e fn : BitVec 6) (cv : ConvF)
    (pr : BitVec 4) (fs ft : Fmt), Fmt.ofCode sf.toNat = some fs → Fmt.ofCode tf.toNat = some ft →
    Issues (.vcvt k b vd vs sf tf e cv sr) k { b with v := .cvt vd vs sf tf e cv sr } s (fun c t jb u =>
      let rec0 := RowParam.ofDouble (c.s sr).toNat
      let out := convertRow fs.isFq ft rec0 (cv.ctl jb.seed) (lanes64.map (fun l => elemVal fs rec0 (laneCode fs (c.lane vs l))))
      u.willLand k t 1 (6 + 2 * cv.qn + cv.j)
        ([.vreg vd.toNat ((numbered out.codes).map (fun x => (x.1, BitVec.ofNat 32 x.2)))] ++
          (match out.record with
           | some p => [.sreg sr.toNat (BitVec.ofNat 64 p.toDouble)]
           | none => []) ++ cv.statWrites e.toNat out) out.flags) ∧
    Issues (.vsfu k b fn vd vs sf tf pr) k { b with v := .sfu fn vd vs sf tf pr } s (fun c t _ u =>
      let entry := match sfuKind fn.toNat with | .user j => (Tbl.get 0 c.bank.entries j).toNat | _ => 0
      let f := fun (v : Val) => match sfuKind fn.toNat with
        | .user _ => userSfu c.bank.steps c.bank.table entry ft v
        | .rt8 => rt8Sfu fn.toNat fs ft v
        | _ => nativeSfu fn.toNat ft v
      u.lanesInFlight k t (8 * sfuPasses fn.toNat ft entry + 10) vd
        ((c.actives pr).map (fun l => (l, f (readFloat fs (laneCode fs (c.lane vs l)))))))

/-- Moves, selections and conversions of the V slot. -/
def Obligations.LaneMovesAndConversions : Prop := Parts.LaneMoves ∧ Parts.LaneConversions

/-- R184 to R190, R305 to R309, R354 to R359. The row operations write the core store: VCVTR each row's codes, records and
statistics, VSMAX and VNORM one row, VBOXD a row of four coordinates a box, VNMS the list of boxes kept. -/
def Obligations.RowOperations : Prop :=
  ∀ (s : State) (k : CoreId) (b : Bundle) (sf tf : BitVec 3) (cv : ConvF) (norec gb : Bool) (ss sd sr sh se sg sp : BitVec 5)
    (fs ft : Fmt), Fmt.ofCode sf.toNat = some fs → Fmt.ofCode tf.toNat = some ft →
    Issues (.vcvtr k b sf tf cv norec ss sd sr sh) k { b with v := .cvtr sf tf cv norec ss sd sr sh } s (fun c t jb u =>
      let len := bits (c.s sh).toNat 13 0
      let rows := bits (c.s sh).toNat 22 16
      let wd := opWord (c.s sd)
      let wr := opWord (c.s sr)
      let outs := (rangeFrom 0 rows).map (fun r => (r, c.cvtrRow jb.seed fs ft cv norec (opWord (c.s ss)) wr.addr len r))
      u.willLand k t 1 (rows * ((len + 63) / 64 * (1 + cv.qn) + cv.j) + 8)
        (outs.flatMap (fun ir => [.cstore (wd.addr + ir.1 * wd.stride) (rowBytes ft ir.2.codes)] ++
          (match ir.2.record with
           | some p => [.cstore (wr.addr + 512 + 8 * ir.1) (leBytes p.toDouble 8)]
           | none => []) ++ cv.statWrites ir.1 ir.2))
        (outs.foldl (fun fl ir => fl ||| ir.2.flags) Flag.none)) ∧
    Issues (.vsmax k b sf tf ss sd sh) k { b with v := .smax sf tf ss sd sh } s (fun c t _ u =>
      let len := bits (c.s sh).toNat 13 0
      let out := softmaxRow ft ((c.rowCodes fs (opWord (c.s ss)).addr len).map (readFloat fs))
      u.willLand k t 1 ((len + 63) / 64 * (18 + depthOf ft) + 22) [.cstore (opWord (c.s sd)).addr (rowBytes ft out.1)] out.2) ∧
    Issues (.vnorm k b sf tf ss sd sh se gb sg) k { b with v := .norm sf tf ss sd sh se gb sg } s (fun c t _ u =>
      let len := bits (c.s sh).toNat 13 0
      let ga := bits (c.s sg).toNat 23 0
      let out := normRow ft ((c.rowCodes fs (opWord (c.s ss)).addr len).map (readFloat fs)) ((c.s se).toNat % 2 ^ 32)
        (if gb then c.rowCodes .fa32 ga len else List.replicate len 0x3F800000)
        (if gb then c.rowCodes .fa32 (ga + 4 * len) len else List.replicate len 0)
      u.willLand k t 1 ((len + 63) / 64 * (10 + depthOf ft) + 50) [.cstore (opWord (c.s sd)).addr (rowBytes ft out.1)] out.2) ∧
    Issues (.vboxd k b ss sd sh sp) k { b with v := .boxd ss sd sh sp } s (fun c t _ u =>
      let n := bits (c.s sh).toNat 13 0
      let w := fun i => c.cstore.le (bits (c.s sp).toNat 23 0 + 4 * i) 4
      let ws := opWord (c.s ss)
      let wd := opWord (c.s sd)
      let outs := (rangeFrom 0 n).map (fun i =>
        (i, boxDecode ⟨w 0, w 1, w 2, w 3, w 4, w 5, w 6, w 7 % 2 == 1⟩ (c.rowCodes .fa32 (ws.addr + i * ws.stride) 8)))
      u.willLand k t 1 ((n + 63) / 64 * 8 + 18)
        (outs.map (fun o => .cstore (wd.addr + o.1 * wd.stride) (rowBytes .fa32 o.2.1)))
        (outs.foldl (fun f o => f ||| o.2.2) Flag.none)) ∧
    Issues (.vnms k b ss sd sh sp) k { b with v := .nms ss sd sh sp } s (fun c t _ u =>
      let n := bits (c.s sh).toNat 13 0
      let w := fun i => c.cstore.le (bits (c.s sp).toNat 23 0 + 4 * i) 4
      let ws := opWord (c.s ss)
      let g := fun i j => c.cstore.le (ws.addr + i * ws.stride + 4 * j) 4
      let out := nmsRow (w 0) (w 1) (w 2) (w 3 % 2 == 1)
        ((rangeFrom 0 n).map (fun i => ⟨i, g i 0, g i 1, g i 2, g i 3, g i 4, g i 5⟩))
      u.willLand k t 1 ((n + 63) / 64 * n + 34) [.cstore (opWord (c.s sd)).addr (rowBytes .fa32 out.1)] out.2)

/-- R101, R110, R286 to R288. The tensor slot: TMMA's reduction and kind after passes × K + 14 cycles, TLD's tile and kind
after 40, TST's 32 rows after 36, TCVT's rows, records and statistics. -/
def Obligations.TensorOperations : Prop :=
  ∀ (s : State) (k : CoreId) (b : Bundle) (td fa fb ts tf fmt : BitVec 3) (init : Bool) (pp : BitVec 2) (mr nr sa sb sp sd sr : BitVec 5)
    (km : BitVec 12) (cv : ConvF) (fA fB ft : Fmt) (int : Bool) (passes : Nat),
    Fmt.ofCode fa.toNat = some fA → Fmt.ofCode fb.toNat = some fB → pairKind fA fB = some int →
    passesOf fA pp.toNat = some passes → Fmt.ofCode tf.toNat = some ft →
    Issues (.tmma k b td init pp fa fb mr nr km sa sb sp) k { b with t := .tmma td init pp fa fb mr nr km sa sb sp } s
      (fun c t _ u =>
        let els := c.tmmaElems td.toNat init int fA fB (mr.toNat + 1) (nr.toNat + 1) (km.toNat + 1) passes (opWord (c.s sa))
          (opWord (c.s sb)) (opWord (c.s sp))
        u.willLand k t 0 (passes * (km.toNat + 1) + 14)
          ((if init then [.tkind td.toNat int] else []) ++ [.tile td.toNat init (els.map (fun e => (e.1, e.2.1)))])
          (els.foldl (fun f e => f ||| e.2.2) Flag.none)) ∧
    Issues (.tld k b td fmt sa) k { b with t := .tld td fmt sa } s (fun c t _ u =>
      ∀ f, Fmt.ofCode fmt.toNat = some f →
        u.willLand k t 0 40 [.tkind td.toNat (f == .fi48), .tile td.toNat true ((rangeFrom 0 32).flatMap (fun m =>
          (numbered (c.rowCodes f ((opWord (c.s sa)).addr + m * (opWord (c.s sa)).stride) 32)).map
            (fun e => (32 * m + e.1, BitVec.ofNat 48 e.2))))] Flag.none) ∧
    Issues (.tst k b ts sa) k { b with t := .tst ts sa } s (fun c t _ u =>
      u.willLand k t 0 36 ((rangeFrom 0 32).map (fun m =>
        .cstore ((opWord (c.s sa)).addr + m * (opWord (c.s sa)).stride)
          (rowBytes (if c.tileFi48 ts.toNat then .fi48 else .fa32) ((rangeFrom 0 32).map (fun n =>
            if c.tileFi48 ts.toNat then (c.tileElem ts.toNat m n).toNat else (c.tileElem ts.toNat m n).toNat % 2 ^ 32)))))
        Flag.none) ∧
    Issues (.tcvt k b ts tf cv mr nr sd sr) k { b with t := .tcvt ts tf cv mr nr sd sr } s (fun c t jb u =>
      let wd := opWord (c.s sd)
      let wr := opWord (c.s sr)
      let rows := (rangeFrom 0 (mr.toNat + 1)).map (fun i =>
        (i, c.tcvtRow jb.seed ts.toNat (c.tileFi48 ts.toNat) ft cv (nr.toNat + 1) wr.addr i))
      u.willLand k t 0 ((mr.toNat + 1) * (1 + cv.qn + cv.j) + 8)
        (rows.flatMap (fun ir => [.cstore (wd.addr + ir.1 * wd.stride) (rowBytes ft ir.2.codes)] ++
          (match ir.2.record with
           | some p => [.cstore (wr.addr + 512 + 8 * ir.1) (leBytes p.toDouble 8)]
           | none => []) ++ cv.statWrites ir.1 ir.2))
        (rows.foldl (fun fl ir => fl ||| ir.2.flags) Flag.none))

/-- R299. 64-bit scalar arithmetic modulo 2^64, shifts by the low six bits; MUL lands after 2 cycles, the others after 1;
ADDI, MOVI and MOVHI. -/
def Obligations.ScalarArithmetic : Prop :=
  ∀ (s : State) (k : CoreId) (b : Bundle) (sd sa sb : BitVec 5) (imm : Word),
    let result (lat : Nat) (f : Double → Double → Double) (c : Core) (t : Nat) (_ : Job) (u : State) : Prop :=
      u.scalarInFlight k t lat sd (f (c.s sa) (c.s sb))
    let slot (op : SOp) : Bundle := { b with c := .alu op sd sa sb }
    Issues (.add k b sd sa sb) k (slot .add) s (result 1 (· + ·)) ∧
    Issues (.sub k b sd sa sb) k (slot .sub) s (result 1 (· - ·)) ∧
    Issues (.mul k b sd sa sb) k (slot .mul) s (result 2 (· * ·)) ∧
    Issues (.and k b sd sa sb) k (slot .and) s (result 1 (· &&& ·)) ∧
    Issues (.or k b sd sa sb) k (slot .or) s (result 1 (· ||| ·)) ∧
    Issues (.xor k b sd sa sb) k (slot .xor) s (result 1 (· ^^^ ·)) ∧
    Issues (.shl k b sd sa sb) k (slot .shl) s (result 1 (fun x y => x <<< (y.toNat % 64))) ∧
    Issues (.shr k b sd sa sb) k (slot .shr) s (result 1 (fun x y => x >>> (y.toNat % 64))) ∧
    Issues (.sar k b sd sa sb) k (slot .sar) s (result 1 (fun x y => x.sshiftRight (y.toNat % 64))) ∧
    Issues (.addi k b sd sa imm) k { b with c := .addi sd sa imm } s
      (fun c t _ u => u.scalarInFlight k t 1 sd (c.s sa + imm.signExtend 64)) ∧
    Issues (.movi k b sd imm) k { b with c := .movi sd imm } s
      (fun _ t _ u => u.scalarInFlight k t 1 sd (imm.signExtend 64)) ∧
    Issues (.movhi k b sd imm) k { b with c := .movhi sd imm } s
      (fun c t _ u => u.scalarInFlight k t 1 sd (imm ++ (c.s sd).setWidth 32))

/-- R274, R291, R311, R313. Compares write 64 equal bits; predicate logic and moves; statistics and the step counter. -/
def Obligations.PredicatesAndStatus : Prop :=
  ∀ (s : State) (k : CoreId) (b : Bundle) (pd pa pb cc : BitVec 3) (sd sa sb : BitVec 5) (sel : BitVec 2) (slot : BitVec 4)
    (entry : BitVec 6),
    Issues (.scmp k b pd sa sb cc) k { b with c := .scmp pd sa sb cc } s (fun c t _ u =>
      ∃ r, scalarCmp cc.toNat (c.s sa) (c.s sb) = some r ∧ u.predInFlight k t pd (condBits r)) ∧
    Issues (.pand k b pd pa pb) k { b with c := .palu .and pd pa pb } s (fun c t _ u =>
      u.predInFlight k t pd (c.pr pa &&& c.pr pb)) ∧
    Issues (.por k b pd pa pb) k { b with c := .palu .or pd pa pb } s (fun c t _ u =>
      u.predInFlight k t pd (c.pr pa ||| c.pr pb)) ∧
    Issues (.pxor k b pd pa pb) k { b with c := .palu .xor pd pa pb } s (fun c t _ u =>
      u.predInFlight k t pd (c.pr pa ^^^ c.pr pb)) ∧
    Issues (.pnot k b pd pa) k { b with c := .pnot pd pa } s (fun c t _ u => u.predInFlight k t pd (~~~ c.pr pa)) ∧
    Issues (.pmov k b pd sa) k { b with c := .pmov pd sa } s (fun c t _ u => u.predInFlight k t pd (c.s sa)) ∧
    Issues (.smovp k b sd pa) k { b with c := .smovp sd pa } s (fun c t _ u => u.scalarInFlight k t 1 sd (c.pr pa)) ∧
    Issues (.sgetst k b sd sel slot entry) k { b with c := .sgetst sd sel slot entry } s (fun c t _ u =>
      u.scalarInFlight k t 2 sd ((c.statSel sel.toNat slot.toNat entry.toNat).setWidth 64)) ∧
    Issues (.sstep k b sd) k { b with c := .sstep sd } s (fun c t _ u => u.scalarInFlight k t 2 sd (c.step t))

/-- R277, R290, R294, Table 07.10. Loads carry the bytes that stood in the issue cycle and land after 6 cycles from the core
store and 14 from the cluster store; stores land after 2 and 6. The address is SA plus the signed offset. -/
def Obligations.LoadsAndStores : Prop :=
  ∀ (s : State) (k : CoreId) (b : Bundle) (sd ss sa vd vs : BitVec 5) (off : BitVec 20) (fmt : BitVec 3) (pr : BitVec 4) (f : Fmt),
    lanesFormat fmt = some f →
    Issues (.sld k b sd sa off) k { b with m := .sld sd sa off } s (fun c t _ u =>
      let a := c.memAddr sa off
      u.willLand k t 2 (loadLat a 8)
        [.sreg sd.toNat (BitVec.ofNat 64 (leNat ((s.atIssue (coreKey k)).localBytes (coreKey k) a 8)))] Flag.none) ∧
    Issues (.sst k b ss sa off) k { b with m := .sst ss sa off } s (fun c t _ u =>
      let a := c.memAddr sa off
      u.willLand k t 2 (storeLat a 8) (localWr a (leBytes (c.s ss).toNat 8)) Flag.none) ∧
    Issues (.vld k b vd fmt sa off) k { b with m := .vld vd fmt sa off } s (fun c t _ u =>
      let a := c.memAddr sa off
      u.willLand k t 2 (loadLat a (64 * f.size))
        [.vreg vd.toNat ((numbered (elemsOf f.size 64 ((s.atIssue (coreKey k)).localBytes (coreKey k) a (64 * f.size)))).map
          (fun e => (e.1, BitVec.ofNat 32 e.2)))] Flag.none) ∧
    Issues (.vst k b vs fmt sa off pr) k { b with m := .vst vs fmt sa off pr } s (fun c t _ u =>
      let a := c.memAddr sa off
      u.willLand k t 2 (storeLat (a + (c.actives pr).headD 0 * f.size) f.size)
        ((c.actives pr).flatMap (fun l => localWr (a + l * f.size) (leBytes (laneCode f (c.lane vs l)) f.size))) Flag.none)

/-- R314 to R319. DMAQ puts the descriptor at the end of its queue under the next sequence number and answers that number
after 2 cycles; DWAIT holds the core while the entry is outstanding; ASEND takes its source bytes on their way, 1,024 in a
slot, to consecutive destination bytes. -/
def Obligations.QueueInstructions : Prop :=
  ∀ (s : State) (k : CoreId) (b : Bundle) (q : BitVec 2) (sd sa ss sc : BitVec 5) (route : BitVec 12) (ns : BitVec 8) (cen : Bool),
    Issues (.dmaq k b q sd sa) k { b with m := .dmaq q sd sa } s (fun c t _ u =>
      let n := (c.dq q.toNat).next
      ((u.core (coreKey k)).dq q.toNat).entries = (c.dq q.toNat).entries ++
        [Entry.new n.toNat (Desc.ofBytes (c.cstore.bytes (c.s sa).toNat 64) (dmaBad false)) t] ∧
      ((u.core (coreKey k)).dq q.toNat).next = n + 1 ∧
      u.willLand k t 2 2 [.sreg sd.toNat (n.setWidth 64)] Flag.none) ∧
    (b.c ≠ .halt →
      Issues (.dwait k b q sa) k { b with m := .dwait q sa } s (fun c _ _ u =>
        let n := ((c.s sa).setWidth 32).toNat
        (u.core (coreKey k)).hold = if (c.dq q.toNat).outstanding n then some (.retire q.toNat n) else c.hold)) ∧
    Issues (.asend k b route ns ss sd cen sc) k { b with m := .asend route ns ss sd cen sc } s (fun c _ _ u =>
      ∃ r ∈ (u.core (coreKey k)).sends, r.route = route.toNat ∧
        r.slots.map (·.dst) = (rangeFrom 0 (ns.toNat + 1)).map (fun i => (c.s sd).toNat + 1024 * i) ∧
        r.slots.flatMap (·.bytes) = (s.atIssue (coreKey k)).localBytes (coreKey k) (c.s ss).toNat ((ns.toNat + 1) * 1024) ∧
        r.ctr = if cen then some ((c.s sc).toNat % 2 ^ 15) else none)

/-- R229 to R238, R249, R251, R282, R292, R312, R199. What the sequencer's instructions do: a taken branch takes effect three
bundles later; a signal is on its way, to a counter of the own pedestal for 4 cycles, to another through the cluster's next
cycle of the signal network; a SWAIT waits, its first compare at the end of its cycle; YIELD counts; HALT halts; FCLR clears
flags; SFSWAP exchanges the banks; a NOP books nothing. -/
def Obligations.ControlInstructions : Prop :=
  ∀ (s : State) (k : CoreId) (b : Bundle) (cond : BitVec 2) (pn pd : BitVec 3) (tgt : BitVec 12) (sc st : BitVec 5)
    (inc : BitVec 16) (consume tmode : Bool) (timeout : BitVec 24) (mask : BitVec 4) (slot : SlotName),
    Issues (.br k b cond pn tgt) k { b with c := .br cond pn tgt } s (fun c _ _ u =>
      (cond = 0 ∨ (cond = 1 ∧ (c.pr pn).getLsbD 0 = true) ∨ (cond = 2 ∧ (c.pr pn).getLsbD 0 = false)) →
        (c.issued.toNat + 3, tgt.toNat) ∈ (u.core (coreKey k)).brq) ∧
    Issues (.ssig k b sc inc) k { b with c := .ssig sc inc } s (fun c t _ u =>
      let id := (c.s sc).toNat % 2 ^ 15
      (id / 1024 = k.p.val → ∃ g ∈ u.sigs, g.ctr = id ∧ g.inc = inc.toNat ∧ g.due = t + 4) ∧
      (id / 1024 ≠ k.p.val → (∀ g ∈ (s.atIssue (coreKey k)).sigs, g.clus ≠ some (clusOfCore (coreKey k))) →
        ∃ g ∈ u.sigs, g.ctr = id ∧ g.inc = inc.toNat ∧
          g.due = 2 * (ownedFrom (clusOfCore (coreKey k) % 8) ((t + 3) / 2) + 6 + 3 * hops (pedOfCore (coreKey k)) (id / 1024)))) ∧
    Issues (.swait k b pd consume tmode sc st timeout) k { b with c := .swait pd consume tmode sc st timeout } s (fun c t _ u =>
      (u.core (coreKey k)).st = .wait ∧ (u.core (coreKey k)).wait =
        some ⟨(c.s sc).toNat % 2 ^ 15, (c.s st).setWidth 32, timeout.toNat, pd.toNat, consume, tmode, t, some t⟩) ∧
    Issues (.yield k b) k { b with c := .yield } s (fun c _ _ u => (u.core (coreKey k)).ycount = c.ycount + 1) ∧
    Issues (.halt k b) k { b with c := .halt } s (fun _ _ _ u => (u.core (coreKey k)).st = .halted) ∧
    Issues (.fclr k b mask) k { b with c := .fclr mask } s (fun c _ _ u =>
      (u.core (coreKey k)).aflags = c.aflags &&& ~~~mask) ∧
    Issues (.sfswap k b) k { b with v := .sfswap } s (fun c _ _ u => (u.core (coreKey k)).active = !c.active) ∧
    Issues (.nop k .nop slot) k .nop s (fun c _ _ u =>
      (u.core (coreKey k)).issued = c.issued + 1 ∧ (u.core (coreKey k)).flights = c.flights)

/-- R220, R221, R283, R324. A bundle with a slot that no table lists issues with no effect in any slot: the core takes the
fault of code 0x03 with the slots named, and its job stops FORMAT_ERROR. A bundle past 4,095, or one that nothing has
supplied, is the fault of code 0x02. -/
def Obligations.InstructionFaults : Prop :=
  (∀ (s : State) (k : CoreId) (w : BitVec 256) (b : Bundle) (bad : List Nat) (jb : Job) (j : Nat),
    decodeBundle w = (b, bad) → bad ≠ [] → s.issuable (coreKey k) b = some jb → (s.coreAt (coreKey k)).job = some j →
    Completes (.illegalEncoding k w) s (fun u =>
      let c := s.coreAt (coreKey k)
      (u.core (coreKey k)).fault = faultWord 0 (slotMask bad) c.pc 0x03 ∧ (u.core (coreKey k)).st = .fault ∧
      (u.core (coreKey k)).flights = c.flights ∧ u.mpa = (s.atIssue (coreKey k)).mpa ∧
      ∃ v, u.job j = some v ∧ v.st = .stopping ∧ v.stopCode = cFormatError)) ∧
  (∀ (s : State) (k : CoreId) (j : Nat), s.gated = false → (s.core (coreKey k)).wait = none → (s.running (coreKey k)).isSome = true →
    ((s.atIssue (coreKey k)).running (coreKey k)).isSome = true → (s.coreAt (coreKey k)).job = some j →
    (4096 ≤ (s.coreAt (coreKey k)).pc ∨ Tbl.get false (s.coreAt (coreKey k)).supplied (s.coreAt (coreKey k)).pc = false) →
    Completes (.instructionRange k) s (fun u =>
      let c := s.coreAt (coreKey k)
      (u.core (coreKey k)).fault = faultWord 0 0 (if 4096 ≤ c.pc then 4095 else c.pc) 0x02 ∧
      (u.core (coreKey k)).st = .fault ∧ ∃ v, u.job j = some v ∧ v.st = .stopping ∧ v.stopCode = cFormatError))

/-! ## Time -/

/-- R89, R293 to R295. RESULT_LAND lands the result alone in flight: its register or bytes take the value, the flags join
the sticky flags, time passes its cycle, and nothing else of the core changes. -/
def Obligations.ResultLands : Prop :=
  ∀ (s : State) (k : CoreId) (f : Flight), s.wf = true → s.gated = false → s.oneDue = true →
    (s.core (coreKey k)).flights = [f] → s.now ≤ f.due →
    Completes (.resultLand k) s (fun u =>
      let c := s.core (coreKey k)
      let d := u.core (coreKey k)
      u.now = f.due + 1 ∧ d.flights = [] ∧ d.aflags = c.aflags ||| f.flags ∧
      (∀ n v, f.wr = [.sreg n v] → Tbl.get 0 d.sreg n = v ∧ (∀ m, m ≠ n → Tbl.get 0 d.sreg m = Tbl.get 0 c.sreg m) ∧
        d.preg = c.preg ∧ d.vreg = c.vreg ∧ d.tile = c.tile ∧ d.stat = c.stat ∧ d.cstore = c.cstore) ∧
      (∀ n v, f.wr = [.preg n v] → Tbl.get 0 d.preg n = v ∧ (∀ m, m ≠ n → Tbl.get 0 d.preg m = Tbl.get 0 c.preg m) ∧
        d.sreg = c.sreg ∧ d.vreg = c.vreg ∧ d.tile = c.tile ∧ d.stat = c.stat ∧ d.cstore = c.cstore) ∧
      (∀ n l v, f.wr = [.vreg n [(l, v)]] → Tbl.get 0 d.vreg (64 * n + l) = v ∧
        (∀ i, i ≠ 64 * n + l → Tbl.get 0 d.vreg i = Tbl.get 0 c.vreg i) ∧
        d.sreg = c.sreg ∧ d.preg = c.preg ∧ d.tile = c.tile ∧ d.stat = c.stat ∧ d.cstore = c.cstore) ∧
      (∀ a bs, f.wr = [.cstore a bs] → d.cstore.bytes a bs.length = bs ∧
        (∀ x, x < a ∨ a + bs.length ≤ x → d.cstore.byte x = c.cstore.byte x) ∧
        d.sreg = c.sreg ∧ d.preg = c.preg ∧ d.vreg = c.vreg ∧ d.tile = c.tile ∧ d.stat = c.stat) ∧
      (∀ o bs, f.wr = [.clstore o bs] →
        (u.clu (clusOfCore (coreKey k))).store = Memory.write o bs (s.clu (clusOfCore (coreKey k))).store ∧ d.cstore = c.cstore) ∧
      u.mpa = s.mpa)

/-- R229, R231 to R234, R274. A signal on its way is added to its counter, which saturates at 2^32 - 1; a SWAIT that waits there
compares then: satisfied, it writes a predicate of ones and with CONSUME takes its target from the counter, else it waits on. The
timeout of a SWAIT writes a predicate of zeros and the core goes on, or stops the job with TIMEOUT when TMODE is 1. -/
def Parts.CountersAndTimeouts : Prop :=
  (∀ (s : State) (id : BitVec 15) (g : Sig), s.wf = true → s.gated = false → s.oneDue = true → s.sigs = [g] → g.ctr = id.toNat →
    g.set = false → s.ctrDeaf id.toNat = false →
    let sum := min ((s.ctrVal id.toNat).toNat + g.inc) 0xFFFFFFFF
    (s.waiters id.toNat = [] →
      Completes (.syncSignalApply id) s (fun u => (u.ctrVal id.toNat).toNat = sum ∧ u.sigs = [] ∧ s.now ≤ u.now ∧
        ∀ i, i ≠ id.toNat → u.ctrVal i = s.ctrVal i)) ∧
    (∀ (k : CoreId) (w : WaitRec), s.waiters id.toNat = [coreKey k] → (s.core (coreKey k)).wait = some w → s.unarmed = true →
      Tbl.get false (s.ped (id.toNat / 1024)).ctrBad (id.toNat % 1024) = false →
      Completes (.syncSignalApply id) s (fun u =>
        let c := u.core (coreKey k)
        if w.target.toNat ≤ sum then c.wait = none ∧ Tbl.get 0 c.preg w.pd = condBits true ∧
          (u.ctrVal id.toNat).toNat = if w.consume then sum - w.target.toNat else sum
        else c.wait = some w ∧ c.preg = (s.core (coreKey k)).preg ∧ (u.ctrVal id.toNat).toNat = sum))) ∧
  (∀ (s : State) (k : CoreId) (w : WaitRec), s.wf = true → s.gated = false → s.oneDue = true →
    (s.core (coreKey k)).wait = some w → w.timeout ≠ 0 → s.now ≤ w.issued + w.timeout →
    Completes (.syncWaitTimeout k) s (fun u =>
      u.now = w.issued + w.timeout + 1 ∧
      (w.tmode = false → (u.core (coreKey k)).wait = none ∧ Tbl.get 0 (u.core (coreKey k)).preg w.pd = 0 ∧
        (u.core (coreKey k)).st ≠ .wait ∧ u.jobs = s.jobs) ∧
      (w.tmode = true → ∀ j jb, (s.core (coreKey k)).job = some j → s.job j = some jb → jb.st = .running →
        ∃ v, u.job j = some v ∧ v.st = .stopping ∧ v.stopCode = cTimeout)))

/-- R38, R47, R317, R371, R396, R648. The next frame begins at a multiple of 8,192 cycles, with the shadow slot tables in force, and
does not while the root is gated; the last slot of an ASEND lands its 1,024 bytes in the destination store; a bank's window
ends 16 cycles after it begins, and an uncorrectable row it finds is marked, noted and flagged. -/
def Parts.FramesSlotsRefresh : Prop :=
  (∀ (s : State) (img : Memory) (done : Nat), s.gated = false → s.calm = true → s.slotShadow = some (img, done) →
    done < s.now / 8192 * 8192 + 8192 →
    Completes .armatureFrameStart s (fun u =>
      u.now = s.now / 8192 * 8192 + 8192 ∧ u.slots = some img ∧ u.slotShadow = none ∧ u.cores = s.cores)) ∧
  (∀ s : State, s.gated = true → exec .armatureFrameStart s = .next s) ∧
  (∀ (s : State) (k : CoreId) (r : SendRec) (x : SendSlot), s.wf = true → s.gated = false → s.oneDue = true →
    (s.core (coreKey k)).sends = [r] → r.slots = [x] → s.unarmed = true →
    Completes (.asendSlotLand k) s (fun u =>
      (u.clu r.dest).store = Memory.write (x.dst - 0x800000) x.bytes (s.clu r.dest).store ∧
      (u.core (coreKey k)).sends = [])) ∧
  (∀ (s : State) (p : Fin 20) (bank : Fin 64) (o : Word), s.gated = false → s.calm = true → s.unarmed = true →
    o.toNat < 0xA0000000 → o.toNat / 4096 % 64 = bank.val → s.now % 8192 ≤ 128 * bank.val →
    Completes (.refreshWindow p bank [(o, true)]) s (fun u =>
      u.now = s.now / 8192 * 8192 + 128 * bank.val + 16 ∧ u.poisoned (plinthBase p.val + o.toNat) = true ∧
      (u.ped p.val).plnErr = BitVec.ofNat 64 (o.toNat / 64 * 64) ∧ (u.ped p.val).plnStat.getLsbD 1 = true ∧ u.mpa = s.mpa))

/-- What happens at its cycle: signals, timeouts, frames, ASEND slots and refresh windows. -/
def Obligations.TimedEvents : Prop := Parts.CountersAndTimeouts ∧ Parts.FramesSlotsRefresh

/-! ## Jobs -/

/-- R246, R247, R260, R679, R690. A staged job that may start does so on the next frame edge: every core of it runs from bundle 0
with its step counter at 0, its arguments in the first scalars, no predicate, vector or tile set, flags clear. One that meets
a test, a reset or a substitution of its clusters at the edge completes BUSY. `e` is the state at that edge; where nothing is due
before it (`calm`), what holds in `s` is enough. -/
def Obligations.JobStarts : Prop :=
  ∀ (s : State) (j : BitVec 32) (jb : Job), s.wf = true → s.gated = false → s.job j.toNat = some jb → jb.bar = false →
    s.jobMayStart jb →
    let e := s.toEdge (frameEdge s.now)
    s.calm = true ∨ e.jobMayStart jb →
    (s.calm = true ∧ s.ras.rsts = [] ∧ s.fresh = [] ∨ e.inTest jb = false →
      Completes (.jobStart j) s (fun u =>
        u.now = e.now ∧ (s.calm = true → u.now = frameEdge s.now) ∧ (∃ v, u.job j.toNat = some v ∧ v.st = .running) ∧
        ∀ pl ∈ jb.cast.places, ∀ key, e.physOf pl.2.1 pl.2.2 = some key →
          let c := u.core key
          c.st = .run ∧ c.job = some j.toNat ∧ c.pc = 0 ∧ c.ycount = 0 ∧ c.aflags = 0 ∧ c.issued = 0 ∧ c.step u.now = 0 ∧
          c.preg = [] ∧ c.vreg = [] ∧ c.tile = [] ∧ c.stat = [] ∧ c.err = [] ∧
          ∀ i a, jb.args[i]? = some a → i < 8 → Tbl.get 0 c.sreg i = a)) ∧
    (e.inTest jb = true →
      Completes (.jobStart j) s (fun u => u.job j.toNat = none ∧ ∀ k ∈ e.jobCores j.toNat, (u.core k).job = none))

/-- R221, R249, R583, R647, R789. A job all of whose cores have halted and whose queues and relief engines are empty
completes DONE, or with the code of its earliest failed entry; a stopped one completes with the code that stopped it, once
drained; its cores then show IDLE and belong to no job. A job past its limit stops with TIMEOUT. -/
def Obligations.JobsEnd : Prop :=
  ∀ (s : State) (j : BitVec 32) (jb : Job), s.wf = true → s.job j.toNat = some jb →
    let ended : Prop := (∀ k ∈ s.jobCores j.toNat, (s.core k).st = .halted) ∧ s.drained j.toNat jb
    let over_ (code : Nat) (u : State) : Prop := u.job j.toNat = none ∧ u.jobAnswered s jb code ∧
      ∀ k ∈ s.jobCores j.toNat, (u.core k).st = .idle ∧ (u.core k).job = none
    (jb.st = .running → ended → Completes (.jobComplete j) s (over_ (jb.failCode.getD cDone))) ∧
    (jb.st = .stopping → s.drained j.toNat jb →
      ((s.sq jb.sq).releasing = false ∨ ∀ e ∈ (s.sq jb.sq).entries, e.phase = .complete ∨ jb.order ≤ e.job.getD jb.order) →
      Completes (.jobStoppedComplete j) s (over_ jb.stopCode)) ∧
    (jb.st = .running → jb.tlimit ≠ 0 →
      (ended → Completes (.jobTimeLimit j) s (over_ (jb.failCode.getD cDone))) ∧
      (¬ ended → Completes (.jobTimeLimit j) s (fun u =>
        ∃ v, u.job j.toNat = some v ∧ v.st = .stopping ∧ v.stopCode = cTimeout)))

/-- R252, R254 to R259, R261, R437. Pre-emption: a stop in place suspends the cores on a frame edge (`e` is the state there), and
what has not entered the armature stays back; once nothing of the job is in flight (in `e`) its context is saved and its
cores are free, or a non-resumable job completes PREEMPTED; resumed on a frame edge (`e`), each core runs on from its saved
context. Where nothing is due before (`calm`), what holds in `s` is enough. -/
def Obligations.JobsPreempt : Prop :=
  ∀ (s : State) (j : BitVec 32) (jb : Job), s.wf = true → s.gated = false → s.job j.toNat = some jb →
    (jb.st = .running → jb.stopIdx.isSome = true → jb.inPlace = false →
      (∃ k ∈ s.jobCores j.toNat, ∃ q, q < 4 ∧ ∃ x ∈ ((s.core k).dq q).entries, x.phase = .parked) →
      let e := s.toEdge (frameEdge s.now)
      s.calm = true ∨ (e.job j.toNat).map (·.st) = some .running →
      Completes (.stopInPlace j) s (fun u => u.now = e.now ∧
        (∃ v, u.job j.toNat = some v ∧ v.inPlace = true ∧ v.st = .running) ∧
        ∀ k ∈ s.jobCores j.toNat, ((e.core k).st.active = true → (u.core k).st = .suspended) ∧
          ∀ r ∈ (u.core k).sends, ∀ x ∈ r.slots, 2 * x.enter ≤ e.now)) ∧
    (s.jobMaySave j.toNat jb →
      let e := s.through (s.lastLanding j.toNat jb)
      ∀ jb1, e.job j.toNat = some jb1 → s.calm = true ∨ e.jobMaySave j.toNat jb1 →
      (jb1.nonres = false → Completes (.jobSuspend j) s (fun u =>
        (∃ v, u.job j.toNat = some v ∧ v.st = .suspended ∧ v.saved.length = (e.jobCores j.toNat).length) ∧
        (∀ k ∈ e.jobCores j.toNat, (u.core k).job = none ∧ (u.core k).st = .suspended) ∧
        ∀ c ∈ jb1.cast.clus, (u.clu c).saveJob = some j.toNat)) ∧
      (jb1.nonres = true → Completes (.jobSuspend j) s (fun u => u.job j.toNat = none ∧ u.jobAnswered e jb1 cPreempted))) ∧
    (s.jobMayResume jb →
      let e := s.toEdge (frameEdge s.now)
      ∀ jb1, e.job j.toNat = some jb1 → s.calm = true ∧ s.unarmed = true ∨ e.jobMayResume jb1 ∧ e.unarmed = true →
      (jb1.saved.map (·.key)).Nodup →
      Completes (.jobResume j) s (fun u => u.now = e.now ∧ (∃ v, u.job j.toNat = some v ∧ v.st = .running) ∧
        ∀ v ∈ jb1.saved, ∀ key, e.physOf (v.key / 16) (v.key % 16) = some key →
          let x := (e.core key).withContext (e.contextOf v)
          let c := u.core key
          c.job = some j.toNat ∧ c.pc = x.pc ∧ c.sreg = x.sreg ∧ c.preg = x.preg ∧ c.vreg = x.vreg ∧ c.tile = x.tile ∧
          c.stat = x.stat ∧ c.err = x.err ∧ c.aflags = x.aflags ∧ c.issued = x.issued ∧ c.ycount = x.ycount ∧
          c.istore = v.istore ∧ c.active = v.active ∧ c.bank0 = v.bank0 ∧ c.bank1 = v.bank1 ∧
          c.st = (if v.halted then .halted else if v.wait.isSome then .wait else if c.hold.isSome then .hold else .run)))

/-! ## DMA -/

/-- R413 to R415, R419. The check of a queue's COPY or FILL accepts it with its translations, or completes it with the first code that
Table 10.7 finds; a native entry that fails alone on a core queue retires then, with its completion word. -/
def Parts.DescriptorCheck : Prop :=
  (∀ (s : State) (n : Fin 512) (e : Entry), s.nextCheck (.sq n) = some e → s.qEntry (.sq n) e.seq = some e →
    (e.desc.op = 1 ∨ e.desc.op = 2) → s.ras.rsts = [] →
    let r := s.checkDma (.sq n) e.seq e.desc
    Completes (.dmaDescriptorCheck (.sq n)) s (fun u =>
      ∃ x, u.qEntry (.sq n) e.seq = some x ∧ x.desc = e.desc ∧
        match r.code with
        | none => x.phase = .accepted ∧ x.srcMap = r.srcMap ∧ x.dstMap = r.dstMap
        | some c => x.phase = .complete ∧ (s.qHeld (.sq n) = none ∨ c ≠ cDone → x.code = c ∧ x.part = false))) ∧
  (∀ (s : State) (k : CoreId) (q : Fin 4) (e : Entry), s.wf = true → s.gated = false → s.oneDue = true → s.unarmed = true →
    s.ras.rsts = [] → s.qEntries (.core k q) = [e] → e.phase = .waiting → s.qHeld (.core k q) = none →
    ((s.core (coreKey k)).dq q.val).chk = none → s.now ≤ ((s.core (coreKey k)).dq q.val).checkStart e →
    let r := s.checkDma (.core k q) e.seq e.desc
    Completes (.dmaDescriptorCheck (.core k q)) s (fun u =>
      match r.code with
      | none => ∃ x, u.qEntry (.core k q) e.seq = some x ∧ x.phase = .accepted ∧ x.desc = e.desc ∧
          x.srcMap = r.srcMap ∧ x.dstMap = r.dstMap
      | some c => u.qEntries (.core k q) = [] ∧
          (u.core (coreKey k)).cstore.bytes (0x1FC000 + q.val * 0x1000 + 8 * (e.seq % 512)) 8 = leBytes (e.seq + c * 2 ^ 32) 8))

/-- R421, R433. An accepted entry that nothing holds begins: one that moves bytes on its own pedestal in the cycle that its
cluster's channel gives it, another at once. -/
def Parts.EntryBegins : Prop :=
  ∀ (s : State) (q : QRef) (seq : BitVec 32) (e : Entry), s.qEntry q seq.toNat = some e → s.mayBegin q e = true → s.qRt8 q = false →
    let begun (u : State) : Prop :=
      ∃ x, u.qEntry q seq.toNat = some x ∧ x.phase = .running ∧ x.began = true ∧ x.desc = e.desc ∧ x.moved = e.moved ∧ u.mpa = s.mpa
    (s.onChip q e = false → Completes (.dmaEntryBegin q seq) s (fun u => begun u ∧ u.now = s.now)) ∧
    (s.onChip q e = true → s.gated = false → s.oneDue = true → s.now ≤ s.onChipAt q e →
      Completes (.dmaEntryBegin q seq) s (fun u => begun u ∧ u.now = s.onChipAt q e + 1))

/-- An entry of a DMA queue from its check to its first byte. -/
def Obligations.EntryAcceptance : Prop := Parts.DescriptorCheck ∧ Parts.EntryBegins

/-- R412, R422, R429. A begun entry moves its next segment: FILL writes the pattern, COPY the bytes read, to the translated
address; no other byte of plinth memory or HBM3 changes, and the progress is counted. A COPY that is accepted and has not
begun reads its next source segment ahead. -/
def Obligations.EntriesMoveBytes : Prop :=
  ∀ (s : State) (q : QRef) (seq : BitVec 32) (e : Entry) (a : Nat),
    let d := e.desc
    let off := e.moved % d.len
    let da := d.dst + e.moved / d.len * d.dstride + off
    let sa := d.src + e.moved / d.len * d.sstride + off
    let m := min (d.len - off) (64 - da % 64)
    s.qEntry q seq.toNat = some e → s.qRt8 q = false → s.unarmed = true → s.poison = [] →
    (e.phase = .running → e.moved < d.bytes → e.aheadBad = [] →
      s.spots q e.fn d.dk e.dstMap da m = [(some (.mpa a), m)] → s.inDram a m = true →
      let moved (bs : List Byte) (u : State) : Prop := u.mpa = Memory.write a bs s.mpa ∧
        ∃ x, u.qEntry q seq.toNat = some x ∧ x.moved = e.moved + m ∧ x.code = e.code
      (d.op = 2 → Completes (.fill q seq 1) s (moved (fillBytes d.fillv off m))) ∧
      (d.op = 1 →
        (∀ b, s.spots q e.fn d.sk e.srcMap sa m = [(some (.mpa b), m)] → s.inDram b m = true →
          Completes (.copy q seq 1 .ok) s (moved (s.mpa.bytes b m))) ∧
        (∀ f b, s.spots q e.fn d.sk e.srcMap sa m = [(some (.host f b), m)] →
          Completes (.copy q seq 1 .ok) s (moved ((s.hif f).mem.bytes b m))))) ∧
    (e.phase = .accepted → d.op = 1 → e.ahead < d.bytes →
      Completes (.copy q seq 1 .ok) s (fun u => u.mpa = s.mpa ∧ ∃ x, u.qEntry q seq.toNat = some x ∧ x.phase = .accepted ∧
        e.ahead < x.ahead ∧ x.moved = e.moved))

/-- R417 to R420, R424, R575. An entry whose last byte has landed completes with its code, ORDER_HELD behind a failure; the front
entry retires, a core queue's with its completion word, a host queue's with an entry of its CQ; entries behind it stay. -/
def Obligations.EntriesComplete : Prop :=
  (∀ (s : State) (q : QRef) (seq : BitVec 32) (e : Entry), s.qEntry q seq.toNat = some e → e.phase = .running → e.job = none →
    e.desc.bytes ≤ e.moved → s.onChip q e = false →
    Completes (.dmaEntryComplete q seq) s (fun u =>
      ∃ x, u.qEntry q seq.toNat = some x ∧ x.phase = .complete ∧
        x.code = if laterThan (s.qEntries q) (s.qHeld q) (((s.qEntries q).map (·.seq)).findIdx (· == seq.toNat))
          then cOrderHeld else e.code)) ∧
  (∀ (s : State) (k : CoreId) (q : Fin 4) (e : Entry) (rest : List Entry) (code : Nat) (part : Bool), s.wf = true →
    s.qEntries (.core k q) = e :: rest → e.phase = .complete → retireCode (e :: rest) (s.qHeld (.core k q)) = some (code, part) →
    retireCode rest (s.qHeld (.core k q)) = none →
    Completes (.dmaEntryRetire (.core k q)) s (fun u =>
      u.qEntries (.core k q) = rest ∧
      (u.core (coreKey k)).cstore.bytes (0x1FC000 + q.val * 0x1000 + 8 * (e.seq % 512)) 8 =
        leBytes (e.seq + code * 2 ^ 32 + (if part then 2 ^ 40 else 0)) 8)) ∧
  (∀ (s : State) (n : Fin 512) (f : Bool) (e : Entry) (rest : List Entry) (code : Nat) (part : Bool), s.wf = true →
    let x := s.sq n.val
    let c := s.cq (bits x.cfg.toNat 16 8)
    x.entries = e :: rest → e.phase = .complete → e.blind = false → retireCode (e :: rest) x.held = some (code, part) →
    retireCode rest x.held = none → x.releasing = false → c.owner = some f → c.heldC = [] → c.room = true →
    Completes (.dmaEntryRetire (.sq n)) s (fun u =>
      (u.sq n.val).entries = rest ∧ (u.cq (bits x.cfg.toNat 16 8)).tail = c.tail + 1 ∧
      (u.hif f).mem.bytes (c.base.toNat + 16 * (c.tail.toNat % 2 ^ cqSize c)) 16 =
        leBytes e.desc.tag 8 ++ leBytes e.seq 4 ++ [BitVec.ofNat 8 code,
          BitVec.ofNat 8 ((if c.phase then 1 else 0) + (if part then 2 else 0))] ++ leBytes n.val 2))

/-- R426, R427, R435. RESUME ends the hold and keeps the entries; CANCEL empties the queue and ends the hold; RETRY sets the
parked entry going again. A core in reset, or a module that is not ready, discards the command. -/
def Obligations.QueueCommands : Prop :=
  ∀ (s : State) (k : CoreId) (q : Fin 4),
    (s.coreInReset (coreKey k) = false →
      Completes (.resume k q) s (fun u =>
        u.qHeld (.core k q) = none ∧ u.qEntries (.core k q) = (s.qEntries (.core k q)).map (fun e =>
          if e.phase = .accepted ∧ e.stamp = s.now then { e with doomed := false } else e)) ∧
      ((∀ e ∈ s.qEntries (.core k q), e.job = none) →
        Completes (.cancel k q) s (fun u =>
          u.qHeld (.core k q) = none ∧ u.qEntries (.core k q) = [] ∧
          ((u.core (coreKey k)).dq q.val).faultDva = 0 ∧ ((u.core (coreKey k)).dq q.val).faultWrite = false)) ∧
      (∀ e, (s.qEntries (.core k q)).find? (fun e => e.phase == .parked) = some e →
        s.qEntry (.core k q) e.seq = some e →
        let s0 := (s.qUpd (.core k q) e.seq (fun e => { e with phase := .running })).updCore (coreKey k)
          (fun c => c.setDq q.val { c.dq q.val with faultWrite := false, faultDva := 0 })
        (s0.reach (.core k q) e.seq false).1 = true → ((s0.reach (.core k q) e.seq false).2.reach (.core k q) e.seq true).1 = true →
        Completes (.retry k q) s (fun u =>
          (∃ e', u.qEntry (.core k q) e.seq = some e' ∧ e'.phase = .running) ∧
          ((u.core (coreKey k)).dq q.val).faultDva = 0))) ∧
    (s.coreInReset (coreKey k) = true →
      exec (.resume k q) s = .next s ∧ exec (.cancel k q) s = .next s ∧ exec (.retry k q) s = .next s)

/-! ## Relief engines -/

/-- R346, R347, R350, R351. An idle engine starts the first queued command, with the code of the first condition that fails;
a command that completes lands its outputs, writes STATUS, clears GO and is counted. -/
def Obligations.ReliefCommands : Prop :=
  (∀ (s : State) (c : ClusId) (i : Nat) (rest : List Nat), s.gated = false → s.oneDue = true → s.unarmed = true →
    (s.clu (clusKey c)).relRun = none → (s.clu (clusKey c)).relQ = i :: rest →
    Completes (.reliefCommandStart c) s (fun u =>
      let r := RelRec.read (s.clu (clusKey c)).store i
      let code := s.relCheck (clusKey c) r
      (u.clu (clusKey c)).relQ = rest ∧ (u.clu (clusKey c)).store = (s.clu (clusKey c)).store ∧
      ∃ run, (u.clu (clusKey c)).relRun = some run ∧ run.idx = i ∧ run.code = code ∧
        run.startAt = max s.now (s.clu (clusKey c)).relReady ∧
        run.endAt = run.startAt + (if code = cDone then r.occupancy else 16) ∧
        run.out = if code ≠ cDone then [] else if r.isConv then (r.convOut (s.clu (clusKey c)).store).1
          else r.moveOut (s.clu (clusKey c)).store)) ∧
  (∀ (s : State) (c : ClusId) (r : RelRun), s.wf = true → s.gated = false → s.oneDue = true → (s.clu (clusKey c)).relRun = some r →
    Completes (.reliefCommandComplete c) s (fun u =>
      let d := u.clu (clusKey c)
      ((s.clu (clusKey c)).relQ = [] → d.relRun = none) ∧ d.relCount = (s.clu (clusKey c)).relCount + 1 ∧
      d.store.bytes (relBase r.idx + 4) 4 = leBytes (r.code + r.flags.toNat * 256) 4 ∧
      d.store.bytes (relBase r.idx + 0x3C) 4 = [0, 0, 0, 0] ∧
      ∀ x, (x < relBase r.idx + 4 ∨ relBase r.idx + 8 ≤ x) → (x < relBase r.idx + 0x3C ∨ relBase r.idx + 0x40 ≤ x) →
        d.store.byte x = Memory.byte (r.out.foldl (fun m o => Memory.write o.1 o.2 m) (s.clu (clusKey c)).store) x))
/-! ## Pixel engines -/

/-- R446, R447, R453. CTXSET puts the record read at ARG into the stream's place, and the stream's latent queue starts at its
first entry; CTXGET stores the record at ARG. Both then complete, DONE unless ARG cannot be written. -/
def Parts.ContextCommands : Prop :=
  ∀ (s : State) (g : EngId) (n : Fin 32) (c : RingCmd),
    let p := g.p.val
    let e := g.e.val
    let x := s.ctxOf p c.stream
    let r := s.pixRead p e c
    s.clean = true → s.pixNext p e c →
    (c.op = 1 → (ctxValid x = true → ctxClass x = c.ring % 4 ∧ ctxPeng x = e) → s.streamBusy p c.stream = false →
      let q := r.fetchDva p (if ctxValid x then ctxNiche x else n.val) c.arg 512
      let y := recordOf q.1
      q.2.1 = cDone → ctxOk p y = true → (ctxValid x = true ∨ (ctxClass y = c.ring % 4 ∧ ctxPeng y = e)) →
      (ctxValid y = true → s.badWithPlinth p (hPix (ctxPeng y)) = false ∧ s.bad p (hEnt (ctxEeng y)) = false) →
      exec (.ctxset g n) s = .next (((q.2.2.ctxWrite p c.stream y).updPed p
        (fun d => { d with lqIdx := Tbl.set 0 c.stream 0 d.lqIdx })).pixEnd p e c cDone)) ∧
    (c.op = 5 → ctxValid x = true → ctxClass x = c.ring % 4 → ctxPeng x = e →
      let q := r.storeDva p (ctxNiche x) c.arg (x.bytes 0 512)
      exec (.ctxget g) s = .next ((State.pixNote r p e q.1 q.2).pixEnd p e c q.1))

/-- R453, R456, R470, R477. A frame command of a valid stream, whose addresses translate and whose records are sound, begins: its
row counter stands at 0, and an ENCFRAME or DECFRAME has its free buffer. -/
def Parts.FrameBegins : Prop :=
  ∀ (s : State) (g : EngId) (c : RingCmd) (k : PixCmd),
    let p := g.p.val
    let e := g.e.val
    let x := s.ctxOf p c.stream
    let begun (u : State) : Prop := Tbl.get none (u.ped p).pixRun e = some k ∧ k.cmd = c ∧ k.row = 0 ∧
      k.ctx = startCtx c.op x k.fr
    s.clean = true → s.pixNext p e c → ctxValid x = true → ctxClass x = c.ring % 4 → ctxPeng x = e →
    ((s.pixRead p e c).pixBegin p c x).2.1 = some k →
    (c.op = 2 → Completes (.encframe g 0) s begun) ∧ (c.op = 3 → Completes (.decframe g 0) s begun) ∧
    (c.op = 4 → Completes (.recon g 0) s begun)

/-- R455, R459 to R474. A running frame command does its next block row, where its reads meet no error; after the last row an
ENCFRAME is in the rate controller's hands and a DECFRAME or RECON has ended; a higher ring's command pre-empts it at a row
boundary, its NEXTROW saved. -/
def Parts.FrameRows : Prop :=
  ∀ (s : State) (g : EngId) (k : PixCmd),
    let p := g.p.val
    let e := g.e.val
    let running (u : State) := Tbl.get none (u.ped p).pixRun e
    let r := s.pixRow p e k
    let last : Prop := ctxRows k.ctx ≤ k.row + 1
    running s = some k →
    (s.pixHigher p e k = false → lostCode s r.2.2 r.1 = cDone →
      r.2.1.row = k.row + 1 ∧ r.2.1.cmd = k.cmd ∧ r.2.1.ctx = k.ctx ∧
      (k.cmd.op = 2 → Completes (.encframe g 1) s (fun u =>
        (¬ last → running u = some r.2.1) ∧ (last → running u = none ∧ ∃ f ∈ (u.ped p).frames, f.pix = r.2.1))) ∧
      (k.cmd.op = 3 → Completes (.decframe g 1) s (fun u =>
        (¬ last → running u = some r.2.1) ∧ (last → running u = none))) ∧
      (k.cmd.op = 4 → Completes (.recon g 1) s (fun u =>
        (¬ last → running u = some r.2.1) ∧ (last → running u = none)))) ∧
    (s.pixHigher p e k = true → Completes (.pixRowBoundary g) s (fun u =>
      running u = none ∧ ∃ k1, (e, k1) ∈ (u.ped p).pixSaved ∧ k1.row = k.row ∧ k1.cmd = k.cmd ∧
        k1.ctx.le 0x184 4 = k.row % 2 ^ 32))

/-- The commands of the pixel engines. -/
def Obligations.PixelCommands : Prop := Parts.ContextCommands ∧ Parts.FrameBegins ∧ Parts.FrameRows

/-! ## Command rings of the media engines -/

/-- R457, R496, R550, R660. A producer index that the ring has room for is taken, another sets OVERRUN and is not; RESUME ends
the hold; CANCEL completes every command of the ring but a running Skim job, which stops at its next boundary. An engine in
reset discards the writes. -/
def Obligations.RingRegisters : Prop :=
  ∀ (s : State) (g : EngId) (c : Fin 4) (v : BitVec 16),
    let p := g.p.val
    let tail (key : Nat) (u : State) : Prop :=
      if (v - (s.ring p key).head).toNat ≤ (s.ring p key).cap then (u.ring p key).tail = v
      else (u.ring p key).tail = (s.ring p key).tail ∧ (u.ring p key).overrun = true
    let resumed (key : Nat) (u : State) : Prop :=
      (u.ring p key).held = false ∧ (u.ring p key).overrun = false ∧ (u.ring p key).tail = (s.ring p key).tail
    let emptied (key : Nat) (u : State) : Prop :=
      (u.ring p key).held = false ∧ (u.ring p key).out = [] ∧ (u.ring p key).take = (u.ring p key).tail
    let up (kind : Nat) : Prop := s.engInReset p kind (if kind = 2 then 0 else g.e.val) = false ∧ 11 ≤ s.pwr.phase
    (up 0 → Completes (.pixRtailWrite g c v) s (tail (ringKey 0 g.e.val c.val)) ∧
      Completes (.pixResume g c) s (resumed (ringKey 0 g.e.val c.val)) ∧
      Completes (.pixCancel g c) s (emptied (ringKey 0 g.e.val c.val))) ∧
    (up 1 → Completes (.entRtailWrite g c v) s (tail (ringKey 1 g.e.val c.val)) ∧
      Completes (.entResume g c) s (resumed (ringKey 1 g.e.val c.val)) ∧
      Completes (.entCancel g c) s (emptied (ringKey 1 g.e.val c.val))) ∧
    (up 2 → Completes (.skmRtailWrite g.p c v) s (tail (ringKey 2 0 c.val)) ∧
      Completes (.skmResume g.p c) s (resumed (ringKey 2 0 c.val)) ∧
      Completes (.skmCancel g.p c) s (fun u =>
        (u.ring p (ringKey 2 0 c.val)).held = false ∧ (u.ring p (ringKey 2 0 c.val)).take = (u.ring p (ringKey 2 0 c.val)).tail ∧
        ∀ j, (s.ped p).skmRun = some j → j.cmd.ring = ringKey 2 0 c.val →
          ∃ j1, (u.ped p).skmRun = some j1 ∧ j1.cmd = j.cmd ∧ j1.stop = true)) ∧
    (s.engInReset p 0 g.e.val = true → exec (.pixRtailWrite g c v) s = .next s ∧ exec (.pixResume g c) s = .next s ∧
      exec (.pixCancel g c) s = .next s)

/-! ## Entropy engines -/

/-- R505, R507, R523, R528, R533. ECTXSET stores the stream record and restarts the stream's audio and output queues; ETABLOAD
fills a static table slot; ESTREAM and AENCODE leave a unit to be written. -/
def Parts.EntropyCommands : Prop :=
  ∀ (s : State) (g : EngId) (c : RingCmd),
    let p := g.p.val
    let e := g.e.val
    let x := (s.entPreempt p e).ctxOf p c.stream
    let y := (s.entPreempt p e).srecOf p c.stream
    let niche := ctxNiche x
    let r := s.entRead p e c
    s.clean = true → s.entNext p e c → entStream e c x y = true →
    (c.op = 1 → s.inFlight p c.stream = false →
      let b := r.fetchDva p niche c.arg 128
      b.2.1 = cDone → srecOk p x (recordOf b.1) = true →
      exec (.ectxset g) s = .next (((b.2.2.mpaStore (recAddr b.2.2 p c.stream) b.1).updPed p
        (fun z => { z with alqIdx := Tbl.set 0 c.stream 0 z.alqIdx, oqIdx := Tbl.set 0 c.stream 0 z.oqIdx })).entEnd p e c cDone)) ∧
    (c.op = 2 →
      let b := r.fetchDva p niche c.arg 16
      let f := fun o n => leNat ((b.1.drop o).take n)
      let t := b.2.2.fetchDva p niche (f 0 8) (520 * f 8 2)
      b.2.1 = cDone → between 1 126 (f 8 2) = true → f 10 1 ≤ 15 → f 11 5 = 0 → s.slotUsed p e (f 10 1) = false → t.2.1 = cDone →
      Completes (.etabload g) s (fun u =>
        Tbl.get 0 (u.ped p).etabN (16 * e + f 10 1) = f 8 2 ∧
        (u.ped p).etab.bytes ((16 * e + f 10 1) * 65536) t.1.length = t.1)) ∧
    (c.op = 5 → Completes (.estream g) s (fun u =>
      ∃ v ∈ (u.ped p).units, v.for_ = .cmd c ∧ v.stream = c.stream ∧ v.bytes.length = 52 ∧ v.audio = false)) ∧
    (c.op = 4 → r.counterReady (srAlqfill y) = true →
      let n := Tbl.get 0 (r.ped p).alqIdx c.stream
      let s1 := (r.took (srAlqfill y)).updPed p (fun d => { d with alqIdx := Tbl.set 0 c.stream (n + 1) d.alqIdx })
      let q := s1.lqRead p niche (srAlatq y + 64 * (n % 2 ^ srAlqk y))
      ∀ v, q.1 = some v →
      let b := q.2.2.fetchDva p niche v.sym (4 * v.nsym)
      b.2.1 = cDone →
      (encElements ⟨p, e, niche, v.tbl, v.ntbl, (srSet y (srSetB y)).1⟩ (wordsOf b.1 v.nsym) ⟨cDone, [], 0, b.2.2⟩ Enc.init).1.code
        = cDone →
      Completes (.aencode g) s (fun u =>
        ∃ v ∈ (u.ped p).units, v.for_ = .cmd c ∧ v.stream = c.stream ∧ v.audio = true))

/-- R522, R525 to R527. DECUNIT begins to decode a video unit whose parts are sound and whose addresses translate: no row is
decoded, its regions and substreams are those of the unit. -/
def Parts.UnitBegins : Prop :=
  ∀ (s : State) (g : EngId) (c : RingCmd) (pay : List Byte) (rois : List (Nat × Nat × Nat × Nat × Int)) (subs : List (List Byte))
    (slot : Nat),
    let p := g.p.val
    let e := g.e.val
    let x := (s.entPreempt p e).ctxOf p c.stream
    let y := (s.entPreempt p e).srecOf p c.stream
    let niche := ctxNiche x
    let r := (s.entRead p e c).fetchDva p niche c.arg 32
    let f := fun o n => leNat ((r.1.drop o).take n)
    let b := r.2.2.fetchDva p niche (f 0 8) (f 8 4)
    s.clean = true → s.entNext p e c → c.op = 3 → entStream e c x y = true → r.2.1 = cDone → b.2.1 = cDone →
    unitOf b.1 = some (2, pay) → videoParts x pay = some (rois, subs) → epochSlot y (beNat ((pay.drop 14).take 2)) = some slot →
    (b.2.2.needs p niche [⟨f 16 8, ctxMfBytes x, true⟩, ⟨f 24 8, 64, true⟩, ⟨ctxQmap x, ctxCols x * ctxRows x, true⟩,
      ⟨ctxLatq x, 64 * 2 ^ ctxLqk x, true⟩]).1 = none →
    Completes (.decunit g) s (fun u =>
      ∃ d ∈ (u.ped p).decs, d.cmd = c ∧ d.subs = subs ∧ d.rois = rois ∧ d.slot = slot ∧ d.row = 0)

/-- R490 to R492, R513, R518 to R530, R534. LATENT_ENTRY_TAKE codes the frame's next row; DECODE_ENTRY_TAKE and TBLRDY_TAKE
take the next prepared entry; UNIT_WRITE takes the next output descriptor, and the unit is no longer waiting. -/
def Parts.EntropyRows : Prop :=
  ∀ (s : State) (g : EngId) (stream : BitVec 12),
    let p := g.p.val
    let e := g.e.val
    let d0 := s.ped p
    (∀ (f : EncFrame) (q : LqEntry),
      let id := ctxLqfill f.ctx
      let n := Tbl.get 0 d0.lqIdx stream.toNat
      let s1 := (s.took id).updPed p (fun x => { x with lqIdx := Tbl.set 0 stream.toNat (n + 1) x.lqIdx })
      let r := s1.lqRead p (ctxNiche f.ctx) (ctxLatq f.ctx + 64 * (n % 2 ^ ctxLqk f.ctx))
      let b := r.2.2.fetchDva p (ctxNiche f.ctx) q.sym (4 * q.nsym)
      d0.frames.find? (fun f => f.eeng == e && f.pix.cmd.stream == stream.toNat && decide (f.row < f.rows)) = some f →
      s.counterReady id = true → r.1 = some q → q.row = f.row →
      (f.carry.isSome = true ∨ (b.2.1 = cDone ∧
        (encRow f ⟨p, f.eeng, ctxNiche f.ctx, q.tbl, q.ntbl, f.slot⟩ (wordsOf b.1 q.nsym) b.2.2).1.code = cDone)) →
      Completes (.latentEntryTake g stream) s (fun u =>
        Tbl.get 0 (u.ped p).lqIdx stream.toNat = n + 1 ∧ ∃ f1 ∈ (u.ped p).frames, f1.row = f.row + 1 ∧ f1.pix.cmd = f.pix.cmd)) ∧
    (∀ d : DecUnit,
      let idx (u : State) := Tbl.get 0 (if d.audio then (u.ped p).alqIdx else (u.ped p).lqIdx) stream.toNat
      d0.decs.find? (fun d => d.eeng == e && d.cmd.stream == stream.toNat && d.entry.isNone && !d.saved) = some d →
      s.entPick p e = none → s.counterReady d.free = true →
      Completes (.decodeEntryTake g stream) s (fun u => u = (s.took d.free).takeDec p d ∧ idx u = idx s + 1)) ∧
    (∀ (d : DecUnit) (q : LqEntry),
      let r := s.lqRead p d.niche (d.entry.getD 0)
      d0.decs.find? (fun d => d.eeng == e && d.cmd.stream == stream.toNat && d.entry.isSome && !d.saved) = some d →
      r.1 = some q → r.2.2.counterReady q.tblrdy = true →
      exec (.tblrdyTake g stream) s = .next ((r.2.2.took q.tblrdy).takeMain p (d.entry.getD 0) d q s)) ∧
    (∀ v : PendUnit, d0.units.find? (fun u => u.eeng == e && u.stream == stream.toNat) = some v →
      s.counterReady (srOqfree (s.srecOf p stream.toNat)) = true →
      Completes (.unitWrite g stream) s (fun u =>
        v ∉ (u.ped p).units ∧ Tbl.get 0 (u.ped p).oqIdx stream.toNat = Tbl.get 0 d0.oqIdx stream.toNat + 1))

/-- The commands of the entropy engines, and the rows and units that they code. -/
def Obligations.EntropyEngineCommands : Prop := Parts.EntropyCommands ∧ Parts.UnitBegins ∧ Parts.EntropyRows

/-! ## Skim -/

/-- R541, R542, R546, R550. A job whose record is sound and whose addresses translate begins; a running job does its next block;
when its work is done it ends; at a block boundary a cancelled job ends and one that must give way is saved. -/
def Obligations.SkimCommands : Prop :=
  (∀ (s : State) (p : Fin 20) (c : RingCmd),
    let t := s.ringTake p.val c.ring
    let en := t.readRun (Rec.base 0 1 0 (some p.val) none) (ringAddr p.val (t.ring p.val c.ring) c.idx) 64
    let b := en.2.2.fetchDva p.val (skmNiche c) c.arg 64
    let j := recordOf b.1
    let m := b.2.2.needs p.val (skmNiche c) (skimNeeds (c.op == 1) c.arg j)
    let begun (u : State) : Prop := (u.ped p.val).skmRun = some ⟨c, j, m.2.1, 0, 0, 0, false⟩
    s.clean = true → s.skmNext p.val c → b.2.1 = cDone → (c.cen = true → (s.niche (skmNiche c)).ownsCtr c.ctr = true) →
    skimCheck (skimEntryBad en.1) false j = none → skimOutside (c.op == 1) j = false → m.1 = none →
    (c.op = 1 → Completes (.compress p 0) s begun) ∧ (c.op = 2 → Completes (.decompress p 0) s begun)) ∧
  (∀ (s : State) (p : Fin 20) (j : SkimJob), (s.ped p.val).skmRun = some j →
    let next (r : Nat × SkimJob × State) (u : State) : Prop :=
      (u.ped p.val).skmRun = if r.2.1.finished then none else some r.2.1
    (j.finished = false → j.stop = false → s.skmHigher p.val j = false →
      (j.cmd.op = 1 → (s.packBlock p.val j).1 = cDone → (s.packBlock p.val j).2.1.block = j.block + 1 ∧
        Completes (.compress p 1) s (next (s.packBlock p.val j))) ∧
      (j.cmd.op = 2 → (s.unpackBlock p.val j).1 = cDone → (s.unpackBlock p.val j).2.1.block = j.block + 1 ∧
        Completes (.decompress p 1) s (next (s.unpackBlock p.val j)))) ∧
    (j.stop = true → Completes (.skimBlockBoundary p) s (fun u => (u.ped p.val).skmRun = none)) ∧
    (j.stop = false → s.skmHigher p.val j = true →
      Completes (.skimBlockBoundary p) s (fun u => (u.ped p.val).skmRun = none ∧ j ∈ (u.ped p.val).skmSaved)))

/-! ## Host queues -/

/-- R570, R571, R582. SQ_FETCH reads the 64 bytes at the head as the next entry, which takes the next sequence number; a failed
read completes the entry at once, without TAG or signal, with the code of the failure; no read times out while the function's
completion timeout is disabled (Table 14.1). -/
def Parts.QueueFetch : Prop :=
  ∀ (s : State) (n : Fin 512) (f : Bool),
    let q := s.sq n.val
    let a := q.base.toNat + 64 * (q.head.toNat % 2 ^ sqSize q)
    let failed (code : Nat) (u : State) : Prop :=
      (u.sq n.val).head = q.head + 1 ∧ (u.sq n.val).next = q.next + 1 ∧
      ∃ e, (u.sq n.val).entries.map (·.seq) = q.entries.map (·.seq) ++ [e.seq] ∧ u.qEntry (.sq n) q.next.toNat = some e ∧
        e.phase = .complete ∧ e.code = code ∧ e.blind = true ∧ (u.hif f).err = (s.hif f).err ||| 2
    s.mayFetch n.val f → s.unarmed = true →
    Completes (.sqFetch n .ok) s (fun u =>
      (u.sq n.val).head = q.head + 1 ∧ (u.sq n.val).next = q.next + 1 ∧
      (u.sq n.val).entries = q.entries ++
        [{ Entry.new q.next.toNat (Desc.ofBytes ((s.hif f).mem.bytes a 64) hostBad) s.now with fn := f }] ∧
      u.sameCompute s ∧ u.sameUnits s ∧ u.cqs = s.cqs) ∧
    ((∀ e ∈ q.entries, e.seq ≠ q.next.toNat) →
      Completes (.sqFetch n .unsupported) s (failed cUncorrectable) ∧
      Completes (.sqFetch n .poisoned) s (failed cPoisonedInput) ∧
      ((s.hif f).cfg.ctoOff = false → Completes (.hostReadTimeout n none) s (failed cTimeout)) ∧
      ((s.hif f).cfg.ctoOff = true → exec (.hostReadTimeout n none) s = .next s))

/-- R573, R569. An accepted JOBRUN stages a job of its cast with the 64 bytes at ARGS as s0 to s7, its seed and its limit; one
that a condition of R573 stops completes with the code of that condition. -/
def Parts.JobrunCommand : Prop :=
  ∀ (s : State) (n : Fin 512) (e : Entry), s.wf = true → s.unarmed = true → s.checksNext n 8 e →
    let failed (code : Nat) (u : State) : Prop :=
      (∃ x, u.qEntry (.sq n) e.seq = some x ∧ x.phase = .complete ∧ x.code = code) ∧ u.nextJob = s.nextJob
    (∀ c, s.jobrunOk n e.desc c → s.ras.rsts = [] → s.qHeld (.sq n) = none →
      Completes (.jobrun n .ok) s (fun u =>
        u.nextJob = s.nextJob + 1 ∧
        (∃ j, u.job s.nextJob = some j ∧ j.st = .staged ∧ j.niche = s.qNiche (.sq n) ∧ j.cls = (s.niche j.niche).cls ∧
          j.cast = c ∧ j.args = argWords ((s.hif e.fn).mem.bytes e.desc.args 64) ∧ j.seed = e.desc.seed ∧
          j.tlimit = e.desc.tlimit ∧ j.nonres = e.desc.nonres ∧ j.sq = n.val ∧ j.seq = e.seq ∧ j.bar = e.desc.bar) ∧
        (∃ x, u.qEntry (.sq n) e.seq = some x ∧ x.phase = .accepted ∧ x.job = some s.nextJob) ∧
        u.cores = s.cores ∧ u.clus = s.clus ∧ u.mpa = s.mpa ∧ u.casts = s.casts)) ∧
    (∀ c, s.jobrunCode n e.desc = some c → Completes (.jobrun n .ok) s (failed c)) ∧
    (∀ (c : Cast) (f : Bool) (k : BitVec 32), s.jobrunOk n e.desc c → k.toNat = e.seq → (s.sq n.val).owner = some f →
      (s.hif f).cfg.ctoOff = false → Completes (.hostReadTimeout n (some k)) s (failed cTimeout))

/-- R574, R790, R244. CASTLOAD reads and checks the cast and makes it the handle's, or completes with the code of the first
condition; CASTDROP frees the handle; a handle in use answers BUSY. -/
def Parts.CastCommands : Prop :=
  ∀ (s : State) (n : Fin 512) (e : Entry),
    let nc := s.qNiche (.sq n)
    let done (c : Nat) (u : State) : Prop := ∃ x, u.qEntry (.sq n) e.seq = some x ∧ x.phase = .complete ∧ x.code = c
    let others (u : State) : Prop := ∀ k, k ≠ 64 * nc + e.desc.castHandle → Tbl.get none u.casts k = Tbl.get none s.casts k
    s.fenceMet (.sq n) e = true → s.qHeld (.sq n) = none →
    (s.checksNext n 9 e → s.castOk n e.desc →
      let r := s.castRead (.sq n) e.seq e.desc
      let l := r.2.2.loadCast nc e.desc.len r.2.1
      r.1 = cDone →
      (∀ c, l = (cDone, some c) →
        Completes (.castload n) s (fun u => u.cast nc e.desc.castHandle = some c ∧ others u ∧ done cDone u)) ∧
      (l.1 ≠ cDone → Completes (.castload n) s (fun u => u.casts = s.casts ∧ done l.1 u))) ∧
    (s.checksNext n 10 e →
      (s.castOk n e.desc →
        Completes (.castdrop n) s (fun u => u.cast nc e.desc.castHandle = none ∧ others u ∧ done cDone u)) ∧
      (∀ k, s.castCode n e.desc = some k → Completes (.castdrop n) s (fun u => u.casts = s.casts ∧ done k u)))

/-- Entries of a host queue: fetch, JOBRUN, CASTLOAD and CASTDROP. -/
def Obligations.HostEntries : Prop := Parts.QueueFetch ∧ Parts.JobrunCommand ∧ Parts.CastCommands

/-- R565 to R567, R581. The configuration of a queue and its doorbell: an SQ is enabled with its indexes at 0 on a CQ and a
niche of the function, refused with CFGERR otherwise, and disabled once empty; an index out of range sets OVERRUN, on a CQ
also when it is disabled. -/
def Parts.HostQueueRegisters : Prop :=
  ∀ (s : State) (f : Bool) (n : Fin 512) (v : Word), s.hostActs f true = true →
    let q := s.sq n.val
    let c := s.cq n.val
    (mayWrite f q.owner = true → q.releasing = false →
      (bitAt q.cfg.toNat 31 = false → bitAt v.toNat 31 = true →
        Completes (.hifSqcfgWrite f n v) s (fun u =>
          if s.sqCfgOk f v then
            (u.sq n.val).cfg = v &&& sqCfgMask ∧ (u.sq n.val).owner = some f ∧ (u.sq n.val).head = 0 ∧ (u.sq n.val).tail = 0 ∧
            (u.sq n.val).cfgerr = false ∧ (u.sq n.val).next = q.next
          else (u.sq n.val) = { q with cfgerr := true })) ∧
      (bitAt q.cfg.toNat 31 = true → bitAt v.toNat 31 = false →
        Completes (.hifSqcfgWrite f n v) s (fun u =>
          if q.entries = [] then bitAt (u.sq n.val).cfg.toNat 31 = false ∧ (u.sq n.val).owner = none else u.sq n.val = q)) ∧
      (bitAt q.cfg.toNat 31 = true → q.stopped = false →
        Completes (.hifSqtailWrite f n v) s (fun u =>
          if (v.setWidth 16 - q.head).toNat ≤ 2 ^ sqSize q then u.sq n.val = { q with tail := v.setWidth 16 }
          else u.sq n.val = { q with overrun := true }))) ∧
    (mayWrite f c.owner = true → c.releasing = false →
      (bitAt c.cfg.toNat 31 = false → bitAt v.toNat 31 = true →
        Completes (.hifCqcfgWrite f n v) s (fun u =>
          if 4 ≤ bits v.toNat 3 0 then
            (u.cq n.val).cfg = v &&& cqCfgMask ∧ (u.cq n.val).owner = some f ∧ (u.cq n.val).head = 0 ∧ (u.cq n.val).tail = 0 ∧
            (u.cq n.val).phase = true
          else u.cq n.val = { c with cfgerr := true })) ∧
      Completes (.hifCqheadWrite f n v) s (fun u =>
        if (v.setWidth 16 - c.head).toNat ≤ (c.tail - c.head).toNat then (u.cq n.val).head = v.setWidth 16
        else u.cq n.val = { c with overrun := true }))

/-- R426, R427, R578, R579, R580, R598. RESUME, CANCEL and START of a host queue, and the end of an aggregation interval. -/
def Parts.HostQueueCommands : Prop :=
  ∀ (s : State) (f : Bool) (n : Fin 512), s.hostActs f true = true →
    let q := s.sq n.val
    let c := s.cq n.val
    (q.owner = some f →
      Completes (.sqResume f n) s (fun u => (u.sq n.val).held = none ∧ (u.sq n.val).overrun = false ∧
        (u.sq n.val).entries = q.entries.map (fun e =>
          if e.phase = .accepted ∧ e.stamp = s.now then { e with doomed := false } else e)) ∧
      ((∀ e ∈ q.entries, e.job = none) → (∀ kv ∈ s.jobs, ∀ j, kv.2 = some j → j.sq ≠ n.val) →
        Completes (.sqCancel f n) s (fun u => (u.sq n.val).entries = [] ∧ (u.sq n.val).held = none)) ∧
      (q.stopped = true → q.releasing = false →
        Completes (.sqStart f n) s (fun u => u.sq n.val = { q with head := 0, tail := 0, stopped := false, overrun := false }))) ∧
    (c.owner = some f → c.stopped = true → c.releasing = false →
      Completes (.cqStart f n) s (fun u => (u.cq n.val).head = 0 ∧ (u.cq n.val).stopped = false ∧ (u.cq n.val).owner = some f ∧
        (c.heldC = [] → (u.cq n.val).tail = 0 ∧ (u.cq n.val).phase = true))) ∧
    (c.aggBusy = true →
      (c.aggPend = false → Completes (.msixAggregationEnd n) s (fun u => u.cq n.val = { c with aggBusy := false } ∧ u.sent = s.sent)) ∧
      (c.aggPend = true → bitAt c.cfg.toNat 30 = true → c.owner = some f →
        (s.hif f).canSend (bits c.cfg.toNat 18 8) = true →
        Completes (.msixAggregationEnd n) s (fun u => (u.cq n.val).aggPend = false ∧
          u.sent = s.sent ++ [.msix f (bits c.cfg.toNat 18 8)])))

/-- Registers, doorbells and commands of the host queues. -/
def Obligations.HostQueueControl : Prop := Parts.HostQueueRegisters ∧ Parts.HostQueueCommands

/-- Registers of the host queues, of the event ring and of configuration space touch no core, cluster, job, cast, niche,
pedestal or byte of plinth memory or HBM3. -/
def Obligations.HostRegistersFrame : Prop :=
  ∀ (s u : State) (f : Bool) (n : Fin 512) (v : Word) (w : CfgWrite),
    ∀ i ∈ [Instr.hifSqcfgWrite f n v, .hifCqcfgWrite f n v, .hifSqtailWrite f n v, .hifCqheadWrite f n v, .sqResume f n,
        .sqStart f n, .cqStart f n, .msixAggregationEnd n, .hifEvcfgWrite f v, .hifEvlostRead f, .linkUp f,
        .configurationSpaceWrite f w],
      exec i s = .next u → u.sameCompute s ∧ u.sameUnits s

/-! ## PCIe ports -/

/-- R16, R585, R587. HIF_EVCFG takes a legal size, and a ring enabled starts at index 0 with PHASE 1; a size that Table 14.14
excludes changes nothing. A read of HIF_EVLOST answers the count and clears it, but for events of the same cycle, which stay
recorded. -/
def Parts.EventRing : Prop :=
  ∀ (s : State) (f : Bool) (v : Word), s.hostActs f true = true →
    let h := s.hif f
    let sz := bits v.toNat 3 0
    Completes (.hifEvcfgWrite f v) s (fun u =>
      if sz = 0 ∨ (4 ≤ sz ∧ sz ≤ 12) then
        (h.taken = none → (u.hif f).evcfg = v &&& evCfgMask ∧
          (evSize h = 0 → sz ≠ 0 → (u.hif f).evhead = 0 ∧ (u.hif f).evtail = 0 ∧ (u.hif f).evphase = true)) ∧
        u.sqs = s.sqs ∧ u.cqs = s.cqs
      else u = s) ∧
    let new := (s.freshAt (fnReg f evlostOff)).setWidth 32
    Completes (.hifEvlostRead f) s (fun u =>
      u.sent = s.sent ++ [.read (fnNum f) (leBytes (h.evlost - new).toNat 4) false] ∧ u.hif f = { h with evlost := new } ∧
      u.sameCompute s ∧ u.sameUnits s ∧ u.sameQueues s)

/-- R560 to R563. BAR2 reads and writes the bytes at HIF_B2BASE plus the offset; no other byte changes. A Resizable BAR change
sets the size and drops the base bits below it. -/
def Parts.Bar2Commands : Prop :=
  ∀ (s : State) (f : Bool) (off : BitVec 64), s.hostActs f true = true →
    let h := s.hif f
    let a := h.b2base.toNat + off.toNat
    (∀ len, len ≤ 4096 → off.toNat + len ≤ 2 ^ h.b2log → s.inDram a len = true → s.clean = true →
      Completes (.bar2Read f off len) s (fun u =>
        u.sent = s.sent ++ [.read (fnNum f) (s.mpa.bytes a len) false] ∧ u.sameCompute s)) ∧
    (∀ bs, off.toNat + bs.length ≤ 2 ^ h.b2log → s.inDram a bs.length = true → s.ras.rsts = [] → s.calm = true →
      Completes (.bar2Write f off bs false) s (fun u => u.mpa = Memory.write a bs s.mpa ∧
        u.cores = s.cores ∧ u.clus = s.clus ∧ u.jobs = s.jobs)) ∧
    (∀ n : Fin 7, Completes (.bar2Resize f n) s (fun u =>
      (u.hif f).b2log = 30 + n.val ∧ (u.hif f).b2base.toNat = h.b2base.toNat % 2 ^ 48 / 2 ^ (30 + n.val) * 2 ^ (30 + n.val) ∧
      u.sameCompute s ∧ u.sameUnits s ∧ u.sameQueues s))

/-- The event ring and BAR2 of a function. -/
def Obligations.EventRingAndBar2 : Prop := Parts.EventRing ∧ Parts.Bar2Commands

/-- R580, R597, R601, R772. A lost link stops the function's queues and clears its event ring and mailbox; it comes up again
once PERST_N is high and start-up has begun phase 6; a Function Level Reset frees its queues; configuration writes set their
field. -/
def Obligations.LinkCommands : Prop :=
  ∀ (s : State) (f : Bool), s.wf = true →
    let h := s.hif f
    (h.linkUp = true →
      Completes (.linkDown f) s (fun u => (u.hif f).linkUp = false ∧ (u.hif f).evcfg = 0 ∧ (u.hif f).mbx = h.mbx.cleared ∧
        (∀ n : Fin 512, (s.sq n.val).owner = some f → (u.sq n.val).stopped = true ∧ (u.sq n.val).tail = (s.sq n.val).head) ∧
        (∀ n, (s.cq n).owner = some f → (u.cq n).stopped = true)) ∧
      Completes (.functionLevelReset f) s (fun u => (u.hif f).bme = false ∧ (u.hif f).msixEn = false ∧ (u.hif f).evcfg = 0 ∧
        (u.hif f).b2log = 36 ∧ (u.hif f).mbx = h.mbx.cleared ∧
        (∀ n : Fin 512, (s.sq n.val).owner = some f → (s.sq n.val).entries = [] →
          (∀ kv ∈ s.jobs, ∀ j, kv.2 = some j → j.sq ≠ n.val) →
          u.sq n.val = (s.sq n.val).release)) ∧
      (∀ b, Completes (.configurationSpaceWrite f (.busMaster b)) s (fun u => (u.hif f).bme = b)) ∧
      (∀ b, Completes (.configurationSpaceWrite f (.msixEnable b)) s (fun u => (u.hif f).msixEn = b)) ∧
      (∀ b, Completes (.configurationSpaceWrite f (.msixMask b)) s (fun u => (u.hif f).msixMaskAll = b)) ∧
      (∀ b, Completes (.configurationSpaceWrite f (.d3hot b)) s (fun u => (u.hif f).d3 = b)) ∧
      (∀ k, k.toNat ≤ 2 → Completes (.configurationSpaceWrite f (.maxPayload k)) s (fun u => (u.hif f).cfg = { h.cfg with mps := k })) ∧
      (∀ k, k.toNat ≤ 5 →
        Completes (.configurationSpaceWrite f (.maxReadRequest k)) s (fun u => (u.hif f).cfg = { h.cfg with mrrs := k })) ∧
      (∀ b, Completes (.configurationSpaceWrite f (.tenBitTags b)) s (fun u => (u.hif f).cfg = { h.cfg with tag10 := b })) ∧
      (∀ (k : BitVec 4) b, k ∈ ([0, 1, 2, 5, 6, 9, 10, 13, 14] : List (BitVec 4)) →
        Completes (.configurationSpaceWrite f (.completionTimeout k b)) s
          (fun u => (u.hif f).cfg = { h.cfg with ctoRange := k, ctoOff := b })) ∧
      (∀ a b, Completes (.configurationSpaceWrite f (.aerClear a b)) s (fun u =>
        (u.hif f).cfg = { h.cfg with unc := h.cfg.unc &&& ~~~a, cor := h.cfg.cor &&& ~~~b })) ∧
      (∀ a b, Completes (.configurationSpaceWrite f (.aerMask a b)) s (fun u =>
        (u.hif f).cfg = { h.cfg with uncMask := a, corMask := b }))) ∧
    (h.linkUp = false → h.perstN = true → 6 ≤ s.pwr.phase → s.pwr.stop = 0 → s.bad (if f then 17 else 16) hPcie = false →
      Completes (.linkUp f) s (fun u => (u.hif f).linkUp = true)) ∧
    exec (.perstN f true) s = .next (s.updHif f (fun h => { h with perstN := true })) ∧
    Completes (.perstN f false) s (fun u => (u.hif f).perstN = false ∧ (u.hif f).linkUp = false ∧ (u.hif f).bme = false)

/-! ## Mailboxes -/

/-- R588 to R592. A word joins the sixteen of the command; SEND makes the words the outstanding command, unless one is outstanding
or their number is wrong; CLEAR drops them; an unknown OP is answered UNSUPPORTED. -/
def Parts.MailboxCommandWords : Prop :=
  ∀ (s : State) (f : Bool) (v : Word), s.hostActs f false = true →
    let m := s.mbx f
    let ws := m.h2m
    let kept (u : State) : Prop := u.sameCompute s ∧ u.sameUnits s ∧ u.sameQueues s ∧ (u.mbx f).m2h = m.m2h
    Completes (.mbxH2mData f v) s (fun u => kept u ∧
      if ws.length < 16 then u.mbx f = { m with h2m := ws ++ [v] } else u.mbx f = { m with stat := m.stat ||| 2 }) ∧
    Completes (.clear f) s (fun u => kept u ∧ u.mbx f = { m with h2m := [] }) ∧
    Completes (.send f) s (fun u => kept u ∧
      if m.cmd.isSome ∨ ws.length ≠ bits (ws.headD 0).toNat 11 8 + 1 then u.mbx f = { m with stat := m.stat ||| 2 }
      else (u.mbx f).h2m = [] ∧ (u.mbx f).cmd = some ws ∧
        (s.allUp = true → s.mgt.work = none → s.mgt.phase ≠ 4 →
          if knownOp (cmdOp ws) then (u.mbx f).reply = none ∧
            ((u.mgt.work.isSome = true) ↔ (cmdOp ws = 0x41 ∨ cmdOp ws = 0x42))
          else u.answered f cUnsupported 0))

/-- R590, R591, R792. A read takes the next word of the message, the acknowledgement ends it, the next message is presented then;
the controller's acknowledgement carries the token and the code, and MGT_STATUS is followed by its message. -/
def Parts.MailboxMessages : Prop :=
  ∀ (s : State) (f : Bool) (v : Word),
    let m := s.mbx f
    (s.hostActs f false = true →
      Completes (.mbxM2hDataRead f) s (fun u =>
        u.sent = s.sent ++ [.read (fnNum f) (leBytes (m.m2h.headD 0).toNat 4) false] ∧ u.mbx f = { m with m2h := m.m2h.tail }) ∧
      (m.sent = true → Completes (.mbxM2hAck f v) s (fun u =>
        u.mbx f = { m with sent := false, m2h := [], hostAck := v.setWidth 16 } ∧ u.sameCompute s))) ∧
    (∀ w rest, m.waiting = w :: rest → m.sent = false →
      Completes (.m2hMessageSend f) s (fun u => u.mbx f = { m with m2h := w, sent := true, waiting := rest })) ∧
    (∀ ws a, m.cmd = some ws → m.reply = some a → m.drop = false → s.mgt.work = none →
      Completes (.mailboxAcknowledgement f) s (fun u =>
        (u.mbx f).cmd = none ∧ (u.mbx f).reply = none ∧ (u.mbx f).stat.getLsbD 0 = true ∧
        (u.mbx f).ack = BitVec.ofNat 32 (cmdToken ws * 65536 + a.toNat) ∧
        (cmdOp ws ≠ 0x43 → u.mbx f = { m with cmd := none, reply := none, stat := m.stat ||| 1,
                                              ack := BitVec.ofNat 32 (cmdToken ws * 65536 + a.toNat) }) ∧
        (cmdOp ws = 0x43 → a.toNat % 256 = cDone → m.sent = false → m.waiting = [] →
          (u.mbx f).m2h = s.statusMsg (cmdToken ws) ∧ (u.mbx f).sent = true) ∧
        u.sameCompute s ∧ u.mgt = s.mgt))

/-- Both directions of a mailbox. -/
def Obligations.Mailboxes : Prop := Parts.MailboxCommandWords ∧ Parts.MailboxMessages

/-- R14, R49 to R53, R404, R592, R593, R791. NICHE_SET puts the record it reads in place, its windows on every pedestal without
their reserved bits; NICHE_CLEAR frees the niche; the niche of the other function answers PERMISSION and a number past 31
BAD_DESCRIPTOR. -/
def Parts.NicheCommands : Prop :=
  ∀ (s : State) (f : Bool) (ws : List Word),
    let n := cmdWord ws 1
    let r := s.readPlinth none (cmdAddr ws 2) 0x5080
    let nr := nicheRecOf (recordOf r.2.1)
    let others (u : State) : Prop := ∀ k, k ≠ n → u.niche k = s.niche k
    (s.commanded f 0x01 ws → 4 ≤ ws.length →
      (31 < n → Completes (.nicheSet f) s (fun u => u.niches = s.niches ∧ u.peds = s.peds ∧ u.answered f cBadDescriptor 0)) ∧
      (n ≤ 31 → (s.niche n).owner = some (!f) →
        Completes (.nicheSet f) s (fun u => u.niches = s.niches ∧ u.peds = s.peds ∧ u.answered f cPermission 0)) ∧
      (n ≤ 31 → (s.niche n).owner ≠ some (!f) → s.clean = true → r.1 = cDone →
        (nicheRecBad (recordOf r.2.1) = true →
          Completes (.nicheSet f) s (fun u => u.niches = s.niches ∧ u.answered f cBadDescriptor 0)) ∧
        (nicheRecBad (recordOf r.2.1) = false → s.nicheClash n nr = false → (clusOfMask nr.clus).all s.clusUsable = true →
          (s.nicheBusy n nr = true → Completes (.nicheSet f) s (fun u => u.niches = s.niches ∧ u.answered f cBusy 0)) ∧
          (s.nicheBusy n nr = false → Completes (.nicheSet f) s (fun u =>
            u.niche n = ⟨some f, nr.cls, nr.clus, nr.ctrs⟩ ∧ others u ∧ u.answered f cDone 0 ∧
            (∀ p w, p < 20 → w < 64 → Tbl.get 0 (u.ped p).win (64 * n + w) = Tbl.get 0 nr.win (64 * p + w) ∧
              Tbl.get 0 nr.win (64 * p + w) &&& winMask = Tbl.get 0 nr.win (64 * p + w)) ∧
            (∀ p k, k / 64 ≠ n → Tbl.get 0 (u.ped p).win k = Tbl.get 0 (s.ped p).win k)))))) ∧
    (s.commanded f 0x02 ws → 2 ≤ ws.length → n ≤ 31 → (s.niche n).owner = some f →
      s.nicheBusy n ⟨0, 0, [], []⟩ = false → s.sqNames n = false →
      Completes (.nicheClear f) s (fun u => u.niche n = Niche.reset ∧ others u ∧ u.answered f cDone 0 ∧
        ∀ p w, p < 20 → w < 64 → Tbl.get 0 (u.ped p).win (64 * n + w) = 0))

/-- R47, R48, R594 to R596, R599, R600. SLOT_LOAD makes the image it reads the shadow tables; TAKEOVER makes the function the owner of
the other's niches and of their queues, which stop. -/
def Parts.SlotLoadAndTakeover : Prop :=
  ∀ (s : State) (f : Bool) (ws : List Word),
    let r := s.readPlinth none (cmdAddr ws 1) 0xF0000
    let img := recordOf r.2.1
    (s.commanded f 0x03 ws → 3 ≤ ws.length → s.clean = true → r.1 = cDone →
      (imageBad (some img) s.dshare = true →
        Completes (.slotLoad f) s (fun u => u.slotShadow = s.slotShadow ∧ u.slots = s.slots ∧ u.answered f cBadDescriptor 0)) ∧
      (imageBad (some img) s.dshare = false → s.slotsBusy (some img) = false →
        Completes (.slotLoad f) s (fun u => u.slotShadow = some (img, s.now) ∧ u.slots = s.slots ∧ u.answered f cDone 0))) ∧
    (s.commanded f 0x04 ws → s.wf = true → 2 ≤ ws.length →
      (∀ n, n < 32 → bitAt (cmdWord ws 1) n = true → (s.niche n).owner = some (!f)) →
      Completes (.takeover f) s (fun u => u.answered f cDone 0 ∧
        (∀ n, n < 32 → (u.niche n).owner = if bitAt (cmdWord ws 1) n then some f else (s.niche n).owner) ∧
        (∀ n, (s.sq n).owner.isSome = true → bitAt (cmdWord ws 1) (bits (s.sq n).cfg.toNat 21 17) = true →
          u.sq n = { s.sq n with owner := some f, stopped := true, tail := (s.sq n).head } ∧
          ∀ c, c = bits (s.sq n).cfg.toNat 16 8 → (s.cq c).owner.isSome = true → (u.cq c).owner = some f ∧ (u.cq c).stopped = true)))

/-- Mailbox commands that divide the module. -/
def Obligations.NicheAndSlotCommands : Prop := Parts.NicheCommands ∧ Parts.SlotLoadAndTakeover

/-- R701, R702, R704, R710 to R712. FW_STAGE keeps a well-formed image; FW_INSTALL writes it to the slot that does not run once every row
of Table 18.2 passes; FW_ACTIVATE hands over to the preferred slot, or falls back. -/
def Parts.FirmwareCommands : Prop :=
  ∀ (s : State) (f : Bool) (ws : List Word),
    let r := s.readImage (cmdAddr ws 1) (cmdWord ws 3)
    (s.commanded f 0x40 ws → 4 ≤ ws.length → cmdWord ws 3 ≠ 0 → s.clean = true → r.1 = cDone →
      Completes (.fwStage f) s (fun u =>
        if r.2.1.formed 1 then u.mgt.staged = some r.2.1 ∧ u.answered f cDone 0
        else u.mgt.staged = s.mgt.staged ∧ u.mgt.lastfail = 1 ∧ u.answered f cFormatError 0)) ∧
    (∀ i, s.commanded f 0x41 ws → 2 ≤ ws.length → s.otherBusy f = false → s.mgt.opened ≠ 2 → s.mgt.staged = some i →
      Completes (.fwInstall f) s (fun u =>
        if i.check 1 s.mgt = 0 then u.mgt.img (!s.mgt.slot) = i ∧ u.mgt.slot = s.mgt.slot ∧ u.answered f cDone 0
        else u.mgt.img (!s.mgt.slot) = s.mgt.img (!s.mgt.slot) ∧ u.mgt.lastfail = i.check 1 s.mgt ∧
          u.answered f (rowCode (i.check 1 s.mgt)) 0)) ∧
    (∀ w, s.commanded f 0x42 ws → s.otherBusy f = false → s.mgt.work = some w →
      Completes (.fwActivate f) s (fun u =>
        if (s.mgt.img s.mgt.pref).check 1 s.mgt = 0 then u.mgt.work = some { w with slot := some s.mgt.pref } ∧ u.answered f cDone 0
        else u.mgt.work = some w ∧ u.answered f (rowCode ((s.mgt.img s.mgt.pref).check 1 s.mgt)) 0)) ∧
    (∀ w k, s.mgt.work = some w → w.install = false → w.slot = some k →
      Completes .fwActivateTimeout s (fun u => u.mgt.pref = s.mgt.slot ∧ u.mgt.slot = s.mgt.slot ∧ u.answered w.f cFormatError 1))

/-- R663, R706, R708, R709, R720 to R722. MGT_STATUS, CFG_SET, DBG_UNLOCK and its nonce, and the heartbeat. -/
def Parts.ControllerCommands : Prop :=
  ∀ (s : State) (f : Bool) (ws : List Word),
    (s.commanded f 0x43 ws → Completes (.mgtStatus f) s (fun u => u.answered f cDone 0 ∧ u.mgt = s.mgt)) ∧
    (s.commanded f 0x44 ws → 3 ≤ ws.length → Completes (.cfgSet f) s (fun u =>
      let v := cmdWord ws 2
      if cmdWord ws 1 = 1 ∧ v ≤ 2 then u.mgt = { s.mgt with cfgRepair := some v } ∧ u.answered f cDone 0
      else if cmdWord ws 1 = 2 ∧ (v = 512 ∨ v = 1024 ∨ v = 2048) then u.mgt = { s.mgt with cfgDshare := some v } ∧ u.answered f cDone 0
      else u.mgt = s.mgt ∧ u.answered f cBadDescriptor 0)) ∧
    (s.commanded f 0x48 ws → 3 ≤ ws.length → s.mgt.clearing = false → s.clean = true → s.jobs = [] →
      let r := s.readImage (cmdAddr ws 1) 2072
      let i := r.2.1
      r.1 = cDone →
      let f24 := fun o n => leNat ((i.body.drop o).take n)
      let row := if i.body.length = 24 then i.check 2 s.mgt else 1
      Completes (.dbgUnlock f) s (fun u =>
        if row ≠ 0 then u.mgt = { s.mgt with nonce := 0, lastfail := row } ∧ u.answered f (rowCode row) 0
        else if s.mgt.nonce = 0 ∨ f24 0 8 ≠ Config.uid.toNat ∨ f24 8 8 ≠ s.mgt.nonce.toNat then
          u.mgt = { s.mgt with nonce := 0 } ∧ u.answered f cAuthFailed 0
        else if (f24 16 4 ≠ 1 ∧ f24 16 4 ≠ 2) ∨ f24 20 4 ≠ 0 then
          u.mgt = { s.mgt with nonce := 0 } ∧ u.answered f cBadDescriptor 0
        else if f24 16 4 = 1 then u.mgt = { s.mgt with nonce := 0, opened := max 1 s.mgt.opened } ∧ u.answered f cDone 0
        else u.mgt.opened = 2 ∧ u.mgt.keysOk = false ∧ u.mgt.udsOff = true ∧ u.mpa = [] ∧
          (∀ k, (u.core k).cstore = [] ∧ (u.core k).istore = [] ∧ (u.core k).sreg = []) ∧ (∀ k, (u.clu k).store = []) ∧
          u.answered f cDone 0)) ∧
    (s.hostActs f false = true → Completes (.nonce f) s (fun u => u.mgt = { s.mgt with nonce := Config.trueRandom s.free })) ∧
    (s.mgt.phase = 1 → s.unarmed = true →
      Completes (.heartbeatCheck true) s (fun u => u.mgt = { s.mgt with misses := 0 }) ∧
      (s.mgt.misses < 49 → Completes (.heartbeatCheck false) s (fun u => u.mgt = { s.mgt with misses := s.mgt.misses + 1 })) ∧
      (s.mgt.misses = 49 → Completes (.heartbeatCheck false) s (fun u =>
        u.mgt.standby = (!s.mgt.standby) ∧ u.mgt.misses = 0 ∧ u.mgt.sessions = [] ∧
        (u.mbx f).cmd = (s.mbx f).cmd ∧ ((s.mbx f).cmd.isSome = true → u.answered f cResetAbort 0))))

/-- Mailbox commands to the management controller, and its heartbeat. -/
def Obligations.ControllerMailboxCommands : Prop := Parts.FirmwareCommands ∧ Parts.ControllerCommands

/-! ## Lath -/

/-- R612 to R614, R774. Training begins on a port that may train, ends as Table 15.2 says, this end's good-lane mask sent, and a port
whose cable or signal is gone is down, its unacknowledged blocks discarded. -/
def Obligations.PortTraining : Prop :=
  ∀ (s : State) (n : Fin 16),
    let p := s.port n.val
    let begun (u : State) : Prop :=
      (u.port n.val).st = pTraining ∧ (u.port n.val).act = 0 ∧ (u.port n.val).outgoing = [] ∧
      ∀ m, m ≠ n.val → u.port m = s.port m
    (s.portUsable n.val → p.present = true →
      (p.st = pDown → Completes (.portTrain n) s begun) ∧
      (p.st = 0 ∨ p.st = 4 ∨ p.st = 5 ∨ p.st = 6 → Completes (.trainingRetry n) s begun) ∧
      (∀ f, s.hostActs f true = true → Completes (.retrain f n) s begun)) ∧
    (s.portUsable n.val → p.st ≠ pTraining →
      Completes (.lpresN n false) s (fun u => begun u ∧ (u.port n.val).present = true)) ∧
    Completes (.lpresN n true) s (fun u => (u.port n.val).st = pDown ∧ (u.port n.val).present = false ∧ (u.port n.val).outgoing = []) ∧
    (p.isUp = true → Completes (.portDown n) s (fun u => (u.port n.val).st = pDown ∧ (u.port n.val).outgoing = [] ∧
      ∀ m, m ≠ n.val → u.port m = s.port m)) ∧
    (p.st = pTraining →
      (∀ ls, Completes (.trainingComplete n ls) s (fun u => u.port n.val = Port.trained Config.uid ls p ∧
        u.sent = s.sent ++ [.training n.val (trainMask ls).toNat])) ∧
      (∀ (ls : List TrainLane) (uid : BitVec 64), ls.length = 8 → uid ≠ Config.uid → (p.expuid = 0 ∨ p.expuid = uid) →
        (∀ l ∈ ls, l.fault = 0 ∧ l.uid = uid ∧ l.far = true) →
        Completes (.trainingComplete n ls) s (fun u =>
          (u.port n.val).st = pUp ∧ (u.port n.val).act = 0xFF ∧ (u.port n.val).nbruid = uid ∧ (u.port n.val).fault = 0 ∧
          u.sent = s.sent ++ [.training n.val 0xFF])))

/-- R605, R606, R608 to R611. On the lane whose turn it is, a data block in sequence is delivered and one out of sequence asks for replay,
ACK frees blocks, and a block that does not decode is lost; a block on another lane waits for the lanes before it. The replay
timer sends every unacknowledged block again, on the lanes in turn; a port that has replayed 16 times in vain trains again. -/
def Parts.LinkLayer : Prop :=
  ∀ (s : State) (n : Fin 16) (lane : Fin 8), (s.port n.val).isUp = true → s.unarmed = true →
    let p := s.port n.val
    (p.act.getLsbD lane.val = true → p.awaits (p.logOf lane.val) → p.rxMark ≠ some true →
      ∀ (ctl : BitVec 20) (data : List Byte) (fixed : Bool),
      Completes (.linkBlockReceive ⟨n, lane⟩ ctl data false fixed) s (fun u => u.lath.rx = s.lath.rx ∧
        (u.port n.val).rxSeq = p.rxSeq ∧ (u.port n.val).nak = p.nak ∧ (u.port n.val).unack = p.unack) ∧
      (ctl.getLsbD 19 = false →
        (ctl.getLsbD 18 = true → Completes (.linkBlockReceive ⟨n, lane⟩ ctl data true fixed) s (fun u =>
          if bits ctl.toNat 17 9 = (p.rxSeq + 1) % 512 then (u.port n.val).rxSeq = bits ctl.toNat 17 9 ∧ (u.port n.val).nak = false
          else (u.port n.val).rxSeq = p.rxSeq ∧ (u.port n.val).nak = true ∧ u.lath.rx = s.lath.rx)) ∧
        (∀ k d rest, p.unack = (k, d) :: rest → p.txq = [] → bits ctl.toNat 8 0 = k →
          Completes (.linkBlockReceive ⟨n, lane⟩ ctl data true fixed) s
            (fun u => (u.port n.val).unack = rest ∧ (u.port n.val).replays = 0)))) ∧
    (∀ l, p.act.getLsbD lane.val = true → p.awaits l → l ≠ p.logOf lane.val →
      ∀ (ctl : BitVec 20) (data : List Byte) (fixed : Bool),
      Completes (.linkBlockReceive ⟨n, lane⟩ ctl data true fixed) s (fun u =>
        u.port n.val = { p with rxq := [(p.logOf lane.val, [.block ctl.toNat data])] } ∧ u.lath.rx = s.lath.rx)) ∧
    (p.unack ≠ [] → p.replays < 16 → Completes (.linkReplayTimeout n) s (fun u =>
      u.sent = s.sent ++ (numbered p.unack).map (fun b =>
        .block n.val (p.lanes.getD ((p.txBlk + b.1) % p.lanes.length) 0) (ctlWord p true b.2.1) b.2.2) ∧
      u.port n.val = { p with replays := p.replays + 1, retry := satInc p.retry, txBlk := p.txBlk + p.unack.length })) ∧
    (p.unack ≠ [] → 16 ≤ p.replays → s.portUsable n.val → p.present = true →
      Completes (.linkReplayTimeout n) s (fun u => (u.port n.val).st = pTraining ∧ (u.port n.val).outgoing = []))

/-- R606, R608, R636, R637. Every active lane of a port sends a marker, in a row of its own that idle blocks lead up to; a marker received
gives the delay to the neighbour, and on the port towards the root it gives fabric time. -/
def Parts.AlignmentMarkers : Prop :=
  ∀ (s : State) (n : Fin 16), (s.port n.val).isUp = true → s.unarmed = true →
    let p := s.port n.val
    let k := p.lanes.length
    let fill := (k - p.txBlk % k) % k
    Completes (.alignmentMarkerSend n) s (fun u =>
      u.sent = s.sent ++ (rangeFrom 0 fill).map (fun i => .block n.val (p.lanes.getD ((p.txBlk + i) % k) 0) (ctlWord p false 0) []) ++
        p.lanes.map (fun i => .block n.val i (ctlWord p false 0) (markerBytes p Config.uid.toNat s.lath.id.toNat n.val i s.ft)) ∧
      u.port n.val = { p with txBlk := p.txBlk + fill + k }) ∧
    (∀ (ctl : BitVec 20) (data : List Byte) (depth : Option (BitVec 8)), ctl.getLsbD 18 = false → ctl.getLsbD 19 = false →
      data.headD 0 = 1 → (data.getD 19 0).toNat ∈ p.rxOrder → p.rxq = [] →
      let f := fun o k => leNat ((data.drop o).take k)
      let d : Int := (((s.ft : Int) - (f 24 8 : Nat)) - (((f 40 8 : Nat) : Int) - (f 32 8 : Nat))) / 2
      Completes (.alignmentMarkerReceive n ctl data depth) s (fun u =>
        (u.port n.val).mkT1 = f 24 8 ∧ (u.port n.val).mkT2 = s.ft ∧ (u.port n.val).nbruid = BitVec.ofNat 64 (f 8 8) ∧
        (f 32 8 ≠ 0 → (u.port n.val).delay = BitVec.ofInt 32 d ∧
          (s.lath.root = false → s.lath.tport.toNat = n.val → s.ftOff.isSome = true →
            u.ftOff = some (((((f 24 8 : Nat) : Int) + d).toNat : Int) - 16 * s.now)) ∧
          (s.lath.root = true → u.ftOff = s.ftOff))))

/-- The link layer of a Lath port, and its markers. -/
def Obligations.LinkLayerAndMarkers : Prop := Parts.LinkLayer ∧ Parts.AlignmentMarkers

/-- R615 to R621. The module takes its ID while no queue or flow is enabled; a packet for elsewhere goes on with one hop less, is dropped
at its last hop with HOPDROP, or without a route with its flag; discovery may give an ID, and is answered along the return path
that the request brings; answers are kept. -/
def Obligations.RoutingCommands : Prop :=
  (∀ (s : State) (f : Bool) (v : Word), s.hostActs f true = true →
    Completes (.lthModidWrite f v) s (fun u => u.sent = s.sent ∧
      if s.lathBusy ∨ v.toNat % 65536 = 0xFFFF then u.lath = s.lath
      else u.lath = { s.lath with id := BitVec.ofNat 16 v.toNat, dup := false }) ∧
    ∀ n : Fin 16,
      let new := (s.freshAt (retryOff n.val)).setWidth 32
      Completes (.lthRetryRead f n) s (fun u =>
        u.sent = s.sent ++ [.read (fnNum f) (leBytes ((s.port n.val).retry - new).toNat 4) false] ∧
        u.port n.val = { s.port n.val with retry := new })) ∧
  (∀ (s : State) (n m : Nat) (p : Packet) (rest : List (Nat × Packet)), s.lath.rx = (n, p) :: rest →
    let out (p : Packet) : List (List Byte) := chunks 640 (p.bytes.length + 1) p.bytes
    let f := fun o k => leNat ((p.pay.drop o).take k)
    (s.isLocal p = false → p.sr = false →
      (s.nextHop p = some m → Completes .packetForward s (fun u => u.lath.rx = rest ∧
        if p.hops ≤ 1 then u.lath.stat = s.lath.stat ||| 2 ∧ u.sent = s.sent
        else (u.port m).outgoing = (s.port m).outgoing ++ out { p with hops := p.hops - 1 })) ∧
      (s.nextHop p = none → Completes .packetForward s (fun u => u.lath.rx = rest ∧ u.lath.stat = s.lath.stat ||| 4 ∧ u.sent = s.sent))) ∧
    (s.isLocal p = false → p.sr = true → p.hops ≤ p.aux → (s.port (p.addr / 16 ^ (p.aux - p.hops) % 16)).isUp = true →
      m = p.addr / 16 ^ (p.aux - p.hops) % 16 → Completes .packetForward s (fun u => u.lath.rx = rest ∧
        (u.port m).outgoing = (s.port m).outgoing ++ out { p with hops := p.hops - 1 })) ∧
    (s.isLocal p = true → p.ptype = 8 →
      (f 9 1 ≠ 1 →
        let a := s.discAnswer p
        a.pay = s.discItems ∧ a.sr = true ∧ a.addr = f 0 8 ∧ a.hops = f 8 1 ∧ a.aux = f 8 1 ∧
        (a.hops = 0 → Completes .discReq s (fun u => u.lath = { s.lath with rx := rest ++ [(16, a)] })) ∧
        (a.hops ≠ 0 → m = a.addr % 16 → (s.port m).isUp = true → Completes .discReq s (fun u => u.lath.rx = rest ∧
          (u.port m).outgoing = (s.port m).outgoing ++ out { a with hops := a.hops - 1 }))) ∧
      (f 9 1 = 1 → s.lath.id = 0 → s.lathBusy = false → f 10 2 ≠ 0xFFFF → s.written modidOff = false →
        Completes .discReq s (fun u => u.lath.id = BitVec.ofNat 16 (f 10 2)))) ∧
    (s.isLocal p = true → p.ptype = 9 →
      Completes .discRsp s (fun u => u.lath = { s.lath with rx := rest, disc := s.lath.disc ++ [p] } ∧ u.sent = s.sent)))

/-- R631 to R633, Table 15.7. A packet of the flow's sender in sequence lands its bytes and advances EXP; one sent again is only
acknowledged, one ahead of sequence only answered, one of another sender refused; the timer acknowledges what was delivered. -/
def Obligations.ReceiverPackets : Prop :=
  ∀ (s : State) (n : Nat) (p : Packet) (rest : List (Nat × Packet)),
    let fl := p.flow % 4096
    let r := s.rft fl
    let c := (s.updLath (fun l => { l with rx := rest })).landCheck r p
    let mine : Prop := r.en = true ∧ p.smod = r.smod ∧ bitAt p.flags 1 = false ∧ p.epoch = r.epoch.toNat ∧ r.held = false
    let back := (r.exp - BitVec.ofNat 32 p.seq).toNat
    let acked (u : State) : Prop := (u.rft fl).since = if bitAt p.flags 0 || decide (32 ≤ r.since + 1) then 0 else r.since + 1
    s.lath.rx = (n, p) :: rest → s.isLocal p = true → s.unarmed = true →
    (p.ptype = 1 →
      (mine → back = 0 → c.1 = none →
        Completes .writePacket s (fun u => (u.rft fl).exp = r.exp + 1 ∧ (u.rft fl).held = false ∧ acked u ∧
          u.mpa = (c.2.2.dvaWrite (landPed n) c.2.1 p.addr p.pay).mpa)) ∧
      (∀ k, mine → back = 0 → c.1 = some k →
        Completes .writePacket s (fun u => u.rft fl = { r with held := true, hcode := k, due := false } ∧ u.mpa = s.mpa)) ∧
      (mine → 1 ≤ back → back ≤ 2 ^ 31 → Completes .writePacket s (fun u => u.rft fl = { r with since := 0 } ∧ u.mpa = s.mpa)) ∧
      (mine → 2 ^ 31 < back → Completes .writePacket s (fun u => u.rft fl = r ∧ u.mpa = s.mpa)) ∧
      (p.smod ≠ r.smod → Completes .writePacket s (fun u => u.rft fl = r ∧ u.mpa = s.mpa))) ∧
    (p.ptype = 2 → mine → back = 0 → s.ras.rsts = [] →
      Completes .signalPacket s (fun u => (u.rft fl).exp = r.exp + 1 ∧ acked u ∧ u.mpa = s.mpa)) ∧
    (∀ flow : BitVec 12, (s.rft flow.toNat).since ≠ 0 → (s.rft flow.toNat).en = true →
      Completes (.ackTimer flow) s (fun u => u.rft flow.toNat = { s.rft flow.toNat with since := 0 } ∧ u.sameCompute s))

/-- R623 to R627. LTH_TQCFG enables a queue of the function's niche; the engine takes the next entry, which gets the next packet
numbers, or completes it with the code of its check; it took 1 from the queue's counter. -/
def Parts.TransmitQueueEntries : Prop :=
  (∀ (s : State) (f : Bool) (t : BitVec 8) (v : Word), s.hostActs f true = true →
    let q := s.tq t.toNat
    let q1 := { q with cfg := v &&& tqCfgMask }
    q.en = false → Completes (.lthTqcfgWrite f t v) s (fun u =>
      if bitAt v.toNat 31 = true ∧ ¬ (4 ≤ q1.size ∧ q1.size ≤ 12 ∧ (s.niche q1.niche).owner = some f ∧
          (s.niche q1.niche).ownsCtr q.pctr.toNat = true ∧ q.pctr.toNat / 1024 = q1.ped)
      then u.tq t.toNat = q else u.tq t.toNat = q1)) ∧
  (∀ (s : State) (t : BitVec 8), s.tqMayTake t.toNat →
    let q := s.tq t.toNat
    let r := (s.took q.pctr.toNat).readRun (Rec.base 0 1 0 none (some q.niche)) (q.entryAddr q.taken.toNat) 64
    let eb := tqEntryOf q.taken.toNat r.1
    let c := r.2.2.tqCheck q eb.1 eb.2
    r.2.1 = cDone →
    (c.1 = none → Completes (.tqEntryTake t) s (fun u =>
      ∃ e, (u.tq t.toNat).ents = q.ents ++ [e] ∧ (u.tq t.toNat).taken = q.taken + 1 ∧
        (u.tq t.toNat).next = q.next + BitVec.ofNat 32 e.npk ∧
        e = { eb.1 with maps := c.2.1, seq0 := q.next, npk := e.npk } ∧ e.npk = e.cuts.length)) ∧
    (c.1 ≠ none → q.ents = [] → Completes (.tqEntryTake t) s (fun u =>
      (u.tq t.toNat).ents = [] ∧ (u.tq t.toNat).taken = q.taken + 1 ∧ (u.tq t.toNat).next = q.next)))

/-- R629, R630, R634, R635. ACK advances the sender and completes what it covers; NAK sends the unacknowledged packets again; NACK and
the last expiry end the entry and hold the queue; RESUME and CANCEL start the flow anew with the next epoch. -/
def Parts.SenderPackets : Prop :=
  (∀ (s : State) (n t : Nat) (p : Packet) (rest : List (Nat × Packet)),
    let q := s.tq t
    let upTo := BitVec.ofNat 32 p.seq + 1
    let fwd := (upTo - q.acked).toNat
    s.lath.rx = (n, p) :: rest → s.isLocal p = true → s.tqOf p = some t →
    (p.ptype = 3 → fwd ≠ 0 → fwd < 2 ^ 31 →
      Completes .ackPacket s (fun u => (u.tq t).acked = (if (q.next - q.acked).toNat < fwd then q.next else upTo) ∧ (u.tq t).expiries = 0 ∧ u.lath.rx = rest ∧
        ((∀ e ∈ q.ents, e.done = none ∧ (upTo - (e.seq0 + BitVec.ofNat 32 e.npk)).toNat < 2 ^ 31) → (u.tq t).ents = []))) ∧
    (p.ptype = 4 → q.held = false → exec .nakPacket s = .next ((s.updLath (fun l => { l with rx := rest })).tqResend t)) ∧
    (∀ e es, p.ptype = 5 → p.aux % 256 ≤ cFaultPending → q.ents = e :: es → e.done = none → (BitVec.ofNat 32 p.seq - e.seq0).toNat < e.npk →
      Completes .nackPacket s (fun u => (u.tq t).held = true ∧ (u.tq t).ents = [] ∧ (u.tq t).next = q.next))) ∧
  (∀ (s : State) (t : BitVec 8) (e : TqEntry) (es : List TqEntry),
    let q := s.tq t.toNat
    q.ents = e :: es → e.done = none →
    (q.expiries + 1 < s.retries → Completes (.e2eTimeout t) s (fun u => u.tq t.toNat = { q with expiries := q.expiries + 1 })) ∧
    (s.retries ≤ q.expiries + 1 →
      Completes (.e2eTimeout t) s (fun u => (u.tq t.toNat).held = true ∧ (u.tq t.toNat).ents = [] ∧ (u.tq t.toNat).expiries = 0))) ∧
  (∀ (s : State) (f : Bool) (t : BitVec 8), s.hostActs f true = true →
    let q := s.tq t.toNat
    (q.held = true → Completes (.tqResume f t) s (fun u => u.tq t.toNat = q.resync ∧ u.sameCompute s ∧ u.peds = s.peds)) ∧
    Completes (.tqCancel f t) s (fun u => (u.tq t.toNat).ents = [] ∧ (u.tq t.toNat).held = false ∧
      (u.tq t.toNat).epoch = q.epoch + 1 ∧ (u.tq t.toNat).rsq = some q.next))

/-- The sender of a Lath flow. -/
def Obligations.TransmitQueues : Prop := Parts.TransmitQueueEntries ∧ Parts.SenderPackets

/-! ## Barriers -/

/-- R386, R387, R640, R641. A member sends its arrival once its job is staged and its entry may run, whether or not its clusters are free; the
leader counts arrivals and releases with the last one; a release in time names the frame in which the job starts, and one too
late, or none, ends the job with TIMEOUT. `e` is the state at the edge of that frame. -/
def Obligations.BarrierCommands : Prop :=
  (∀ (s : State) (j : BitVec 32) (w : BarWait) (jb : Job), s.barWait j.toNat = some w → s.job j.toNat = some jb →
    let g := s.grp w.grp
    (w.sent = false → (s.sq jb.sq).mayRun jb.seq → s.pwr.stop = 0 → Completes (.barrierArriveSend j) s (fun u =>
      u.lath.waits = s.lath.waits.map (fun x => if x.job = w.job then { w with sent := true } else x) ∧
      (s.lath.id ≠ 0 → g.leader = s.lath.id.toNat →
        u.lath.rx = s.lath.rx ++ [(16, s.barPacket 0x0C g.leader g.gid w.inst.toNat)]))) ∧
    (w.sent = true → w.frel = none → Completes (.barrierTimeout j) s (fun u => u.job j.toNat = none ∧
      ∀ x ∈ u.lath.waits, x.job ≠ j.toNat)) ∧
    (∀ fr t, w.frel = some fr → s.edgeOf fr = some t → s.wf = true → s.gated = false → s.jobMayStart jb → (s.now : Int) ≤ t →
      let e := s.toEdge t.toNat
      s.calm = true ∧ s.ras.rsts = [] ∧ s.fresh = [] ∨ e.jobMayStart jb ∧ e.inTest jb = false →
      Completes (.barrierJobStart j) s (fun u => u.now = e.now ∧ (s.calm = true → u.now = t.toNat) ∧
        (∃ v, u.job j.toNat = some v ∧ v.st = .running) ∧ ∀ x ∈ u.lath.waits, x.job ≠ j.toNat)) ∧
    (∀ fr t, w.frel = some fr → s.edgeOf fr = some t → t < s.now →
      Completes (.barrierJobStart j) s (fun u => u.job j.toNat = none))) ∧
  (∀ (s : State) (n : Nat) (p : Packet) (rest : List (Nat × Packet)), s.lath.rx = (n, p) :: rest → s.isLocal p = true →
    (∀ k g a, p.ptype = 0x0C → s.lath.groups.find? (fun kv => kv.2.gid == p.addr % 65536 && kv.2.leader == s.lath.id.toNat && kv.2.nmem != 0) =
        some (k, g) → (s.lath.arrivals.find? (fun a => a.gid == p.addr % 65536 && a.inst == BitVec.ofNat 32 p.aux)).getD
          ⟨p.addr % 65536, BitVec.ofNat 32 p.aux, [], false⟩ = a → a.released = false → a.mods.contains p.smod = false →
      Completes .barArrive s (fun u =>
        { a with mods := a.mods ++ [p.smod], released := a.mods.length + 1 == g.nmem } ∈ u.lath.arrivals)) ∧
    (∀ w, p.ptype = 0x0D → s.released (p.addr / 2 ^ 48) (BitVec.ofNat 32 p.aux) = [w] →
      Completes .barRelease s (fun u =>
        if p.addr % 2 ^ 48 ≤ s.fabricFrame then u.lath.stat = s.lath.stat ||| 16 ∧ u.job w.job = none
        else u.lath.waits = s.lath.waits.map (fun x => if x.job = w.job then { w with frel := some (p.addr % 2 ^ 48) } else x) ∧
          u.jobs = s.jobs)))

/-! ## Resets, tests and event counters -/

/-- R656 to R662. A reset of a target latches at the end of its cycle (`e` is the state there): what is in flight there never lands,
and it runs until RESET_COMPLETE, which leaves its stores and registers zero; a second reset, or one of the controller's
pedestal, is refused. -/
def Parts.ResetCommands : Prop :=
  ∀ (s : State) (f : Bool), s.hostActs f false = true →
    let e := s.through s.now
    let latched (i : Instr) (scope ped clus unit : Nat) : Prop :=
      ∀ r, e.rstTarget scope ped clus unit = some r →
        (s.calm = true ∧ s.ras.rsts = [] ∨ e.ras.rsts = [] → ¬ (scope = 4 ∧ ped = e.mgtPed) →
          Completes i s (fun u => u.ras.rsts = [r] ∧ u.ras.rststat = BitVec.ofNat 32 (rstWord scope ped clus unit) ∧
            ∀ k ∈ r.cores, (u.core k).flights = [] ∧ (u.core k).sends = [] ∧ (u.core k).memops = [])) ∧
        (e.ras.rsts ≠ [] ∨ (scope = 4 ∧ ped = e.mgtPed) → Completes i s (fun u =>
          u.ras = { e.ras with rststat := e.ras.rststat ||| 0x40000000 } ∧ u.sameCompute e ∧ u.sameUnits e ∧ u.sameQueues e))
    (∀ k : CoreId, latched (.resetCore f k) 1 k.p.val k.c.val k.q.val) ∧
    (∀ c : ClusId, latched (.resetCluster f c) 2 c.p.val c.c.val 0) ∧
    (∀ (p : Fin 20) (n : Fin 5), latched (.resetMedia f p n) 3 p.val 0 n.val) ∧
    (∀ p : Fin 20, latched (.resetPedestal f p) 4 p.val 0 0) ∧
    (∀ n : Fin 16, latched (.resetPort f n) 5 n.val 0 n.val) ∧
    (∀ k : Fin 12, latched (.resetHbm f k) 6 k.val 0 k.val) ∧
    (∀ r, s.ras.rsts = [r] → r.test = false →
      Completes .resetComplete s (fun u => u.ras.rsts = [] ∧ u.ras.logtail = s.ras.logtail + 1 ∧
        (∀ k ∈ r.cores, (u.core k).cstore = [] ∧ (u.core k).istore = [] ∧ (u.core k).sreg = [] ∧ (u.core k).vreg = []) ∧
        (∀ c ∈ r.clusters, (u.clu c).store = [] ∧ (u.clu c).relCount = 0) ∧ u.mpa = s.mpa))

/-- R658, R659. A reset of a core or of a cluster stops every running job that its target carries. -/
def Parts.ResetStopsJobs : Prop :=
  ∀ (s : State) (f : Bool) (j : Nat) (jb : Job), s.hostActs f false = true →
    let e := s.through s.now
    let stops (i : Instr) : Prop := Completes i s (fun u => ∃ v, u.job j = some v ∧ v.st = .stopping)
    s.calm = true ∧ s.wf = true ∧ s.ras.rsts = [] ∧ s.coreQueues = [] ∨ e.wf = true ∧ e.ras.rsts = [] ∧ e.coreQueues = [] →
    e.job j = some jb → jb.st = .running →
    (∀ k : CoreId, e.jobHit ⟨1, k.p.val, k.c.val, k.q.val, (e.core (coreKey k)).insvc, false⟩ jb = true → stops (.resetCore f k)) ∧
    (∀ c : ClusId, e.jobHit ⟨2, c.p.val, c.c.val, 0, true, false⟩ jb = true → stops (.resetCluster f c))

/-- Partial resets. -/
def Obligations.Resets : Prop := Parts.ResetCommands ∧ Parts.ResetStopsJobs

/-- R674 to R678, R680 to R685, R690, R693. A test that BST_CMD starts resets its block, once the jobs that start on its cluster in this very
cycle have gone (`b`) and the cycle is over (`e`), and runs until TEST_END, which leaves the result, the count
and a record; one that R678 refuses sets REFUSED. -/
def Parts.TestCommands : Prop :=
  (∀ (s : State) (f : Bool), s.hostActs f true = true →
    let started (i : Instr) (p kind clus unit : Nat) : Prop :=
      let b := if kind = 1 ∨ kind = 2 then s.bounceStarts (p * 8 + clus) else s
      let e := b.through b.now
      Completes i s (fun u =>
        if b.testRefused p kind clus unit = true then
          (u.ped p).bstStat = ((b.ped p).bstStat &&& ~~~0x40000000) ||| 0x40000000 ∧ u.ras.rsts = b.ras.rsts ∧ u.cores = b.cores
        else u.ras.rsts = e.ras.rsts ++ [e.testScope p kind clus unit] ∧
          ∃ w : BitVec 32, (u.ped p).bstRun = some (w, bits (e.ped p).bstCfg.toNat 1 0) ∧ bits w.toNat 3 0 = kind ∧
            bits w.toNat 10 8 = clus ∧ bits w.toNat 15 12 = unit)
    (∀ k : CoreId, started (.testCore f k) k.p.val 1 k.c.val k.q.val) ∧
    (∀ c : ClusId, started (.testCluster f c) c.p.val 2 c.c.val 0) ∧
    (∀ g : EngId, started (.testPixel f g) g.p.val 3 0 g.e.val) ∧
    (∀ g : EngId, started (.testEntropy f g) g.p.val 4 0 g.e.val) ∧
    (∀ p : Fin 20, started (.testSkim f p) p.val 5 0 0) ∧
    (∀ k : Fin 12, started (.testHbm f k) k.val 6 0 k.val)) ∧
  (∀ (s : State) (p : Fin 20) (x : TestFind) (w : BitVec 32) (mode : Nat) (r : RstRun), s.unarmed = true →
    (s.ped p.val).bstRun = some (w, mode) → s.ras.rsts.find? (fun r => r.test && r.ped == p.val) = some r →
    let kind := bits w.toNat 3 0
    let clus := bits w.toNat 10 8
    let unit := bits w.toNat 15 12
    Completes (.testEnd p x) s (fun u =>
      (u.ped p.val).bstRun = none ∧ (u.ped p.val).bstCount = x.count ∧ r ∉ u.ras.rsts ∧ u.ras.logtail = s.ras.logtail + 1 ∧
      bits (u.ped p.val).bstStat.toNat 25 24 = testResult false mode (testBlock kind clus unit) kind clus unit x (s.ped p.val)))

/-- R687 to R690. SUBSTITUTE, once the jobs that start on the cluster in this very cycle have gone (`b`), answers in SUBCODE; where a spare
may serve, the core leaves service for good. -/
def Parts.SubstituteCommand : Prop :=
  ∀ (s : State) (f : Bool) (k : CoreId), s.hostActs f true = true →
    let b := s.bounceStarts (coreKey k / 16)
    let code := b.substCode (coreKey k)
    Completes (.substitute f k) s (fun u =>
      bits (u.ped k.p.val).bstStat.toNat 23 16 = code ∧
      if code = cDone then
        Tbl.get 0 (u.ped k.p.val).health (coreKey k % 128) = 3 ∧ (u.core (coreKey k)).insvc = false ∧
        (u.core (coreKey k)).st = .outOfService
      else u.cores = b.cores)

/-- Run-time tests and spare cores. -/
def Obligations.TestsAndSpares : Prop := Parts.TestCommands ∧ Parts.SubstituteCommand

/-- R694 to R696. A write of SEL selects the source, with CLEAR the count starts at 0; CLEARALL zeroes every counter; FREEZE holds them.
Nothing else changes. -/
def Obligations.EventCounterCommands : Prop :=
  ∀ (s : State) (f : Bool), s.hostActs f true = true → s.wf = true →
    let kept (u : State) : Prop := u = { s with evc := u.evc, evFreeze := u.evFreeze, fresh := u.fresh }
    (∀ (off : BitVec 24) (src : BitVec 8),
      let upd (zero : Bool) (u : State) : Prop := kept u ∧ u.evFreeze = s.evFreeze ∧
        ∀ k, Tbl.get EvCtr.reset u.evc k = if k = off.toNat / 16 ∧ evcValid off.toNat = true then
          ⟨src, if zero then 0 else (Tbl.get EvCtr.reset s.evc k).cnt⟩ else Tbl.get EvCtr.reset s.evc k
      Completes (.evcClear f off src) s (upd true) ∧ Completes (.evcSelect f off src) s (upd false)) ∧
    Completes (.clearall f) s (fun u => kept u ∧ u.evFreeze = s.evFreeze ∧
      ∀ k, Tbl.get EvCtr.reset u.evc k = ⟨(Tbl.get EvCtr.reset s.evc k).src, 0⟩) ∧
    (∀ b, Completes (.freeze f b) s (fun u => u = { s with evFreeze := b }))

/-! ## Registers of BAR0 -/

/-- R10 to R12, R16, R17. A read of one aligned word answers the register; the low word of a 64-bit register captures the high word,
which the read of the high word then answers; a write that is neither one aligned word nor two changes nothing; a write of a W1C
register clears the bits written 1 that were not set in this cycle; and the doorbells and the configuration of an SQ are the
writes that the table names apart. -/
def Obligations.RegisterAccess : Prop :=
  (∀ (s : State) (f : Bool) (a : BitVec 32), s.hostActs f false = true → a.toNat % 4 = 0 → s.decodes a.toNat = true →
    sycValAt a.toNat = none → a.toNat ≠ 0x34 → a.toNat ≠ 0x01000010 →
    (a.toNat < 0x03010000 ∨ 0x03011000 ≤ a.toNat) → a.toNat + 4 ≤ 0x10000000 →
    let said (v : Nat) (u : State) : Prop := u.sent = s.sent ++ [.read (fnNum f) (leBytes v 4) false]
    (∀ v, s.rd64 f a.toNat = some v → Completes (.reg64LowRead f a 4) s (fun u => said (v % 2 ^ 32) u ∧
      Tbl.get none (u.hif f).capture a.toNat = some (BitVec.ofNat 32 (v / 2 ^ 32)))) ∧
    (∀ v w, 4 ≤ a.toNat → s.rd64 f a.toNat = none → s.rd64 f (a.toNat - 4) = some v →
      Tbl.get none (s.hif f).capture (a.toNat - 4) = some w → Completes (.reg64LowRead f a 4) s (fun u => said w.toNat u ∧
        Tbl.get none (u.hif f).capture (a.toNat - 4) = none)) ∧
    (s.rd64 f a.toNat = none → (4 ≤ a.toNat → s.rd64 f (a.toNat - 4) = none) → drawnBy a.toNat = false →
      Completes (.reg64LowRead f a 4) s (fun u => said (s.rd32 f a.toNat) u ∧ u = { s with sent := u.sent, fresh := u.fresh }))) ∧
  (∀ (s : State) (f : Bool) (a : BitVec 32) (bs : List Byte), s.hostActs f false = true →
    (a.toNat % 4 ≠ 0 ∨ (bs.length ≠ 4 ∧ bs.length ≠ 8) → exec (.registerWrite f a bs) s = .next s) ∧
    (s.decodes a.toNat = false → bs.length = 4 → exec (.registerWrite f a bs) s = .next s) ∧
    (∀ v : Word, s.ras.rsts = [] →
      Completes (.registerWrite f 0x01100004 (leBytes v.toNat 4)) s (fun u => u.ras = { s.ras with logcfg := v &&& 0xFF } ∧ u.sent = s.sent) ∧
      (s.allUp = true → Completes (.registerWrite f 0x0C (leBytes v.toNat 4)) s (fun u =>
        u.hif f = { s.hif f with err := (s.hif f).err &&& ~~~(v.setWidth 2 &&& ~~~((s.freshAt (fnReg f 0x0C)).setWidth 2)) } ∧
        u.sameCompute s)))) ∧
  (∀ (s : State) (f : Bool) (n : Fin 512) (v : Word),
    exec (.registerWrite f (BitVec.ofNat 32 (0x400000 + 0x1000 * n.val)) (leBytes v.toNat 4)) s = exec (.hifSqtailWrite f n v) s ∧
    exec (.registerWrite f (BitVec.ofNat 32 (0x600000 + 0x1000 * n.val)) (leBytes v.toNat 4)) s = exec (.hifCqheadWrite f n v) s ∧
    exec (.registerWrite f (BitVec.ofNat 32 (0x100008 + 0x100 * n.val)) (leBytes v.toNat 4)) s = exec (.hifSqcfgWrite f n v) s)

/-- R229, R234, R241, R671, R750. A host sets, adds to and reads a sync counter, the write applied in its cycle where the counter
is in service and no SWAIT waits on it; the injection register of a core's store arms its target and nothing else when written
with ARM, and without ARM it changes nothing; of the conditions of the environment, low coolant flow is armed and a low input
acts at once. -/
def Obligations.SyncRegistersAndInjections : Prop :=
  ∀ (s : State) (f : Bool), s.hostActs f true = true → s.ras.rsts = [] →
    (∀ (id : BitVec 15) (v : Word), id.toNat < 20480 →
      let others (u : State) : Prop := u.mpa = s.mpa ∧ (∀ i, i ≠ id.toNat → u.ctrVal i = s.ctrVal i) ∧
        ∀ k, (u.core k).sreg = (s.core k).sreg ∧ (u.core k).preg = (s.core k).preg ∧ (u.core k).vreg = (s.core k).vreg ∧
          (u.core k).cstore = (s.core k).cstore
      (s.waiters id.toNat = [] → s.calm = true → s.gated = false → s.badWithPlinth (id.toNat / 1024) hSync = false →
        Completes (.sycSet f id v) s (fun u => u.ctrVal id.toNat = v ∧ others u) ∧
        Completes (.sycAdd f id v) s (fun u =>
          (u.ctrVal id.toNat).toNat = min ((s.ctrVal id.toNat).toNat + v.toNat % 65536) 0xFFFFFFFF ∧ others u)) ∧
      (Tbl.get false (s.ped (id.toNat / 1024)).ctrBad (id.toNat % 1024) = false →
        (∀ g ∈ s.sigs, g.ctr = id.toNat → s.now < g.due) →
        exec (.sycValRead f id) s = .next (s.send (.read (fnNum f) (leBytes (s.ctrVal id.toNat).toNat 4) false)))) ∧
    (∀ (k : CoreId) (v : Word),
      let a := BitVec.ofNat 32 (corePage (coreKey k) + 0x400)
      (bitAt v.toNat 0 = true → Completes (.errorInjectionArm f a v) s (fun u => u.arm a.toNat 0 = dbl v 1 ∧
        (∀ o t, (o, t) ≠ (a.toNat, 0) → t < 1024 → u.arm o t = 0) ∧ u = { s with arms := u.arms })) ∧
      (bitAt v.toNat 0 = false → exec (.errorInjectionArm f a v) s = .next s)) ∧
    (∀ v : Word, bitAt v.toNat 0 = true →
      Completes (.envInjection f 0x01038028 v) s (fun u => u.arm injFlow 0 = 11 + (if bitAt v.toNat 1 then 256 else 0) ∧
        u = { s with arms := u.arms }) ∧
      (s.watches = true → Completes (.envInjection f 0x01030020 v) s (fun u => u.pwr.stop = 21 ∧ u.pwr.latched = true ∧
        u.pwr.fault = s.pwr.fault ||| 1)))

/-! ## Power, clocks and cooling -/

/-- R731, R753, R754, R762. Start-up begins with power good, the input in range and the emergency latch released; the straps are sampled
on the rise of MOD_PG. -/
def Parts.PowerGood : Prop :=
  ∀ (s : State) (vin : BitVec 16),
    let begun (u : State) : Prop := u.pwr.vmgt = true ∧ u.pwr.phase = 1 ∧ u.pwr.stop = 0 ∧ u.pwr.latched = false ∧
      u.sent = s.sent ++ [.uart 0 1]
    (∀ b0 b1 sm, Completes (.modPgRise b0 b1 sm vin) s (fun u => u.pwr.pg = true ∧ u.pwr.vin = vin ∧
      (s.pwr.vmgt = true → u.pwr.phase = s.pwr.phase ∧ u.pwr.bif0 = s.pwr.bif0 ∧ u.sent = s.sent) ∧
      (s.pwr.vmgt = false → u.pwr.bif0 = b0 ∧ u.pwr.bif1 = b1 ∧ u.pwr.smb = sm ∧
        if vinOk vin = true ∧ (s.pwr.latched = false ∨ s.pwr.pg = false) then begun u else u.pwr.vmgt = false ∧ u.sent = s.sent))) ∧
    (s.pwr.pg = true → s.pwr.vmgt = false → s.pwr.latched = false → vinOk vin = true →
      Completes (.vinInRange vin) s (fun u => begun u ∧ u.pwr.vin = vin) ∧
      (s.pwr.vin = vin → Completes .vmgtOffRestart s begun))

/-- R702 to R704, R754 to R758, R687. Each phase of start-up gives way to the next; phase 3 runs an image that passes every check, or stays
in recovery; phase 9 leaves every store zero and the default slot tables; phase 10 ends with MOD_READY where R687 is met. -/
def Parts.StartUp : Prop :=
  ∀ (s : State) (x : PhaseEnd), s.pwr.vmgt = true → s.pwr.stop = 0 → s.unarmed = true →
    let after (post : State → Prop) : Prop := Completes (.startupPhase x) s post
    (s.pwr.phase = 1 ∨ s.pwr.phase = 5 → after (fun u => u.pwr.phase = s.pwr.phase + 1 ∧ u.pwr.state = s.pwr.state)) ∧
    (s.pwr.phase = 2 → after (fun u => u.pwr.phase = 3 ∧ u.pwr.lock = true ∧ u.ft = 0)) ∧
    (s.pwr.phase = 3 → s.mgt.phase = 0 → x.fuseErr = false → after (fun u =>
      let ran (slot : Bool) : Prop := u.pwr.phase = 4 ∧ u.mgt.phase = 1 ∧ u.mgt.slot = slot ∧ u.dshare = s.mgt.cfgDshare.getD 1024
      if (s.mgt.img s.mgt.pref).check 1 s.mgt = 0 then ran s.mgt.pref
      else if (s.mgt.img (!s.mgt.pref)).check 1 s.mgt = 0 then ran (!s.mgt.pref)
      else u.pwr.phase = 3 ∧ u.mgt.phase = 4 ∧ u.pwr.state = 2)) ∧
    (s.pwr.phase = 4 → after (fun u => u.pwr.phase = if 21 ≤ s.pwr.okRun then 5 else 4)) ∧
    (s.pwr.phase = 6 → after (fun u => u.pwr.phase = 7 ∧ ∀ f ∈ x.ports, u.bad (if f then 17 else 16) hPcie = true)) ∧
    (s.pwr.phase = 7 → after (fun u => u.pwr.phase = 8 ∧ ∀ k ∈ x.hbms, u.bad k.val hHbm = true)) ∧
    (s.pwr.phase = 8 → after (fun u => u.pwr.phase = 9)) ∧
    (s.pwr.phase = 9 → after (fun u => u.pwr.phase = 10 ∧ u.mpa = [] ∧ u.slots = none ∧
      (∀ k, (u.core k).cstore = [] ∧ (u.core k).istore = [] ∧ (u.core k).sreg = []) ∧ (∀ c, (u.clu c).store = []))) ∧
    (s.pwr.phase = 10 → s.pwr.state = 0 →
      (s.readyMet = true → after (fun u => u.pwr.phase = 11 ∧ u.pwr.ready = true ∧ u.pwr.state = 1)) ∧
      (s.readyMet = false → after (fun u => u.pwr.phase = 10 ∧ u.pwr.ready = false ∧ u.pwr.state = 3)))

/-- From power good to MOD_READY. -/
def Obligations.PowerUp : Prop := Parts.PowerGood ∧ Parts.StartUp

/-- R752, R760 to R763, Tables 19.5 and 19.7. MOD_PG falling begins the orderly shutdown, MOD_RST_N low the reset; their stages end the jobs,
take the links down, and turn the rails off; the stages of an emergency shutdown turn everything off and write its record to flash. -/
def Obligations.Shutdown : Prop :=
  ∀ (s : State),
    let emergency (post : State → Prop) : Prop := Completes .emergencyShutdownStage s post
    (s.pwr.vmgt = true → s.pwr.stop = 0 →
      Completes .modPgFall s (fun u => u.pwr.stop = 1 ∧ u.pwr.pg = false ∧ u.pwr.ready = false) ∧
      Completes .modRstNLow s (fun u => u.pwr.stop = 11 ∧ u.pwr.rstN = false ∧ u.pwr.ready = false)) ∧
    (s.pwr.stop = 14 → Completes .modRstNHigh s (fun u => u.pwr.phase = 2 ∧ u.pwr.stop = 0 ∧ u.pwr.rstN = true ∧ u.mgt = s.mgt.off)) ∧
    (∀ done,
      let stage (post : State → Prop) : Prop := Completes (.orderlyShutdownStage done) s post
      (s.pwr.stop = 1 ∨ s.pwr.stop = 11 → stage (fun u => u.pwr.stop = s.pwr.stop + 1 ∧ ∀ j, u.job j = none)) ∧
      (s.pwr.stop = 2 ∨ s.pwr.stop = 12 → stage (fun u => u.pwr.stop = s.pwr.stop + 1 ∧
        u.hif0.linkUp = false ∧ u.hif1.linkUp = false ∧ ∀ n, n < 16 → (u.port n).st = pDown)) ∧
      (s.pwr.stop = 3 → stage (fun u => u.pwr.stop = 4 ∧ u.cores = [] ∧ u.mpa = [] ∧ u.niches = [] ∧ u.sqs = [] ∧ u.mgt = s.mgt)) ∧
      (s.pwr.stop = 4 → stage (fun u => u.pwr.vmgt = false ∧ u.pwr.phase = 0 ∧ u.pwr.stop = 0 ∧ u.ras = Ras.reset ∧ u.mgt = s.mgt.off)) ∧
      (s.pwr.stop = 13 → s.pwr.rstN = true → stage (fun u => u.pwr.phase = 2 ∧ u.pwr.stop = 0 ∧ u.cores = []))) ∧
    ((s.pwr.stop = 21 → emergency (fun u => u.pwr.stop = 22 ∧ u.pwr.ready = false ∧ u.cores = [] ∧ u.mpa = [])) ∧
      (s.pwr.stop = 22 → emergency (fun u => u.pwr.stop = 23)) ∧
      (∀ i, s.pwr.stop = 23 → s.pwr.fatal = some i → emergency (fun u => u.pwr.stop = 24 ∧ u.mgt.faultN = s.mgt.faultN + 1 ∧
        u.mgt.faultMem.bytes (s.mgt.faultN % 512 * 64) 64 = s.ras.ring.bytes (i % 1024 * 64) 64)) ∧
      (s.pwr.stop = 24 → emergency (fun u => u.pwr.vmgt = false ∧ u.pwr.phase = 0 ∧ u.mgt = s.mgt.off)))

/-- R732 to R741, R751. A detector of severity 3 begins the emergency shutdown and latches it; a short on a pedestal's own rail turns that
pedestal off; an open sense pair is recorded; a droop clears by itself, or trips where it lasts. -/
def Obligations.PowerFaults : Prop :=
  ∀ (s : State), s.watches = true → s.railsUp = true →
    let dead (u : State) : Prop := u.pwr.stop = 21 ∧ u.pwr.latched = true ∧ u.ras.logtail = s.ras.logtail + 1 ∧
      u.pwr.fatal = some s.ras.logtail.toNat
    (∀ v : BitVec 16, (v.toNat < 4300 → Completes (.vinLow v) s (fun u => dead u ∧ u.pwr.fault = s.pwr.fault ||| 1)) ∧
      (6200 < v.toNat → Completes (.vinHigh v) s (fun u => dead u ∧ u.pwr.fault = s.pwr.fault ||| 1))) ∧
    (∀ p : Fin 20,
      (p.val = 0 ∨ p.val = 10 → Completes (.railShort p .vcore) s (fun u => dead u ∧ u.pwr.fault = s.pwr.fault ||| 2)) ∧
      (p.val ≠ 0 → p.val ≠ 10 → s.pwr.pedoff.getLsbD p.val = false →
        Completes (.railShort p .vcore) s (fun u => u.pwr.stop = s.pwr.stop ∧ u.pwr.fault = s.pwr.fault ||| 2 ∧
          u.pwr.pedoff = s.pwr.pedoff ||| BitVec.ofNat 20 (2 ^ p.val) ∧ ∀ c, c < 8 → u.bad p.val (hClus c) = true)) ∧
      (∀ r, Completes (.senseOpen p r) s (fun u => u.pwr.fault = s.pwr.fault ||| 4 ∧ u.ras.logtail = s.ras.logtail + 1 ∧
        u.pwr.sense = s.pwr.sense ||| BitVec.ofNat 20 (2 ^ p.val) ∧ u.pwr.stop = s.pwr.stop)) ∧
      (s.pwr.pedoff.getLsbD p.val = false →
        Completes (.droopTrip p false true) s (fun u => dead u ∧ u.pwr.fault = s.pwr.fault ||| 8)) ∧
      (s.pwr.pedoff.getLsbD p.val = false → s.pwr.droop = false → Completes (.droopTrip p false false) s (fun u => u.pwr.droop = true ∧ u.pwr.droops = satInc s.pwr.droops ∧
        u.pwr.stop = s.pwr.stop))) ∧
    (∀ ref, 3 ≤ s.pwr.phase → Completes (.refclkLoss ref) s (fun u => dead u ∧ u.pwr.lock = false ∧ u.pwr.fallback = true)) ∧
    (∀ n, s.pwr.droop = true →
      (n ≤ 65536 → Completes (.droopClear n) s (fun u => u.now = s.now ∧
        if 786432 < s.gateSpent n then dead u
        else u.pwr.droop = false ∧ u.pwr.withheld = s.pwr.withheld + BitVec.ofNat 64 n)) ∧
      (65536 < n → Completes (.droopClear n) s (fun u => dead u ∧ u.pwr.withheld = s.pwr.withheld + 65536))) ∧
    (s.pwr.lock = true → Completes .gateRunLimit s (fun u => u.pwr.withheld = s.pwr.withheld + 65536 ∧
      if s.pwr.droop then dead u else u.pwr.stop = s.pwr.stop))

/-- R743 to R750, R765, R781. The throttle's level rises by one while power or a temperature is above the cap and falls by one below 98 %
of it; PWR_CAP takes 1,500 to 7,200 W; the supervisor counts its samples, and a leak, or a condition of severity 3 that lasts, begins the
emergency shutdown. -/
def Obligations.ThrottleAndCooling : Prop :=
  ∀ (s : State), s.mgtRuns = true →
    (∀ pin vin iin : BitVec 16, Completes (.throttleSample pin vin iin) s (fun u =>
      u.pwr.pin = pin ∧ u.pwr.vin = vin ∧ u.pwr.iin = iin ∧ u.pwr.effcap = BitVec.ofNat 16 s.effCap ∧
      u.pwr.level = (if s.effCap < pin.toNat ∨ s.pwr.tjHot = true ∨ s.pwr.hbmHot = true then min 32 (s.pwr.level + 1)
        else if 100 * pin.toNat < 98 * s.effCap then s.pwr.level - 1 else s.pwr.level) ∧
      u.sameCompute s ∧ u.sameUnits s)) ∧
    (s.pwr.atLimit = 10000 → Completes .caplimit s (fun u => u.pwr.fault = s.pwr.fault ||| 16 ∧ u.ras.logtail = s.ras.logtail + 1 ∧
      u.pwr.atLimit = 10001)) ∧
    (∀ f (v : Word), s.hostActs f false = true → Completes (.pwrCapWrite f v) s (fun u =>
      if 1500 ≤ v.toNat % 65536 ∧ v.toNat % 65536 ≤ 7200 then u.pwr = { s.pwr with cap := BitVec.ofNat 16 (v.toNat % 65536) } else u = s)) ∧
    (s.unarmed = true → ∀ (flow inlet outlet : BitVec 16) (r0 r1 : Nat),
      let leak := lineState r0 = 1 ∨ lineState r1 = 1
      Completes (.coolantSample flow inlet outlet r0 r1) s (fun u =>
        u.pwr.flow = flow ∧ u.pwr.inlet = inlet ∧ u.pwr.outlet = outlet ∧ u.pwr.line0 = lineState r0 ∧ u.pwr.line1 = lineState r1 ∧
        (140 ≤ flow.toNat → u.pwr.flowRun = 0) ∧ (flow.toNat < 140 → u.pwr.flowRun = s.pwr.flowRun + 1) ∧
        (s.watches = true → s.railsUp = true → leak → u.pwr.stop = 21))) ∧
    (s.unarmed = true → ∀ tj hbm : List (BitVec 16),
      Completes (.thermalSample tj hbm) s (fun u =>
        (∀ i, i < 20 → Tbl.get 0 u.pwr.tj i = tj.getD i 0) ∧ (∀ i, i < 12 → Tbl.get 0 u.pwr.hbm i = hbm.getD i 0) ∧
        (∀ i, i < 20 → 1100 ≤ tempOf (tj.getD i 0) → Tbl.get 0 u.pwr.tjRun i = Tbl.get 0 s.pwr.tjRun i + 1) ∧
        (s.watches = true → s.railsUp = true →
          (∃ i, i < 20 ∧ 1100 ≤ tempOf (tj.getD i 0) ∧ 1 ≤ Tbl.get 0 s.pwr.tjRun i) → u.pwr.stop = 21)))

/-! ## Management -/

/-- R725 to R728, Table 18.7. The controller answers MCTP control and PLDM requests on SMBus: the endpoint ID, the message types, the
sensors' readings and states, and the event receiver, to which held events go at once, SMB_ALERT_N low while they do (R778). -/
def Obligations.ManagementRequests : Prop :=
  ∀ (s : State), s.pwr.vmgt = true → s.mgt.phase ≠ 0 →
    let told (proto cmd code : Nat) (data : List Nat) : State := s.smbus proto cmd code data
    (∀ e : BitVec 8, e ≠ 0 → e ≠ 0xFF → Completes (.setEndpointId e) s (fun u => u.mgt = { s.mgt with eid := e } ∧
      u.sent = s.sent ++ [.mgmt 2 0 242 0 [e.toNat]])) ∧
    exec .getEndpointId s = .next (told 0 243 0 [s.mgt.eid.toNat]) ∧
    exec .getMessageTypeSupport s = .next (told 0 245 0 [0, 1, 5]) ∧
    (∀ t : BitVec 8, t.toNat ∈ mctpTypes → exec (.getMctpVersionSupport t) s = .next (told 0 244 0 (Config.mctpVersion t.toNat))) ∧
    exec .getPdrRepositoryInfo s = .next (told 1 246 0 [41]) ∧
    (∀ h id, sensorIds[h]? = some id → exec (.getPdr (h + 1)) s = .next (told 1 247 0 (id :: Config.pdrBody id))) ∧
    (∀ (id : BitVec 16) (v : Nat), s.reading id.toNat = some v → exec (.getSensorReading id) s = .next (told 1 248 0 [v])) ∧
    (∀ (id : BitVec 16) (v : Nat), s.stateReading id.toNat = some v → exec (.getStateSensorReadings id) s = .next (told 1 249 0 [v])) ∧
    (∀ e : BitVec 8,
      Completes (.setEventReceiver true e) s (fun u => u.mgt.recv = some e.toNat ∧ u.mgt.events = [] ∧
        u.sent = s.sent ++ [.mgmt 2 1 250 0 []] ++ (if s.mgt.events = [] then []
          else [.smbAlert false] ++ s.mgt.events.map (fun x => .pldmEvent x.1 x.2.1 x.2.2) ++ [.smbAlert true])) ∧
      Completes (.setEventReceiver false e) s (fun u => u.mgt = { s.mgt with recv := none })) ∧
    exec .getTid s = .next (told 1 251 0 [Config.tid]) ∧
    exec .getPldmTypes s = .next (told 1 252 0 [0, 2]) ∧
    (∀ t : BitVec 8, t = 0 ∨ t = 2 →
      exec (.getPldmCommands t) s = .next (told 1 253 0 (pldmCommands t.toNat)) ∧
      exec (.getPldmVersion t) s = .next (told 1 254 0 (Config.pldmVersion t.toNat)))

/-- R717 to R719, R723, Table 18.5. On a channel the responder negotiates in order, and then answers digests, certificates, challenges and
measurements; it holds at most four sessions, and keys IDE streams over a finished one. -/
def Obligations.AttestationRequests : Prop :=
  ∀ (s : State) (c : Fin 3), s.pwr.vmgt = true → s.mgt.phase = 1 →
    (c.val ≠ 2 → (s.hif (c.val == 1)).linkUp = true ∧ s.pcieUp = true) →
    let said (cmd : Nat) (data : List Nat) (u : State) : Prop := u.sent = s.sent ++ [.mgmt c.val 5 cmd 0 data]
    let refused (cmd code : Nat) (i : Instr) : Prop := exec i s = .next (s.send (.mgmt c.val 5 cmd code []))
    Completes (.getVersion c) s (fun u => said 255 [0x13] u ∧ u.spdmStep c = 1) ∧
    (s.spdmStep c ≠ 0 → Completes (.getCapabilities c) s (fun u => said 256 [Config.spdmFlags] u ∧ u.spdmStep c = 2)) ∧
    (s.spdmStep c = 2 → Completes (.negotiateAlgorithms c true) s (fun u => said 257 [] u ∧ u.spdmStep c = 3)) ∧
    (s.spdmStep c ≠ 2 → ∀ ok, refused 257 eUnexpected (.negotiateAlgorithms c ok)) ∧
    (s.spdmStep c ≠ 3 → refused 258 eUnexpected (.getDigests c) ∧ refused 262 eUnexpected (.keyExchange c)) ∧
    (s.spdmStep c = 3 →
      exec (.getDigests c) s = .next (s.send (.mgmt c.val 5 258 0 (Config.sha384 s.chain))) ∧
      (∀ o n, exec (.getCertificate c 0 o n) s = .next (s.send (.mgmt c.val 5 259 0 ((s.chain.drop o).take n)))) ∧
      (∀ n : BitVec 256, s.mgt.opened ≠ 2 → Completes (.challenge c 0 n) s (fun u => u.free = s.free + 1 ∧
        said 260 (s.signed ([n.toNat, (Config.trueRandom s.free).toNat] ++ Config.sha384 s.chain)) u)) ∧
      (∀ n : BitVec 256, s.mgt.opened = 2 → refused 260 eUnspecified (.challenge c 0 n) ∧ refused 262 eUnspecified (.keyExchange c)) ∧
      (∀ (i : BitVec 8) (n : BitVec 256) (d : List Nat), s.measured i.toNat = some d →
        exec (.getMeasurements c i false n) s = .next (s.send (.mgmt c.val 5 261 0 d))) ∧
      (s.mgt.opened ≠ 2 → s.mgt.sessions.length < 4 → Completes (.keyExchange c) s (fun u =>
        u.mgt.sessions = s.mgt.sessions ++ [⟨s.mgt.nextSess, c.val, false⟩] ∧ u.mgt.nextSess = s.mgt.nextSess + 1)) ∧
      (s.mgt.opened ≠ 2 → 4 ≤ s.mgt.sessions.length → refused 262 eBusy (.keyExchange c)) ∧
      (∀ id x, s.session c id = some x →
        (x.done = false → Completes (.finish c id true) s (fun u => said 263 [id] u ∧ ∃ y, u.session c id = some y ∧ y.done = true)) ∧
        (x.done = true →
          Completes (.endSession c id) s (fun u => said 264 [id] u ∧ u.session c id = none) ∧
          exec (.spdmHeartbeat c id) s = .next (s.send (.mgmt c.val 5 265 0 [id])) ∧
          (∀ stream : Fin 2, c.val ≠ 2 →
            Completes (.ideKeyManagement c id stream true) s (fun u => said 266 [c.val * 2 + stream.val] u ∧
              c.val * 2 + stream.val ∈ u.mgt.ide) ∧
            Completes (.ideKeyManagement c id stream false) s (fun u => said 266 [c.val * 2 + stream.val] u ∧
              c.val * 2 + stream.val ∉ u.mgt.ide)))))
end

