-- ==== Sys2Proof/Laws/Tbl.lean ====
section
/-! SUPPORT. Laws of sparse tables and of memory: read after write, other places, the canonical form. -/
namespace Sys2Proof

variable {α : Type}

/-! ## Tables -/

@[simp] theorem Tbl.get_nil (d : α) (k : Nat) : Tbl.get d [] k = d := rfl

theorem Tbl.get_put_self (d v : α) (k : Nat) (t : Tbl α) : Tbl.get d (Tbl.put k v t) k = v := by
  induction t with
  | nil => simp [Tbl.put, Tbl.get]
  | cons e rest ih =>
    obtain ⟨k', v'⟩ := e
    by_cases h : k' < k
    · simp [Tbl.put, Tbl.get, h, ih, Nat.ne_of_lt h]
    · by_cases h' : k' = k <;> simp [Tbl.put, Tbl.get, h, h']

theorem Tbl.get_put_other (d v : α) {k k₂ : Nat} (hk : k₂ ≠ k) (t : Tbl α) : Tbl.get d (Tbl.put k v t) k₂ = Tbl.get d t k₂ := by
  induction t with
  | nil => simp [Tbl.put, Tbl.get, Ne.symm hk]
  | cons e rest ih =>
    obtain ⟨k', v'⟩ := e
    by_cases h : k' < k
    · simp [Tbl.put, Tbl.get, h, ih]
    · by_cases h' : k' = k
      · subst h'; simp [Tbl.put, Tbl.get, Ne.symm hk]
      · simp [Tbl.put, Tbl.get, h, h', Ne.symm hk]

theorem Tbl.get_erase_self (d : α) (k : Nat) (t : Tbl α) : Tbl.get d (t.filter (fun kv => kv.1 != k)) k = d := by
  induction t with
  | nil => rfl
  | cons e rest ih =>
    obtain ⟨k', v'⟩ := e
    by_cases h : k' = k <;> simp [Tbl.get, h, ih]

theorem Tbl.get_erase_other (d : α) {k k₂ : Nat} (hk : k₂ ≠ k) (t : Tbl α) :
    Tbl.get d (t.filter (fun kv => kv.1 != k)) k₂ = Tbl.get d t k₂ := by
  induction t with
  | nil => rfl
  | cons e rest ih =>
    obtain ⟨k', v'⟩ := e
    by_cases h : k' = k
    · subst h; simp [Tbl.get, Ne.symm hk, ih]
    · simp [Tbl.get, h, ih]

/-- What was put is what is read. -/
@[simp] theorem Tbl.get_set_self [DecidableEq α] (d v : α) (k : Nat) (t : Tbl α) : Tbl.get d (Tbl.set d k v t) k = v := by
  by_cases h : v = d
  · simp [Tbl.set, h, Tbl.get_erase_self]
  · simp [Tbl.set, h, Tbl.get_put_self]

/-- A write leaves every other key alone. -/
theorem Tbl.get_set_other [DecidableEq α] (d v : α) {k k₂ : Nat} (hk : k₂ ≠ k) (t : Tbl α) : Tbl.get d (Tbl.set d k v t) k₂ = Tbl.get d t k₂ := by
  by_cases h : v = d
  · simp [Tbl.set, h, Tbl.get_erase_other d hk]
  · simp [Tbl.set, h, Tbl.get_put_other d v hk]

theorem Tbl.get_set [DecidableEq α] (d v : α) (k k₂ : Nat) (t : Tbl α) :
    Tbl.get d (Tbl.set d k v t) k₂ = if k₂ = k then v else Tbl.get d t k₂ := by
  by_cases h : k₂ = k
  · subst h; simp
  · simp [h, Tbl.get_set_other d v h]

@[simp] theorem Tbl.get_upd_self [DecidableEq α] (d : α) (k : Nat) (f : α → α) (t : Tbl α) : Tbl.get d (Tbl.upd d k f t) k = f (Tbl.get d t k) := by
  simp [Tbl.upd]

theorem Tbl.get_upd_other [DecidableEq α] (d : α) {k k₂ : Nat} (hk : k₂ ≠ k) (f : α → α) (t : Tbl α) :
    Tbl.get d (Tbl.upd d k f t) k₂ = Tbl.get d t k₂ := Tbl.get_set_other d _ hk t

/-! ## Canonical form -/

/-- The canonical form, by its two parts. -/
theorem Tbl.wf_cons [DecidableEq α] (d : α) (k : Nat) (v : α) (t : Tbl α) :
    Tbl.wf d ((k, v) :: t) = true ↔ v ≠ d ∧ (∀ e ∈ t, k < e.1) ∧ Tbl.wf d t = true := by
  induction t generalizing k v with
  | nil => simp [Tbl.wf]
  | cons e rest ih =>
    obtain ⟨k', v'⟩ := e
    simp only [Tbl.wf, Bool.and_eq_true, decide_eq_true_eq, ih]
    constructor
    · rintro ⟨⟨hv, hk⟩, hv', hall, hw⟩
      refine ⟨hv, ?_, hv', hall, hw⟩
      intro e he
      rcases List.mem_cons.1 he with rfl | he
      · exact hk
      · exact Nat.lt_trans hk (hall e he)
    · rintro ⟨hv, hall, hv', hall', hw⟩
      exact ⟨⟨hv, hall (k', v') (by simp)⟩, hv', hall', hw⟩

theorem Tbl.put_keys {k : Nat} {v : α} {t : Tbl α} {e : Nat × α} (he : e ∈ Tbl.put k v t) : e = (k, v) ∨ e ∈ t := by
  induction t with
  | nil => simpa [Tbl.put] using he
  | cons x rest ih =>
    obtain ⟨k', v'⟩ := x
    simp only [Tbl.put] at he
    split at he
    · rcases List.mem_cons.1 he with h | h
      · exact .inr (by simp [h])
      · rcases ih h with h | h
        · exact .inl h
        · exact .inr (by simp [h])
    · split at he
      · rcases List.mem_cons.1 he with h | h
        · exact .inl h
        · exact .inr (by simp [h])
      · rcases List.mem_cons.1 he with h | h
        · exact .inl h
        · exact .inr h

theorem Tbl.wf_put [DecidableEq α] (d v : α) (hv : v ≠ d) (k : Nat) (t : Tbl α) (ht : Tbl.wf d t = true) : Tbl.wf d (Tbl.put k v t) = true := by
  induction t with
  | nil => simp [Tbl.put, Tbl.wf, hv]
  | cons x rest ih =>
    obtain ⟨k', v'⟩ := x
    obtain ⟨hv', hall, hw⟩ := (Tbl.wf_cons d k' v' rest).1 ht
    simp only [Tbl.put]
    split
    · rename_i hlt
      refine (Tbl.wf_cons d k' v' _).2 ⟨hv', ?_, ih hw⟩
      intro e he
      rcases Tbl.put_keys he with rfl | he
      · exact hlt
      · exact hall e he
    · split
      · rename_i _ heq
        subst heq
        exact (Tbl.wf_cons d _ v _).2 ⟨hv, hall, hw⟩
      · rename_i h1 h2
        refine (Tbl.wf_cons d k v _).2 ⟨hv, ?_, ht⟩
        intro e he
        have hk : k < k' := by omega
        rcases List.mem_cons.1 he with rfl | he
        · exact hk
        · exact Nat.lt_trans hk (hall e he)

theorem Tbl.wf_filter [DecidableEq α] (d : α) (p : Nat × α → Bool) (t : Tbl α) (ht : Tbl.wf d t = true) : Tbl.wf d (t.filter p) = true := by
  induction t with
  | nil => rfl
  | cons x rest ih =>
    obtain ⟨k', v'⟩ := x
    obtain ⟨hv', hall, hw⟩ := (Tbl.wf_cons d k' v' rest).1 ht
    by_cases h : p (k', v') = true
    · rw [List.filter_cons_of_pos h]
      exact (Tbl.wf_cons d k' v' _).2 ⟨hv', fun e he => hall e (List.mem_filter.1 he).1, ih hw⟩
    · rw [List.filter_cons_of_neg h]
      exact ih hw

/-- Every write keeps the canonical form. -/
theorem Tbl.wf_set [DecidableEq α] (d v : α) (k : Nat) (t : Tbl α) (ht : Tbl.wf d t = true) : Tbl.wf d (Tbl.set d k v t) = true := by
  unfold Tbl.set
  split
  · exact Tbl.wf_filter d _ t ht
  · rename_i h; exact Tbl.wf_put d v h k t ht

theorem Tbl.wf_upd [DecidableEq α] (d : α) (k : Nat) (f : α → α) (t : Tbl α) (ht : Tbl.wf d t = true) : Tbl.wf d (Tbl.upd d k f t) = true :=
  Tbl.wf_set d _ k t ht

theorem Tbl.wf_keep [DecidableEq α] (d : α) (p : Nat → α → Bool) (t : Tbl α) (ht : Tbl.wf d t = true) : Tbl.wf d (Tbl.keep p t) = true :=
  Tbl.wf_filter d _ t ht

theorem Tbl.map_keys [DecidableEq α] {d : α} {f : Nat → α → α} {t : Tbl α} {e : Nat × α} (he : e ∈ Tbl.map d f t) : ∃ v, (e.1, v) ∈ t := by
  induction t with
  | nil => simp [Tbl.map] at he
  | cons x rest ih =>
    obtain ⟨k', v'⟩ := x
    simp only [Tbl.map] at he
    split at he
    · obtain ⟨v, hv⟩ := ih he; exact ⟨v, by simp [hv]⟩
    · rcases List.mem_cons.1 he with rfl | he
      · exact ⟨v', by simp⟩
      · obtain ⟨v, hv⟩ := ih he; exact ⟨v, by simp [hv]⟩

theorem Tbl.wf_map [DecidableEq α] (d : α) (f : Nat → α → α) (t : Tbl α) (ht : Tbl.wf d t = true) : Tbl.wf d (Tbl.map d f t) = true := by
  induction t with
  | nil => rfl
  | cons x rest ih =>
    obtain ⟨k', v'⟩ := x
    obtain ⟨hv', hall, hw⟩ := (Tbl.wf_cons d k' v' rest).1 ht
    simp only [Tbl.map]
    split
    · exact ih hw
    · rename_i h
      refine (Tbl.wf_cons d _ _ _).2 ⟨h, ?_, ih hw⟩
      intro e he
      obtain ⟨v, hv⟩ := Tbl.map_keys he
      exact hall (e.1, v) hv

/-! ## Memory -/

/-- A key below every key of a canonical table is not listed. -/
theorem Tbl.get_below [DecidableEq α] (d : α) {k : Nat} {t : Tbl α} (h : ∀ e ∈ t, k < e.1) : Tbl.get d t k = d := by
  induction t with
  | nil => rfl
  | cons e t ih =>
    have h0 := h e (by simp)
    unfold Tbl.get
    rw [if_neg (by omega)]
    exact ih (fun x hx => h x (by simp [hx]))

/-- Canonical tables that read alike are equal. -/
theorem Tbl.ext_of_wf [DecidableEq α] (d : α) {t u : Tbl α} (ht : Tbl.wf d t = true) (hu : Tbl.wf d u = true)
    (h : ∀ k, Tbl.get d t k = Tbl.get d u k) : t = u := by
  induction t generalizing u with
  | nil =>
    cases u with
    | nil => rfl
    | cons e u =>
      have := (Tbl.wf_cons d e.1 e.2 u).mp hu
      have := h e.1
      simp_all [Tbl.get]
  | cons e t ih =>
    have ht' := (Tbl.wf_cons d e.1 e.2 t).mp ht
    cases u with
    | nil => have := h e.1; simp_all [Tbl.get]
    | cons x u =>
      have hu' := (Tbl.wf_cons d x.1 x.2 u).mp hu
      have gt : ∀ k, k ≤ e.1 → Tbl.get d t k = d := fun k hk => Tbl.get_below d (fun y hy => by have := ht'.2.1 y hy; omega)
      have gu : ∀ k, k ≤ x.1 → Tbl.get d u k = d := fun k hk => Tbl.get_below d (fun y hy => by have := hu'.2.1 y hy; omega)
      obtain ⟨k, v⟩ := e
      obtain ⟨k', v'⟩ := x
      simp only [Tbl.get] at h
      have hkk : k = k' := by
        rcases Nat.lt_trichotomy k k' with l | l | l
        · have := h k; rw [if_pos rfl, if_neg (by omega), gu k (by simp; omega)] at this; exact absurd this ht'.1
        · exact l
        · have := h k'; rw [if_pos rfl, if_neg (by omega), gt k' (by simp; omega)] at this; exact absurd this.symm hu'.1
      subst hkk
      have hv : v = v' := by have := h k; simpa using this
      subst hv
      congr 1
      refine ih ht'.2.2 hu'.2.2 (fun j => ?_)
      by_cases hj : k = j
      · subst hj; rw [gt _ (Nat.le_refl _), gu _ (Nat.le_refl _)]
      · have := h j; simpa [hj] using this


@[simp] theorem Memory.byte_setByte_self (a : Nat) (b : Byte) (m : Memory) : (m.setByte a b).byte a = b :=
  Tbl.get_set_self _ b a m

theorem Memory.byte_setByte_other {a a₂ : Nat} (h : a₂ ≠ a) (b : Byte) (m : Memory) : (m.setByte a b).byte a₂ = m.byte a₂ :=
  Tbl.get_set_other _ b h m

/-- A write leaves every byte outside its run alone. -/
theorem Memory.byte_write_other (bs : List Byte) (a a₂ : Nat) (h : a₂ < a ∨ a + bs.length ≤ a₂) (m : Memory) :
    (Memory.write a bs m).byte a₂ = m.byte a₂ := by
  induction bs generalizing a m with
  | nil => rfl
  | cons b bs ih =>
    simp only [List.length_cons] at h
    rw [Memory.write, ih (a + 1) (by omega), Memory.byte_setByte_other (by omega)]

/-- A byte within the run of a write reads as written. -/
theorem Memory.byte_write_inside (bs : List Byte) (a i : Nat) (h : i < bs.length) (m : Memory) :
    (Memory.write a bs m).byte (a + i) = bs[i] := by
  induction bs generalizing a i m with
  | nil => simp at h
  | cons b bs ih =>
    cases i with
    | zero =>
      show (Memory.write (a + 1) bs (m.setByte a b)).byte a = b
      rw [Memory.byte_write_other bs (a + 1) a (by omega), Memory.byte_setByte_self]
    | succ i =>
      have := ih (a + 1) i (by simpa using h) (m.setByte a b)
      rw [show a + (i + 1) = a + 1 + i by omega, Memory.write, this]; simp

theorem Memory.bytes_length (m : Memory) (a n : Nat) : (m.bytes a n).length = n := by
  induction n generalizing a with
  | zero => rfl
  | succ n ih => simp [Memory.bytes, ih]

/-- Read after write: the bytes written are the bytes read. -/
theorem Memory.bytes_write_self (bs : List Byte) (a : Nat) (m : Memory) : (Memory.write a bs m).bytes a bs.length = bs := by
  have key : ∀ (n i : Nat) (_ : i + n = bs.length), (Memory.write a bs m).bytes (a + i) n = bs.drop i := by
    intro n
    induction n with
    | zero => intro i hi; rw [List.drop_eq_nil_of_le (by omega)]; rfl
    | succ n ih =>
      intro i hi
      have hlt : i < bs.length := by omega
      rw [Memory.bytes, Memory.byte_write_inside bs a i hlt, Nat.add_assoc, ih (i + 1) (by omega), List.drop_eq_getElem_cons hlt]
  simpa using key bs.length 0 (by simp)

theorem Memory.wf_setByte (a : Nat) (b : Byte) (m : Memory) (h : m.wf = true) : (m.setByte a b).wf = true :=
  Tbl.wf_set _ b a m h

/-- Every write keeps the canonical form of memory. -/
theorem Memory.wf_write (bs : List Byte) (a : Nat) (m : Memory) (h : m.wf = true) : (Memory.write a bs m).wf = true := by
  induction bs generalizing a m with
  | nil => exact h
  | cons b bs ih => exact ih (a + 1) _ (Memory.wf_setByte a b m h)

end Sys2Proof
end

