-- ==== Sys2Proof/Laws/State.lean ====
section
/-! SUPPORT. What each named update of the state leaves alone, field by field, and what it puts where. -/
namespace Sys2Proof.Machine
open Sys2Proof

/-! ## `setCore` -/

section
variable (s : State) (key : Nat) (c : Core)

@[simp] theorem State.setCore_now : (s.setCore key c).now = s.now := rfl
@[simp] theorem State.setCore_ftOff : (s.setCore key c).ftOff = s.ftOff := rfl
@[simp] theorem State.setCore_active : (s.setCore key c).active = s.active := rfl
@[simp] theorem State.setCore_a0 : (s.setCore key c).a0 = s.a0 := rfl
@[simp] theorem State.setCore_dshare : (s.setCore key c).dshare = s.dshare := rfl
@[simp] theorem State.setCore_fresh : (s.setCore key c).fresh = s.fresh := rfl
@[simp] theorem State.setCore_clus : (s.setCore key c).clus = s.clus := rfl
@[simp] theorem State.setCore_peds : (s.setCore key c).peds = s.peds := rfl
@[simp] theorem State.setCore_mpa : (s.setCore key c).mpa = s.mpa := rfl
@[simp] theorem State.setCore_poison : (s.setCore key c).poison = s.poison := rfl
@[simp] theorem State.setCore_niches : (s.setCore key c).niches = s.niches := rfl
@[simp] theorem State.setCore_casts : (s.setCore key c).casts = s.casts := rfl
@[simp] theorem State.setCore_jobs : (s.setCore key c).jobs = s.jobs := rfl
@[simp] theorem State.setCore_nextJob : (s.setCore key c).nextJob = s.nextJob := rfl
@[simp] theorem State.setCore_sigs : (s.setCore key c).sigs = s.sigs := rfl
@[simp] theorem State.setCore_order : (s.setCore key c).order = s.order := rfl
@[simp] theorem State.setCore_hif0 : (s.setCore key c).hif0 = s.hif0 := rfl
@[simp] theorem State.setCore_hif1 : (s.setCore key c).hif1 = s.hif1 := rfl
@[simp] theorem State.setCore_sqs : (s.setCore key c).sqs = s.sqs := rfl
@[simp] theorem State.setCore_cqs : (s.setCore key c).cqs = s.cqs := rfl
@[simp] theorem State.setCore_ras : (s.setCore key c).ras = s.ras := rfl
@[simp] theorem State.setCore_arms : (s.setCore key c).arms = s.arms := rfl
@[simp] theorem State.setCore_slots : (s.setCore key c).slots = s.slots := rfl
@[simp] theorem State.setCore_slotShadow : (s.setCore key c).slotShadow = s.slotShadow := rfl
@[simp] theorem State.setCore_lath : (s.setCore key c).lath = s.lath := rfl
@[simp] theorem State.setCore_mgt : (s.setCore key c).mgt = s.mgt := rfl
@[simp] theorem State.setCore_pwr : (s.setCore key c).pwr = s.pwr := rfl
@[simp] theorem State.setCore_evc : (s.setCore key c).evc = s.evc := rfl
@[simp] theorem State.setCore_evFreeze : (s.setCore key c).evFreeze = s.evFreeze := rfl
@[simp] theorem State.setCore_free : (s.setCore key c).free = s.free := rfl
@[simp] theorem State.setCore_sent : (s.setCore key c).sent = s.sent := rfl
@[simp] theorem State.setCore_pending : (s.setCore key c).pending = s.pending := rfl
@[simp] theorem State.setCore_clu (key₂ : Nat) : (s.setCore key c).clu key₂ = s.clu key₂ := rfl
@[simp] theorem State.setCore_ped (key₂ : Nat) : (s.setCore key c).ped key₂ = s.ped key₂ := rfl
@[simp] theorem State.setCore_niche (key₂ : Nat) : (s.setCore key c).niche key₂ = s.niche key₂ := rfl
@[simp] theorem State.setCore_job (key₂ : Nat) : (s.setCore key c).job key₂ = s.job key₂ := rfl
@[simp] theorem State.setCore_sq (key₂ : Nat) : (s.setCore key c).sq key₂ = s.sq key₂ := rfl
@[simp] theorem State.setCore_cq (key₂ : Nat) : (s.setCore key c).cq key₂ = s.cq key₂ := rfl
@[simp] theorem State.setCore_hif (f₂ : Bool) : (s.setCore key c).hif f₂ = s.hif f₂ := rfl
@[simp] theorem State.setCore_arm (off₂ tgt₂ : Nat) : (s.setCore key c).arm off₂ tgt₂ = s.arm off₂ tgt₂ := rfl
@[simp] theorem State.setCore_port (key₂ : Nat) : (s.setCore key c).port key₂ = s.port key₂ := rfl
@[simp] theorem State.setCore_rft (key₂ : Nat) : (s.setCore key c).rft key₂ = s.rft key₂ := rfl
@[simp] theorem State.setCore_tq (key₂ : Nat) : (s.setCore key c).tq key₂ = s.tq key₂ := rfl
@[simp] theorem State.setCore_core_self : (s.setCore key c).core key = c := Tbl.get_set_self _ _ _ _
theorem State.setCore_core_other {key₂ : Nat} (h : key₂ ≠ key) : (s.setCore key c).core key₂ = s.core key₂ := Tbl.get_set_other _ _ h _

end

/-! ## `updCore` -/

section
variable (s : State) (key : Nat) (f : Core → Core)

@[simp] theorem State.updCore_now : (s.updCore key f).now = s.now := rfl
@[simp] theorem State.updCore_ftOff : (s.updCore key f).ftOff = s.ftOff := rfl
@[simp] theorem State.updCore_active : (s.updCore key f).active = s.active := rfl
@[simp] theorem State.updCore_a0 : (s.updCore key f).a0 = s.a0 := rfl
@[simp] theorem State.updCore_dshare : (s.updCore key f).dshare = s.dshare := rfl
@[simp] theorem State.updCore_fresh : (s.updCore key f).fresh = s.fresh := rfl
@[simp] theorem State.updCore_clus : (s.updCore key f).clus = s.clus := rfl
@[simp] theorem State.updCore_peds : (s.updCore key f).peds = s.peds := rfl
@[simp] theorem State.updCore_mpa : (s.updCore key f).mpa = s.mpa := rfl
@[simp] theorem State.updCore_poison : (s.updCore key f).poison = s.poison := rfl
@[simp] theorem State.updCore_niches : (s.updCore key f).niches = s.niches := rfl
@[simp] theorem State.updCore_casts : (s.updCore key f).casts = s.casts := rfl
@[simp] theorem State.updCore_jobs : (s.updCore key f).jobs = s.jobs := rfl
@[simp] theorem State.updCore_nextJob : (s.updCore key f).nextJob = s.nextJob := rfl
@[simp] theorem State.updCore_sigs : (s.updCore key f).sigs = s.sigs := rfl
@[simp] theorem State.updCore_order : (s.updCore key f).order = s.order := rfl
@[simp] theorem State.updCore_hif0 : (s.updCore key f).hif0 = s.hif0 := rfl
@[simp] theorem State.updCore_hif1 : (s.updCore key f).hif1 = s.hif1 := rfl
@[simp] theorem State.updCore_sqs : (s.updCore key f).sqs = s.sqs := rfl
@[simp] theorem State.updCore_cqs : (s.updCore key f).cqs = s.cqs := rfl
@[simp] theorem State.updCore_ras : (s.updCore key f).ras = s.ras := rfl
@[simp] theorem State.updCore_arms : (s.updCore key f).arms = s.arms := rfl
@[simp] theorem State.updCore_slots : (s.updCore key f).slots = s.slots := rfl
@[simp] theorem State.updCore_slotShadow : (s.updCore key f).slotShadow = s.slotShadow := rfl
@[simp] theorem State.updCore_lath : (s.updCore key f).lath = s.lath := rfl
@[simp] theorem State.updCore_mgt : (s.updCore key f).mgt = s.mgt := rfl
@[simp] theorem State.updCore_pwr : (s.updCore key f).pwr = s.pwr := rfl
@[simp] theorem State.updCore_evc : (s.updCore key f).evc = s.evc := rfl
@[simp] theorem State.updCore_evFreeze : (s.updCore key f).evFreeze = s.evFreeze := rfl
@[simp] theorem State.updCore_free : (s.updCore key f).free = s.free := rfl
@[simp] theorem State.updCore_sent : (s.updCore key f).sent = s.sent := rfl
@[simp] theorem State.updCore_pending : (s.updCore key f).pending = s.pending := rfl
@[simp] theorem State.updCore_clu (key₂ : Nat) : (s.updCore key f).clu key₂ = s.clu key₂ := rfl
@[simp] theorem State.updCore_ped (key₂ : Nat) : (s.updCore key f).ped key₂ = s.ped key₂ := rfl
@[simp] theorem State.updCore_niche (key₂ : Nat) : (s.updCore key f).niche key₂ = s.niche key₂ := rfl
@[simp] theorem State.updCore_job (key₂ : Nat) : (s.updCore key f).job key₂ = s.job key₂ := rfl
@[simp] theorem State.updCore_sq (key₂ : Nat) : (s.updCore key f).sq key₂ = s.sq key₂ := rfl
@[simp] theorem State.updCore_cq (key₂ : Nat) : (s.updCore key f).cq key₂ = s.cq key₂ := rfl
@[simp] theorem State.updCore_hif (f₂ : Bool) : (s.updCore key f).hif f₂ = s.hif f₂ := rfl
@[simp] theorem State.updCore_arm (off₂ tgt₂ : Nat) : (s.updCore key f).arm off₂ tgt₂ = s.arm off₂ tgt₂ := rfl
@[simp] theorem State.updCore_port (key₂ : Nat) : (s.updCore key f).port key₂ = s.port key₂ := rfl
@[simp] theorem State.updCore_rft (key₂ : Nat) : (s.updCore key f).rft key₂ = s.rft key₂ := rfl
@[simp] theorem State.updCore_tq (key₂ : Nat) : (s.updCore key f).tq key₂ = s.tq key₂ := rfl
@[simp] theorem State.updCore_core_self : (s.updCore key f).core key = f (s.core key) := Tbl.get_set_self _ _ _ _
theorem State.updCore_core_other {key₂ : Nat} (h : key₂ ≠ key) : (s.updCore key f).core key₂ = s.core key₂ := Tbl.get_set_other _ _ h _

end

/-! ## `setClu` -/

section
variable (s : State) (key : Nat) (c : Cluster)

@[simp] theorem State.setClu_now : (s.setClu key c).now = s.now := rfl
@[simp] theorem State.setClu_ftOff : (s.setClu key c).ftOff = s.ftOff := rfl
@[simp] theorem State.setClu_active : (s.setClu key c).active = s.active := rfl
@[simp] theorem State.setClu_a0 : (s.setClu key c).a0 = s.a0 := rfl
@[simp] theorem State.setClu_dshare : (s.setClu key c).dshare = s.dshare := rfl
@[simp] theorem State.setClu_fresh : (s.setClu key c).fresh = s.fresh := rfl
@[simp] theorem State.setClu_cores : (s.setClu key c).cores = s.cores := rfl
@[simp] theorem State.setClu_peds : (s.setClu key c).peds = s.peds := rfl
@[simp] theorem State.setClu_mpa : (s.setClu key c).mpa = s.mpa := rfl
@[simp] theorem State.setClu_poison : (s.setClu key c).poison = s.poison := rfl
@[simp] theorem State.setClu_niches : (s.setClu key c).niches = s.niches := rfl
@[simp] theorem State.setClu_casts : (s.setClu key c).casts = s.casts := rfl
@[simp] theorem State.setClu_jobs : (s.setClu key c).jobs = s.jobs := rfl
@[simp] theorem State.setClu_nextJob : (s.setClu key c).nextJob = s.nextJob := rfl
@[simp] theorem State.setClu_sigs : (s.setClu key c).sigs = s.sigs := rfl
@[simp] theorem State.setClu_order : (s.setClu key c).order = s.order := rfl
@[simp] theorem State.setClu_hif0 : (s.setClu key c).hif0 = s.hif0 := rfl
@[simp] theorem State.setClu_hif1 : (s.setClu key c).hif1 = s.hif1 := rfl
@[simp] theorem State.setClu_sqs : (s.setClu key c).sqs = s.sqs := rfl
@[simp] theorem State.setClu_cqs : (s.setClu key c).cqs = s.cqs := rfl
@[simp] theorem State.setClu_ras : (s.setClu key c).ras = s.ras := rfl
@[simp] theorem State.setClu_arms : (s.setClu key c).arms = s.arms := rfl
@[simp] theorem State.setClu_slots : (s.setClu key c).slots = s.slots := rfl
@[simp] theorem State.setClu_slotShadow : (s.setClu key c).slotShadow = s.slotShadow := rfl
@[simp] theorem State.setClu_lath : (s.setClu key c).lath = s.lath := rfl
@[simp] theorem State.setClu_mgt : (s.setClu key c).mgt = s.mgt := rfl
@[simp] theorem State.setClu_pwr : (s.setClu key c).pwr = s.pwr := rfl
@[simp] theorem State.setClu_evc : (s.setClu key c).evc = s.evc := rfl
@[simp] theorem State.setClu_evFreeze : (s.setClu key c).evFreeze = s.evFreeze := rfl
@[simp] theorem State.setClu_free : (s.setClu key c).free = s.free := rfl
@[simp] theorem State.setClu_sent : (s.setClu key c).sent = s.sent := rfl
@[simp] theorem State.setClu_pending : (s.setClu key c).pending = s.pending := rfl
@[simp] theorem State.setClu_core (key₂ : Nat) : (s.setClu key c).core key₂ = s.core key₂ := rfl
@[simp] theorem State.setClu_ped (key₂ : Nat) : (s.setClu key c).ped key₂ = s.ped key₂ := rfl
@[simp] theorem State.setClu_niche (key₂ : Nat) : (s.setClu key c).niche key₂ = s.niche key₂ := rfl
@[simp] theorem State.setClu_job (key₂ : Nat) : (s.setClu key c).job key₂ = s.job key₂ := rfl
@[simp] theorem State.setClu_sq (key₂ : Nat) : (s.setClu key c).sq key₂ = s.sq key₂ := rfl
@[simp] theorem State.setClu_cq (key₂ : Nat) : (s.setClu key c).cq key₂ = s.cq key₂ := rfl
@[simp] theorem State.setClu_hif (f₂ : Bool) : (s.setClu key c).hif f₂ = s.hif f₂ := rfl
@[simp] theorem State.setClu_arm (off₂ tgt₂ : Nat) : (s.setClu key c).arm off₂ tgt₂ = s.arm off₂ tgt₂ := rfl
@[simp] theorem State.setClu_port (key₂ : Nat) : (s.setClu key c).port key₂ = s.port key₂ := rfl
@[simp] theorem State.setClu_rft (key₂ : Nat) : (s.setClu key c).rft key₂ = s.rft key₂ := rfl
@[simp] theorem State.setClu_tq (key₂ : Nat) : (s.setClu key c).tq key₂ = s.tq key₂ := rfl
@[simp] theorem State.setClu_clu_self : (s.setClu key c).clu key = c := Tbl.get_set_self _ _ _ _
theorem State.setClu_clu_other {key₂ : Nat} (h : key₂ ≠ key) : (s.setClu key c).clu key₂ = s.clu key₂ := Tbl.get_set_other _ _ h _

end

/-! ## `updClu` -/

section
variable (s : State) (key : Nat) (f : Cluster → Cluster)

@[simp] theorem State.updClu_now : (s.updClu key f).now = s.now := rfl
@[simp] theorem State.updClu_ftOff : (s.updClu key f).ftOff = s.ftOff := rfl
@[simp] theorem State.updClu_active : (s.updClu key f).active = s.active := rfl
@[simp] theorem State.updClu_a0 : (s.updClu key f).a0 = s.a0 := rfl
@[simp] theorem State.updClu_dshare : (s.updClu key f).dshare = s.dshare := rfl
@[simp] theorem State.updClu_fresh : (s.updClu key f).fresh = s.fresh := rfl
@[simp] theorem State.updClu_cores : (s.updClu key f).cores = s.cores := rfl
@[simp] theorem State.updClu_peds : (s.updClu key f).peds = s.peds := rfl
@[simp] theorem State.updClu_mpa : (s.updClu key f).mpa = s.mpa := rfl
@[simp] theorem State.updClu_poison : (s.updClu key f).poison = s.poison := rfl
@[simp] theorem State.updClu_niches : (s.updClu key f).niches = s.niches := rfl
@[simp] theorem State.updClu_casts : (s.updClu key f).casts = s.casts := rfl
@[simp] theorem State.updClu_jobs : (s.updClu key f).jobs = s.jobs := rfl
@[simp] theorem State.updClu_nextJob : (s.updClu key f).nextJob = s.nextJob := rfl
@[simp] theorem State.updClu_sigs : (s.updClu key f).sigs = s.sigs := rfl
@[simp] theorem State.updClu_order : (s.updClu key f).order = s.order := rfl
@[simp] theorem State.updClu_hif0 : (s.updClu key f).hif0 = s.hif0 := rfl
@[simp] theorem State.updClu_hif1 : (s.updClu key f).hif1 = s.hif1 := rfl
@[simp] theorem State.updClu_sqs : (s.updClu key f).sqs = s.sqs := rfl
@[simp] theorem State.updClu_cqs : (s.updClu key f).cqs = s.cqs := rfl
@[simp] theorem State.updClu_ras : (s.updClu key f).ras = s.ras := rfl
@[simp] theorem State.updClu_arms : (s.updClu key f).arms = s.arms := rfl
@[simp] theorem State.updClu_slots : (s.updClu key f).slots = s.slots := rfl
@[simp] theorem State.updClu_slotShadow : (s.updClu key f).slotShadow = s.slotShadow := rfl
@[simp] theorem State.updClu_lath : (s.updClu key f).lath = s.lath := rfl
@[simp] theorem State.updClu_mgt : (s.updClu key f).mgt = s.mgt := rfl
@[simp] theorem State.updClu_pwr : (s.updClu key f).pwr = s.pwr := rfl
@[simp] theorem State.updClu_evc : (s.updClu key f).evc = s.evc := rfl
@[simp] theorem State.updClu_evFreeze : (s.updClu key f).evFreeze = s.evFreeze := rfl
@[simp] theorem State.updClu_free : (s.updClu key f).free = s.free := rfl
@[simp] theorem State.updClu_sent : (s.updClu key f).sent = s.sent := rfl
@[simp] theorem State.updClu_pending : (s.updClu key f).pending = s.pending := rfl
@[simp] theorem State.updClu_core (key₂ : Nat) : (s.updClu key f).core key₂ = s.core key₂ := rfl
@[simp] theorem State.updClu_ped (key₂ : Nat) : (s.updClu key f).ped key₂ = s.ped key₂ := rfl
@[simp] theorem State.updClu_niche (key₂ : Nat) : (s.updClu key f).niche key₂ = s.niche key₂ := rfl
@[simp] theorem State.updClu_job (key₂ : Nat) : (s.updClu key f).job key₂ = s.job key₂ := rfl
@[simp] theorem State.updClu_sq (key₂ : Nat) : (s.updClu key f).sq key₂ = s.sq key₂ := rfl
@[simp] theorem State.updClu_cq (key₂ : Nat) : (s.updClu key f).cq key₂ = s.cq key₂ := rfl
@[simp] theorem State.updClu_hif (f₂ : Bool) : (s.updClu key f).hif f₂ = s.hif f₂ := rfl
@[simp] theorem State.updClu_arm (off₂ tgt₂ : Nat) : (s.updClu key f).arm off₂ tgt₂ = s.arm off₂ tgt₂ := rfl
@[simp] theorem State.updClu_port (key₂ : Nat) : (s.updClu key f).port key₂ = s.port key₂ := rfl
@[simp] theorem State.updClu_rft (key₂ : Nat) : (s.updClu key f).rft key₂ = s.rft key₂ := rfl
@[simp] theorem State.updClu_tq (key₂ : Nat) : (s.updClu key f).tq key₂ = s.tq key₂ := rfl
@[simp] theorem State.updClu_clu_self : (s.updClu key f).clu key = f (s.clu key) := Tbl.get_set_self _ _ _ _
theorem State.updClu_clu_other {key₂ : Nat} (h : key₂ ≠ key) : (s.updClu key f).clu key₂ = s.clu key₂ := Tbl.get_set_other _ _ h _

end

/-! ## `setPed` -/

section
variable (s : State) (key : Nat) (c : Ped)

@[simp] theorem State.setPed_now : (s.setPed key c).now = s.now := rfl
@[simp] theorem State.setPed_ftOff : (s.setPed key c).ftOff = s.ftOff := rfl
@[simp] theorem State.setPed_active : (s.setPed key c).active = s.active := rfl
@[simp] theorem State.setPed_a0 : (s.setPed key c).a0 = s.a0 := rfl
@[simp] theorem State.setPed_dshare : (s.setPed key c).dshare = s.dshare := rfl
@[simp] theorem State.setPed_fresh : (s.setPed key c).fresh = s.fresh := rfl
@[simp] theorem State.setPed_cores : (s.setPed key c).cores = s.cores := rfl
@[simp] theorem State.setPed_clus : (s.setPed key c).clus = s.clus := rfl
@[simp] theorem State.setPed_mpa : (s.setPed key c).mpa = s.mpa := rfl
@[simp] theorem State.setPed_poison : (s.setPed key c).poison = s.poison := rfl
@[simp] theorem State.setPed_niches : (s.setPed key c).niches = s.niches := rfl
@[simp] theorem State.setPed_casts : (s.setPed key c).casts = s.casts := rfl
@[simp] theorem State.setPed_jobs : (s.setPed key c).jobs = s.jobs := rfl
@[simp] theorem State.setPed_nextJob : (s.setPed key c).nextJob = s.nextJob := rfl
@[simp] theorem State.setPed_sigs : (s.setPed key c).sigs = s.sigs := rfl
@[simp] theorem State.setPed_order : (s.setPed key c).order = s.order := rfl
@[simp] theorem State.setPed_hif0 : (s.setPed key c).hif0 = s.hif0 := rfl
@[simp] theorem State.setPed_hif1 : (s.setPed key c).hif1 = s.hif1 := rfl
@[simp] theorem State.setPed_sqs : (s.setPed key c).sqs = s.sqs := rfl
@[simp] theorem State.setPed_cqs : (s.setPed key c).cqs = s.cqs := rfl
@[simp] theorem State.setPed_ras : (s.setPed key c).ras = s.ras := rfl
@[simp] theorem State.setPed_arms : (s.setPed key c).arms = s.arms := rfl
@[simp] theorem State.setPed_slots : (s.setPed key c).slots = s.slots := rfl
@[simp] theorem State.setPed_slotShadow : (s.setPed key c).slotShadow = s.slotShadow := rfl
@[simp] theorem State.setPed_lath : (s.setPed key c).lath = s.lath := rfl
@[simp] theorem State.setPed_mgt : (s.setPed key c).mgt = s.mgt := rfl
@[simp] theorem State.setPed_pwr : (s.setPed key c).pwr = s.pwr := rfl
@[simp] theorem State.setPed_evc : (s.setPed key c).evc = s.evc := rfl
@[simp] theorem State.setPed_evFreeze : (s.setPed key c).evFreeze = s.evFreeze := rfl
@[simp] theorem State.setPed_free : (s.setPed key c).free = s.free := rfl
@[simp] theorem State.setPed_sent : (s.setPed key c).sent = s.sent := rfl
@[simp] theorem State.setPed_pending : (s.setPed key c).pending = s.pending := rfl
@[simp] theorem State.setPed_core (key₂ : Nat) : (s.setPed key c).core key₂ = s.core key₂ := rfl
@[simp] theorem State.setPed_clu (key₂ : Nat) : (s.setPed key c).clu key₂ = s.clu key₂ := rfl
@[simp] theorem State.setPed_niche (key₂ : Nat) : (s.setPed key c).niche key₂ = s.niche key₂ := rfl
@[simp] theorem State.setPed_job (key₂ : Nat) : (s.setPed key c).job key₂ = s.job key₂ := rfl
@[simp] theorem State.setPed_sq (key₂ : Nat) : (s.setPed key c).sq key₂ = s.sq key₂ := rfl
@[simp] theorem State.setPed_cq (key₂ : Nat) : (s.setPed key c).cq key₂ = s.cq key₂ := rfl
@[simp] theorem State.setPed_hif (f₂ : Bool) : (s.setPed key c).hif f₂ = s.hif f₂ := rfl
@[simp] theorem State.setPed_arm (off₂ tgt₂ : Nat) : (s.setPed key c).arm off₂ tgt₂ = s.arm off₂ tgt₂ := rfl
@[simp] theorem State.setPed_port (key₂ : Nat) : (s.setPed key c).port key₂ = s.port key₂ := rfl
@[simp] theorem State.setPed_rft (key₂ : Nat) : (s.setPed key c).rft key₂ = s.rft key₂ := rfl
@[simp] theorem State.setPed_tq (key₂ : Nat) : (s.setPed key c).tq key₂ = s.tq key₂ := rfl
@[simp] theorem State.setPed_ped_self : (s.setPed key c).ped key = c := Tbl.get_set_self _ _ _ _
theorem State.setPed_ped_other {key₂ : Nat} (h : key₂ ≠ key) : (s.setPed key c).ped key₂ = s.ped key₂ := Tbl.get_set_other _ _ h _

end

/-! ## `updPed` -/

section
variable (s : State) (key : Nat) (f : Ped → Ped)

@[simp] theorem State.updPed_now : (s.updPed key f).now = s.now := rfl
@[simp] theorem State.updPed_ftOff : (s.updPed key f).ftOff = s.ftOff := rfl
@[simp] theorem State.updPed_active : (s.updPed key f).active = s.active := rfl
@[simp] theorem State.updPed_a0 : (s.updPed key f).a0 = s.a0 := rfl
@[simp] theorem State.updPed_dshare : (s.updPed key f).dshare = s.dshare := rfl
@[simp] theorem State.updPed_fresh : (s.updPed key f).fresh = s.fresh := rfl
@[simp] theorem State.updPed_cores : (s.updPed key f).cores = s.cores := rfl
@[simp] theorem State.updPed_clus : (s.updPed key f).clus = s.clus := rfl
@[simp] theorem State.updPed_mpa : (s.updPed key f).mpa = s.mpa := rfl
@[simp] theorem State.updPed_poison : (s.updPed key f).poison = s.poison := rfl
@[simp] theorem State.updPed_niches : (s.updPed key f).niches = s.niches := rfl
@[simp] theorem State.updPed_casts : (s.updPed key f).casts = s.casts := rfl
@[simp] theorem State.updPed_jobs : (s.updPed key f).jobs = s.jobs := rfl
@[simp] theorem State.updPed_nextJob : (s.updPed key f).nextJob = s.nextJob := rfl
@[simp] theorem State.updPed_sigs : (s.updPed key f).sigs = s.sigs := rfl
@[simp] theorem State.updPed_order : (s.updPed key f).order = s.order := rfl
@[simp] theorem State.updPed_hif0 : (s.updPed key f).hif0 = s.hif0 := rfl
@[simp] theorem State.updPed_hif1 : (s.updPed key f).hif1 = s.hif1 := rfl
@[simp] theorem State.updPed_sqs : (s.updPed key f).sqs = s.sqs := rfl
@[simp] theorem State.updPed_cqs : (s.updPed key f).cqs = s.cqs := rfl
@[simp] theorem State.updPed_ras : (s.updPed key f).ras = s.ras := rfl
@[simp] theorem State.updPed_arms : (s.updPed key f).arms = s.arms := rfl
@[simp] theorem State.updPed_slots : (s.updPed key f).slots = s.slots := rfl
@[simp] theorem State.updPed_slotShadow : (s.updPed key f).slotShadow = s.slotShadow := rfl
@[simp] theorem State.updPed_lath : (s.updPed key f).lath = s.lath := rfl
@[simp] theorem State.updPed_mgt : (s.updPed key f).mgt = s.mgt := rfl
@[simp] theorem State.updPed_pwr : (s.updPed key f).pwr = s.pwr := rfl
@[simp] theorem State.updPed_evc : (s.updPed key f).evc = s.evc := rfl
@[simp] theorem State.updPed_evFreeze : (s.updPed key f).evFreeze = s.evFreeze := rfl
@[simp] theorem State.updPed_free : (s.updPed key f).free = s.free := rfl
@[simp] theorem State.updPed_sent : (s.updPed key f).sent = s.sent := rfl
@[simp] theorem State.updPed_pending : (s.updPed key f).pending = s.pending := rfl
@[simp] theorem State.updPed_core (key₂ : Nat) : (s.updPed key f).core key₂ = s.core key₂ := rfl
@[simp] theorem State.updPed_clu (key₂ : Nat) : (s.updPed key f).clu key₂ = s.clu key₂ := rfl
@[simp] theorem State.updPed_niche (key₂ : Nat) : (s.updPed key f).niche key₂ = s.niche key₂ := rfl
@[simp] theorem State.updPed_job (key₂ : Nat) : (s.updPed key f).job key₂ = s.job key₂ := rfl
@[simp] theorem State.updPed_sq (key₂ : Nat) : (s.updPed key f).sq key₂ = s.sq key₂ := rfl
@[simp] theorem State.updPed_cq (key₂ : Nat) : (s.updPed key f).cq key₂ = s.cq key₂ := rfl
@[simp] theorem State.updPed_hif (f₂ : Bool) : (s.updPed key f).hif f₂ = s.hif f₂ := rfl
@[simp] theorem State.updPed_arm (off₂ tgt₂ : Nat) : (s.updPed key f).arm off₂ tgt₂ = s.arm off₂ tgt₂ := rfl
@[simp] theorem State.updPed_port (key₂ : Nat) : (s.updPed key f).port key₂ = s.port key₂ := rfl
@[simp] theorem State.updPed_rft (key₂ : Nat) : (s.updPed key f).rft key₂ = s.rft key₂ := rfl
@[simp] theorem State.updPed_tq (key₂ : Nat) : (s.updPed key f).tq key₂ = s.tq key₂ := rfl
@[simp] theorem State.updPed_ped_self : (s.updPed key f).ped key = f (s.ped key) := Tbl.get_set_self _ _ _ _
theorem State.updPed_ped_other {key₂ : Nat} (h : key₂ ≠ key) : (s.updPed key f).ped key₂ = s.ped key₂ := Tbl.get_set_other _ _ h _

end

/-! ## `setNiche` -/

section
variable (s : State) (key : Nat) (c : Niche)

@[simp] theorem State.setNiche_now : (s.setNiche key c).now = s.now := rfl
@[simp] theorem State.setNiche_ftOff : (s.setNiche key c).ftOff = s.ftOff := rfl
@[simp] theorem State.setNiche_active : (s.setNiche key c).active = s.active := rfl
@[simp] theorem State.setNiche_a0 : (s.setNiche key c).a0 = s.a0 := rfl
@[simp] theorem State.setNiche_dshare : (s.setNiche key c).dshare = s.dshare := rfl
@[simp] theorem State.setNiche_fresh : (s.setNiche key c).fresh = s.fresh := rfl
@[simp] theorem State.setNiche_cores : (s.setNiche key c).cores = s.cores := rfl
@[simp] theorem State.setNiche_clus : (s.setNiche key c).clus = s.clus := rfl
@[simp] theorem State.setNiche_peds : (s.setNiche key c).peds = s.peds := rfl
@[simp] theorem State.setNiche_mpa : (s.setNiche key c).mpa = s.mpa := rfl
@[simp] theorem State.setNiche_poison : (s.setNiche key c).poison = s.poison := rfl
@[simp] theorem State.setNiche_casts : (s.setNiche key c).casts = s.casts := rfl
@[simp] theorem State.setNiche_jobs : (s.setNiche key c).jobs = s.jobs := rfl
@[simp] theorem State.setNiche_nextJob : (s.setNiche key c).nextJob = s.nextJob := rfl
@[simp] theorem State.setNiche_sigs : (s.setNiche key c).sigs = s.sigs := rfl
@[simp] theorem State.setNiche_order : (s.setNiche key c).order = s.order := rfl
@[simp] theorem State.setNiche_hif0 : (s.setNiche key c).hif0 = s.hif0 := rfl
@[simp] theorem State.setNiche_hif1 : (s.setNiche key c).hif1 = s.hif1 := rfl
@[simp] theorem State.setNiche_sqs : (s.setNiche key c).sqs = s.sqs := rfl
@[simp] theorem State.setNiche_cqs : (s.setNiche key c).cqs = s.cqs := rfl
@[simp] theorem State.setNiche_ras : (s.setNiche key c).ras = s.ras := rfl
@[simp] theorem State.setNiche_arms : (s.setNiche key c).arms = s.arms := rfl
@[simp] theorem State.setNiche_slots : (s.setNiche key c).slots = s.slots := rfl
@[simp] theorem State.setNiche_slotShadow : (s.setNiche key c).slotShadow = s.slotShadow := rfl
@[simp] theorem State.setNiche_lath : (s.setNiche key c).lath = s.lath := rfl
@[simp] theorem State.setNiche_mgt : (s.setNiche key c).mgt = s.mgt := rfl
@[simp] theorem State.setNiche_pwr : (s.setNiche key c).pwr = s.pwr := rfl
@[simp] theorem State.setNiche_evc : (s.setNiche key c).evc = s.evc := rfl
@[simp] theorem State.setNiche_evFreeze : (s.setNiche key c).evFreeze = s.evFreeze := rfl
@[simp] theorem State.setNiche_free : (s.setNiche key c).free = s.free := rfl
@[simp] theorem State.setNiche_sent : (s.setNiche key c).sent = s.sent := rfl
@[simp] theorem State.setNiche_pending : (s.setNiche key c).pending = s.pending := rfl
@[simp] theorem State.setNiche_core (key₂ : Nat) : (s.setNiche key c).core key₂ = s.core key₂ := rfl
@[simp] theorem State.setNiche_clu (key₂ : Nat) : (s.setNiche key c).clu key₂ = s.clu key₂ := rfl
@[simp] theorem State.setNiche_ped (key₂ : Nat) : (s.setNiche key c).ped key₂ = s.ped key₂ := rfl
@[simp] theorem State.setNiche_job (key₂ : Nat) : (s.setNiche key c).job key₂ = s.job key₂ := rfl
@[simp] theorem State.setNiche_sq (key₂ : Nat) : (s.setNiche key c).sq key₂ = s.sq key₂ := rfl
@[simp] theorem State.setNiche_cq (key₂ : Nat) : (s.setNiche key c).cq key₂ = s.cq key₂ := rfl
@[simp] theorem State.setNiche_hif (f₂ : Bool) : (s.setNiche key c).hif f₂ = s.hif f₂ := rfl
@[simp] theorem State.setNiche_arm (off₂ tgt₂ : Nat) : (s.setNiche key c).arm off₂ tgt₂ = s.arm off₂ tgt₂ := rfl
@[simp] theorem State.setNiche_port (key₂ : Nat) : (s.setNiche key c).port key₂ = s.port key₂ := rfl
@[simp] theorem State.setNiche_rft (key₂ : Nat) : (s.setNiche key c).rft key₂ = s.rft key₂ := rfl
@[simp] theorem State.setNiche_tq (key₂ : Nat) : (s.setNiche key c).tq key₂ = s.tq key₂ := rfl
@[simp] theorem State.setNiche_niche_self : (s.setNiche key c).niche key = c := Tbl.get_set_self _ _ _ _
theorem State.setNiche_niche_other {key₂ : Nat} (h : key₂ ≠ key) : (s.setNiche key c).niche key₂ = s.niche key₂ := Tbl.get_set_other _ _ h _

end

/-! ## `setJob` -/

section
variable (s : State) (key : Nat) (c : Option Job)

@[simp] theorem State.setJob_now : (s.setJob key c).now = s.now := rfl
@[simp] theorem State.setJob_ftOff : (s.setJob key c).ftOff = s.ftOff := rfl
@[simp] theorem State.setJob_active : (s.setJob key c).active = s.active := rfl
@[simp] theorem State.setJob_a0 : (s.setJob key c).a0 = s.a0 := rfl
@[simp] theorem State.setJob_dshare : (s.setJob key c).dshare = s.dshare := rfl
@[simp] theorem State.setJob_fresh : (s.setJob key c).fresh = s.fresh := rfl
@[simp] theorem State.setJob_cores : (s.setJob key c).cores = s.cores := rfl
@[simp] theorem State.setJob_clus : (s.setJob key c).clus = s.clus := rfl
@[simp] theorem State.setJob_peds : (s.setJob key c).peds = s.peds := rfl
@[simp] theorem State.setJob_mpa : (s.setJob key c).mpa = s.mpa := rfl
@[simp] theorem State.setJob_poison : (s.setJob key c).poison = s.poison := rfl
@[simp] theorem State.setJob_niches : (s.setJob key c).niches = s.niches := rfl
@[simp] theorem State.setJob_casts : (s.setJob key c).casts = s.casts := rfl
@[simp] theorem State.setJob_nextJob : (s.setJob key c).nextJob = s.nextJob := rfl
@[simp] theorem State.setJob_sigs : (s.setJob key c).sigs = s.sigs := rfl
@[simp] theorem State.setJob_order : (s.setJob key c).order = s.order := rfl
@[simp] theorem State.setJob_hif0 : (s.setJob key c).hif0 = s.hif0 := rfl
@[simp] theorem State.setJob_hif1 : (s.setJob key c).hif1 = s.hif1 := rfl
@[simp] theorem State.setJob_sqs : (s.setJob key c).sqs = s.sqs := rfl
@[simp] theorem State.setJob_cqs : (s.setJob key c).cqs = s.cqs := rfl
@[simp] theorem State.setJob_ras : (s.setJob key c).ras = s.ras := rfl
@[simp] theorem State.setJob_arms : (s.setJob key c).arms = s.arms := rfl
@[simp] theorem State.setJob_slots : (s.setJob key c).slots = s.slots := rfl
@[simp] theorem State.setJob_slotShadow : (s.setJob key c).slotShadow = s.slotShadow := rfl
@[simp] theorem State.setJob_lath : (s.setJob key c).lath = s.lath := rfl
@[simp] theorem State.setJob_mgt : (s.setJob key c).mgt = s.mgt := rfl
@[simp] theorem State.setJob_pwr : (s.setJob key c).pwr = s.pwr := rfl
@[simp] theorem State.setJob_evc : (s.setJob key c).evc = s.evc := rfl
@[simp] theorem State.setJob_evFreeze : (s.setJob key c).evFreeze = s.evFreeze := rfl
@[simp] theorem State.setJob_free : (s.setJob key c).free = s.free := rfl
@[simp] theorem State.setJob_sent : (s.setJob key c).sent = s.sent := rfl
@[simp] theorem State.setJob_pending : (s.setJob key c).pending = s.pending := rfl
@[simp] theorem State.setJob_core (key₂ : Nat) : (s.setJob key c).core key₂ = s.core key₂ := rfl
@[simp] theorem State.setJob_clu (key₂ : Nat) : (s.setJob key c).clu key₂ = s.clu key₂ := rfl
@[simp] theorem State.setJob_ped (key₂ : Nat) : (s.setJob key c).ped key₂ = s.ped key₂ := rfl
@[simp] theorem State.setJob_niche (key₂ : Nat) : (s.setJob key c).niche key₂ = s.niche key₂ := rfl
@[simp] theorem State.setJob_sq (key₂ : Nat) : (s.setJob key c).sq key₂ = s.sq key₂ := rfl
@[simp] theorem State.setJob_cq (key₂ : Nat) : (s.setJob key c).cq key₂ = s.cq key₂ := rfl
@[simp] theorem State.setJob_hif (f₂ : Bool) : (s.setJob key c).hif f₂ = s.hif f₂ := rfl
@[simp] theorem State.setJob_arm (off₂ tgt₂ : Nat) : (s.setJob key c).arm off₂ tgt₂ = s.arm off₂ tgt₂ := rfl
@[simp] theorem State.setJob_port (key₂ : Nat) : (s.setJob key c).port key₂ = s.port key₂ := rfl
@[simp] theorem State.setJob_rft (key₂ : Nat) : (s.setJob key c).rft key₂ = s.rft key₂ := rfl
@[simp] theorem State.setJob_tq (key₂ : Nat) : (s.setJob key c).tq key₂ = s.tq key₂ := rfl
@[simp] theorem State.setJob_job_self : (s.setJob key c).job key = c := Tbl.get_set_self _ _ _ _
theorem State.setJob_job_other {key₂ : Nat} (h : key₂ ≠ key) : (s.setJob key c).job key₂ = s.job key₂ := Tbl.get_set_other _ _ h _

end

/-! ## `setSq` -/

section
variable (s : State) (key : Nat) (c : Sq)

@[simp] theorem State.setSq_now : (s.setSq key c).now = s.now := rfl
@[simp] theorem State.setSq_ftOff : (s.setSq key c).ftOff = s.ftOff := rfl
@[simp] theorem State.setSq_active : (s.setSq key c).active = s.active := rfl
@[simp] theorem State.setSq_a0 : (s.setSq key c).a0 = s.a0 := rfl
@[simp] theorem State.setSq_dshare : (s.setSq key c).dshare = s.dshare := rfl
@[simp] theorem State.setSq_fresh : (s.setSq key c).fresh = s.fresh := rfl
@[simp] theorem State.setSq_cores : (s.setSq key c).cores = s.cores := rfl
@[simp] theorem State.setSq_clus : (s.setSq key c).clus = s.clus := rfl
@[simp] theorem State.setSq_peds : (s.setSq key c).peds = s.peds := rfl
@[simp] theorem State.setSq_mpa : (s.setSq key c).mpa = s.mpa := rfl
@[simp] theorem State.setSq_poison : (s.setSq key c).poison = s.poison := rfl
@[simp] theorem State.setSq_niches : (s.setSq key c).niches = s.niches := rfl
@[simp] theorem State.setSq_casts : (s.setSq key c).casts = s.casts := rfl
@[simp] theorem State.setSq_jobs : (s.setSq key c).jobs = s.jobs := rfl
@[simp] theorem State.setSq_nextJob : (s.setSq key c).nextJob = s.nextJob := rfl
@[simp] theorem State.setSq_sigs : (s.setSq key c).sigs = s.sigs := rfl
@[simp] theorem State.setSq_order : (s.setSq key c).order = s.order := rfl
@[simp] theorem State.setSq_hif0 : (s.setSq key c).hif0 = s.hif0 := rfl
@[simp] theorem State.setSq_hif1 : (s.setSq key c).hif1 = s.hif1 := rfl
@[simp] theorem State.setSq_cqs : (s.setSq key c).cqs = s.cqs := rfl
@[simp] theorem State.setSq_ras : (s.setSq key c).ras = s.ras := rfl
@[simp] theorem State.setSq_arms : (s.setSq key c).arms = s.arms := rfl
@[simp] theorem State.setSq_slots : (s.setSq key c).slots = s.slots := rfl
@[simp] theorem State.setSq_slotShadow : (s.setSq key c).slotShadow = s.slotShadow := rfl
@[simp] theorem State.setSq_lath : (s.setSq key c).lath = s.lath := rfl
@[simp] theorem State.setSq_mgt : (s.setSq key c).mgt = s.mgt := rfl
@[simp] theorem State.setSq_pwr : (s.setSq key c).pwr = s.pwr := rfl
@[simp] theorem State.setSq_evc : (s.setSq key c).evc = s.evc := rfl
@[simp] theorem State.setSq_evFreeze : (s.setSq key c).evFreeze = s.evFreeze := rfl
@[simp] theorem State.setSq_free : (s.setSq key c).free = s.free := rfl
@[simp] theorem State.setSq_sent : (s.setSq key c).sent = s.sent := rfl
@[simp] theorem State.setSq_pending : (s.setSq key c).pending = s.pending := rfl
@[simp] theorem State.setSq_core (key₂ : Nat) : (s.setSq key c).core key₂ = s.core key₂ := rfl
@[simp] theorem State.setSq_clu (key₂ : Nat) : (s.setSq key c).clu key₂ = s.clu key₂ := rfl
@[simp] theorem State.setSq_ped (key₂ : Nat) : (s.setSq key c).ped key₂ = s.ped key₂ := rfl
@[simp] theorem State.setSq_niche (key₂ : Nat) : (s.setSq key c).niche key₂ = s.niche key₂ := rfl
@[simp] theorem State.setSq_job (key₂ : Nat) : (s.setSq key c).job key₂ = s.job key₂ := rfl
@[simp] theorem State.setSq_cq (key₂ : Nat) : (s.setSq key c).cq key₂ = s.cq key₂ := rfl
@[simp] theorem State.setSq_hif (f₂ : Bool) : (s.setSq key c).hif f₂ = s.hif f₂ := rfl
@[simp] theorem State.setSq_arm (off₂ tgt₂ : Nat) : (s.setSq key c).arm off₂ tgt₂ = s.arm off₂ tgt₂ := rfl
@[simp] theorem State.setSq_port (key₂ : Nat) : (s.setSq key c).port key₂ = s.port key₂ := rfl
@[simp] theorem State.setSq_rft (key₂ : Nat) : (s.setSq key c).rft key₂ = s.rft key₂ := rfl
@[simp] theorem State.setSq_tq (key₂ : Nat) : (s.setSq key c).tq key₂ = s.tq key₂ := rfl
@[simp] theorem State.setSq_sq_self : (s.setSq key c).sq key = c := Tbl.get_set_self _ _ _ _
theorem State.setSq_sq_other {key₂ : Nat} (h : key₂ ≠ key) : (s.setSq key c).sq key₂ = s.sq key₂ := Tbl.get_set_other _ _ h _

end

/-! ## `updSq` -/

section
variable (s : State) (key : Nat) (f : Sq → Sq)

@[simp] theorem State.updSq_now : (s.updSq key f).now = s.now := rfl
@[simp] theorem State.updSq_ftOff : (s.updSq key f).ftOff = s.ftOff := rfl
@[simp] theorem State.updSq_active : (s.updSq key f).active = s.active := rfl
@[simp] theorem State.updSq_a0 : (s.updSq key f).a0 = s.a0 := rfl
@[simp] theorem State.updSq_dshare : (s.updSq key f).dshare = s.dshare := rfl
@[simp] theorem State.updSq_fresh : (s.updSq key f).fresh = s.fresh := rfl
@[simp] theorem State.updSq_cores : (s.updSq key f).cores = s.cores := rfl
@[simp] theorem State.updSq_clus : (s.updSq key f).clus = s.clus := rfl
@[simp] theorem State.updSq_peds : (s.updSq key f).peds = s.peds := rfl
@[simp] theorem State.updSq_mpa : (s.updSq key f).mpa = s.mpa := rfl
@[simp] theorem State.updSq_poison : (s.updSq key f).poison = s.poison := rfl
@[simp] theorem State.updSq_niches : (s.updSq key f).niches = s.niches := rfl
@[simp] theorem State.updSq_casts : (s.updSq key f).casts = s.casts := rfl
@[simp] theorem State.updSq_jobs : (s.updSq key f).jobs = s.jobs := rfl
@[simp] theorem State.updSq_nextJob : (s.updSq key f).nextJob = s.nextJob := rfl
@[simp] theorem State.updSq_sigs : (s.updSq key f).sigs = s.sigs := rfl
@[simp] theorem State.updSq_order : (s.updSq key f).order = s.order := rfl
@[simp] theorem State.updSq_hif0 : (s.updSq key f).hif0 = s.hif0 := rfl
@[simp] theorem State.updSq_hif1 : (s.updSq key f).hif1 = s.hif1 := rfl
@[simp] theorem State.updSq_cqs : (s.updSq key f).cqs = s.cqs := rfl
@[simp] theorem State.updSq_ras : (s.updSq key f).ras = s.ras := rfl
@[simp] theorem State.updSq_arms : (s.updSq key f).arms = s.arms := rfl
@[simp] theorem State.updSq_slots : (s.updSq key f).slots = s.slots := rfl
@[simp] theorem State.updSq_slotShadow : (s.updSq key f).slotShadow = s.slotShadow := rfl
@[simp] theorem State.updSq_lath : (s.updSq key f).lath = s.lath := rfl
@[simp] theorem State.updSq_mgt : (s.updSq key f).mgt = s.mgt := rfl
@[simp] theorem State.updSq_pwr : (s.updSq key f).pwr = s.pwr := rfl
@[simp] theorem State.updSq_evc : (s.updSq key f).evc = s.evc := rfl
@[simp] theorem State.updSq_evFreeze : (s.updSq key f).evFreeze = s.evFreeze := rfl
@[simp] theorem State.updSq_free : (s.updSq key f).free = s.free := rfl
@[simp] theorem State.updSq_sent : (s.updSq key f).sent = s.sent := rfl
@[simp] theorem State.updSq_pending : (s.updSq key f).pending = s.pending := rfl
@[simp] theorem State.updSq_core (key₂ : Nat) : (s.updSq key f).core key₂ = s.core key₂ := rfl
@[simp] theorem State.updSq_clu (key₂ : Nat) : (s.updSq key f).clu key₂ = s.clu key₂ := rfl
@[simp] theorem State.updSq_ped (key₂ : Nat) : (s.updSq key f).ped key₂ = s.ped key₂ := rfl
@[simp] theorem State.updSq_niche (key₂ : Nat) : (s.updSq key f).niche key₂ = s.niche key₂ := rfl
@[simp] theorem State.updSq_job (key₂ : Nat) : (s.updSq key f).job key₂ = s.job key₂ := rfl
@[simp] theorem State.updSq_cq (key₂ : Nat) : (s.updSq key f).cq key₂ = s.cq key₂ := rfl
@[simp] theorem State.updSq_hif (f₂ : Bool) : (s.updSq key f).hif f₂ = s.hif f₂ := rfl
@[simp] theorem State.updSq_arm (off₂ tgt₂ : Nat) : (s.updSq key f).arm off₂ tgt₂ = s.arm off₂ tgt₂ := rfl
@[simp] theorem State.updSq_port (key₂ : Nat) : (s.updSq key f).port key₂ = s.port key₂ := rfl
@[simp] theorem State.updSq_rft (key₂ : Nat) : (s.updSq key f).rft key₂ = s.rft key₂ := rfl
@[simp] theorem State.updSq_tq (key₂ : Nat) : (s.updSq key f).tq key₂ = s.tq key₂ := rfl
@[simp] theorem State.updSq_sq_self : (s.updSq key f).sq key = f (s.sq key) := Tbl.get_set_self _ _ _ _
theorem State.updSq_sq_other {key₂ : Nat} (h : key₂ ≠ key) : (s.updSq key f).sq key₂ = s.sq key₂ := Tbl.get_set_other _ _ h _

end

/-! ## `setCq` -/

section
variable (s : State) (key : Nat) (c : Cq)

@[simp] theorem State.setCq_now : (s.setCq key c).now = s.now := rfl
@[simp] theorem State.setCq_ftOff : (s.setCq key c).ftOff = s.ftOff := rfl
@[simp] theorem State.setCq_active : (s.setCq key c).active = s.active := rfl
@[simp] theorem State.setCq_a0 : (s.setCq key c).a0 = s.a0 := rfl
@[simp] theorem State.setCq_dshare : (s.setCq key c).dshare = s.dshare := rfl
@[simp] theorem State.setCq_fresh : (s.setCq key c).fresh = s.fresh := rfl
@[simp] theorem State.setCq_cores : (s.setCq key c).cores = s.cores := rfl
@[simp] theorem State.setCq_clus : (s.setCq key c).clus = s.clus := rfl
@[simp] theorem State.setCq_peds : (s.setCq key c).peds = s.peds := rfl
@[simp] theorem State.setCq_mpa : (s.setCq key c).mpa = s.mpa := rfl
@[simp] theorem State.setCq_poison : (s.setCq key c).poison = s.poison := rfl
@[simp] theorem State.setCq_niches : (s.setCq key c).niches = s.niches := rfl
@[simp] theorem State.setCq_casts : (s.setCq key c).casts = s.casts := rfl
@[simp] theorem State.setCq_jobs : (s.setCq key c).jobs = s.jobs := rfl
@[simp] theorem State.setCq_nextJob : (s.setCq key c).nextJob = s.nextJob := rfl
@[simp] theorem State.setCq_sigs : (s.setCq key c).sigs = s.sigs := rfl
@[simp] theorem State.setCq_order : (s.setCq key c).order = s.order := rfl
@[simp] theorem State.setCq_hif0 : (s.setCq key c).hif0 = s.hif0 := rfl
@[simp] theorem State.setCq_hif1 : (s.setCq key c).hif1 = s.hif1 := rfl
@[simp] theorem State.setCq_sqs : (s.setCq key c).sqs = s.sqs := rfl
@[simp] theorem State.setCq_ras : (s.setCq key c).ras = s.ras := rfl
@[simp] theorem State.setCq_arms : (s.setCq key c).arms = s.arms := rfl
@[simp] theorem State.setCq_slots : (s.setCq key c).slots = s.slots := rfl
@[simp] theorem State.setCq_slotShadow : (s.setCq key c).slotShadow = s.slotShadow := rfl
@[simp] theorem State.setCq_lath : (s.setCq key c).lath = s.lath := rfl
@[simp] theorem State.setCq_mgt : (s.setCq key c).mgt = s.mgt := rfl
@[simp] theorem State.setCq_pwr : (s.setCq key c).pwr = s.pwr := rfl
@[simp] theorem State.setCq_evc : (s.setCq key c).evc = s.evc := rfl
@[simp] theorem State.setCq_evFreeze : (s.setCq key c).evFreeze = s.evFreeze := rfl
@[simp] theorem State.setCq_free : (s.setCq key c).free = s.free := rfl
@[simp] theorem State.setCq_sent : (s.setCq key c).sent = s.sent := rfl
@[simp] theorem State.setCq_pending : (s.setCq key c).pending = s.pending := rfl
@[simp] theorem State.setCq_core (key₂ : Nat) : (s.setCq key c).core key₂ = s.core key₂ := rfl
@[simp] theorem State.setCq_clu (key₂ : Nat) : (s.setCq key c).clu key₂ = s.clu key₂ := rfl
@[simp] theorem State.setCq_ped (key₂ : Nat) : (s.setCq key c).ped key₂ = s.ped key₂ := rfl
@[simp] theorem State.setCq_niche (key₂ : Nat) : (s.setCq key c).niche key₂ = s.niche key₂ := rfl
@[simp] theorem State.setCq_job (key₂ : Nat) : (s.setCq key c).job key₂ = s.job key₂ := rfl
@[simp] theorem State.setCq_sq (key₂ : Nat) : (s.setCq key c).sq key₂ = s.sq key₂ := rfl
@[simp] theorem State.setCq_hif (f₂ : Bool) : (s.setCq key c).hif f₂ = s.hif f₂ := rfl
@[simp] theorem State.setCq_arm (off₂ tgt₂ : Nat) : (s.setCq key c).arm off₂ tgt₂ = s.arm off₂ tgt₂ := rfl
@[simp] theorem State.setCq_port (key₂ : Nat) : (s.setCq key c).port key₂ = s.port key₂ := rfl
@[simp] theorem State.setCq_rft (key₂ : Nat) : (s.setCq key c).rft key₂ = s.rft key₂ := rfl
@[simp] theorem State.setCq_tq (key₂ : Nat) : (s.setCq key c).tq key₂ = s.tq key₂ := rfl
@[simp] theorem State.setCq_cq_self : (s.setCq key c).cq key = c := Tbl.get_set_self _ _ _ _
theorem State.setCq_cq_other {key₂ : Nat} (h : key₂ ≠ key) : (s.setCq key c).cq key₂ = s.cq key₂ := Tbl.get_set_other _ _ h _

end

/-! ## `updCq` -/

section
variable (s : State) (key : Nat) (f : Cq → Cq)

@[simp] theorem State.updCq_now : (s.updCq key f).now = s.now := rfl
@[simp] theorem State.updCq_ftOff : (s.updCq key f).ftOff = s.ftOff := rfl
@[simp] theorem State.updCq_active : (s.updCq key f).active = s.active := rfl
@[simp] theorem State.updCq_a0 : (s.updCq key f).a0 = s.a0 := rfl
@[simp] theorem State.updCq_dshare : (s.updCq key f).dshare = s.dshare := rfl
@[simp] theorem State.updCq_fresh : (s.updCq key f).fresh = s.fresh := rfl
@[simp] theorem State.updCq_cores : (s.updCq key f).cores = s.cores := rfl
@[simp] theorem State.updCq_clus : (s.updCq key f).clus = s.clus := rfl
@[simp] theorem State.updCq_peds : (s.updCq key f).peds = s.peds := rfl
@[simp] theorem State.updCq_mpa : (s.updCq key f).mpa = s.mpa := rfl
@[simp] theorem State.updCq_poison : (s.updCq key f).poison = s.poison := rfl
@[simp] theorem State.updCq_niches : (s.updCq key f).niches = s.niches := rfl
@[simp] theorem State.updCq_casts : (s.updCq key f).casts = s.casts := rfl
@[simp] theorem State.updCq_jobs : (s.updCq key f).jobs = s.jobs := rfl
@[simp] theorem State.updCq_nextJob : (s.updCq key f).nextJob = s.nextJob := rfl
@[simp] theorem State.updCq_sigs : (s.updCq key f).sigs = s.sigs := rfl
@[simp] theorem State.updCq_order : (s.updCq key f).order = s.order := rfl
@[simp] theorem State.updCq_hif0 : (s.updCq key f).hif0 = s.hif0 := rfl
@[simp] theorem State.updCq_hif1 : (s.updCq key f).hif1 = s.hif1 := rfl
@[simp] theorem State.updCq_sqs : (s.updCq key f).sqs = s.sqs := rfl
@[simp] theorem State.updCq_ras : (s.updCq key f).ras = s.ras := rfl
@[simp] theorem State.updCq_arms : (s.updCq key f).arms = s.arms := rfl
@[simp] theorem State.updCq_slots : (s.updCq key f).slots = s.slots := rfl
@[simp] theorem State.updCq_slotShadow : (s.updCq key f).slotShadow = s.slotShadow := rfl
@[simp] theorem State.updCq_lath : (s.updCq key f).lath = s.lath := rfl
@[simp] theorem State.updCq_mgt : (s.updCq key f).mgt = s.mgt := rfl
@[simp] theorem State.updCq_pwr : (s.updCq key f).pwr = s.pwr := rfl
@[simp] theorem State.updCq_evc : (s.updCq key f).evc = s.evc := rfl
@[simp] theorem State.updCq_evFreeze : (s.updCq key f).evFreeze = s.evFreeze := rfl
@[simp] theorem State.updCq_free : (s.updCq key f).free = s.free := rfl
@[simp] theorem State.updCq_sent : (s.updCq key f).sent = s.sent := rfl
@[simp] theorem State.updCq_pending : (s.updCq key f).pending = s.pending := rfl
@[simp] theorem State.updCq_core (key₂ : Nat) : (s.updCq key f).core key₂ = s.core key₂ := rfl
@[simp] theorem State.updCq_clu (key₂ : Nat) : (s.updCq key f).clu key₂ = s.clu key₂ := rfl
@[simp] theorem State.updCq_ped (key₂ : Nat) : (s.updCq key f).ped key₂ = s.ped key₂ := rfl
@[simp] theorem State.updCq_niche (key₂ : Nat) : (s.updCq key f).niche key₂ = s.niche key₂ := rfl
@[simp] theorem State.updCq_job (key₂ : Nat) : (s.updCq key f).job key₂ = s.job key₂ := rfl
@[simp] theorem State.updCq_sq (key₂ : Nat) : (s.updCq key f).sq key₂ = s.sq key₂ := rfl
@[simp] theorem State.updCq_hif (f₂ : Bool) : (s.updCq key f).hif f₂ = s.hif f₂ := rfl
@[simp] theorem State.updCq_arm (off₂ tgt₂ : Nat) : (s.updCq key f).arm off₂ tgt₂ = s.arm off₂ tgt₂ := rfl
@[simp] theorem State.updCq_port (key₂ : Nat) : (s.updCq key f).port key₂ = s.port key₂ := rfl
@[simp] theorem State.updCq_rft (key₂ : Nat) : (s.updCq key f).rft key₂ = s.rft key₂ := rfl
@[simp] theorem State.updCq_tq (key₂ : Nat) : (s.updCq key f).tq key₂ = s.tq key₂ := rfl
@[simp] theorem State.updCq_cq_self : (s.updCq key f).cq key = f (s.cq key) := Tbl.get_set_self _ _ _ _
theorem State.updCq_cq_other {key₂ : Nat} (h : key₂ ≠ key) : (s.updCq key f).cq key₂ = s.cq key₂ := Tbl.get_set_other _ _ h _

end

/-! ## `setHif` -/

section
variable (s : State) (b : Bool) (h : Hif)

@[simp] theorem State.setHif_now : (s.setHif b h).now = s.now := by cases b <;> rfl
@[simp] theorem State.setHif_ftOff : (s.setHif b h).ftOff = s.ftOff := by cases b <;> rfl
@[simp] theorem State.setHif_active : (s.setHif b h).active = s.active := by cases b <;> rfl
@[simp] theorem State.setHif_a0 : (s.setHif b h).a0 = s.a0 := by cases b <;> rfl
@[simp] theorem State.setHif_dshare : (s.setHif b h).dshare = s.dshare := by cases b <;> rfl
@[simp] theorem State.setHif_fresh : (s.setHif b h).fresh = s.fresh := by cases b <;> rfl
@[simp] theorem State.setHif_cores : (s.setHif b h).cores = s.cores := by cases b <;> rfl
@[simp] theorem State.setHif_clus : (s.setHif b h).clus = s.clus := by cases b <;> rfl
@[simp] theorem State.setHif_peds : (s.setHif b h).peds = s.peds := by cases b <;> rfl
@[simp] theorem State.setHif_mpa : (s.setHif b h).mpa = s.mpa := by cases b <;> rfl
@[simp] theorem State.setHif_poison : (s.setHif b h).poison = s.poison := by cases b <;> rfl
@[simp] theorem State.setHif_niches : (s.setHif b h).niches = s.niches := by cases b <;> rfl
@[simp] theorem State.setHif_casts : (s.setHif b h).casts = s.casts := by cases b <;> rfl
@[simp] theorem State.setHif_jobs : (s.setHif b h).jobs = s.jobs := by cases b <;> rfl
@[simp] theorem State.setHif_nextJob : (s.setHif b h).nextJob = s.nextJob := by cases b <;> rfl
@[simp] theorem State.setHif_sigs : (s.setHif b h).sigs = s.sigs := by cases b <;> rfl
@[simp] theorem State.setHif_order : (s.setHif b h).order = s.order := by cases b <;> rfl
@[simp] theorem State.setHif_sqs : (s.setHif b h).sqs = s.sqs := by cases b <;> rfl
@[simp] theorem State.setHif_cqs : (s.setHif b h).cqs = s.cqs := by cases b <;> rfl
@[simp] theorem State.setHif_ras : (s.setHif b h).ras = s.ras := by cases b <;> rfl
@[simp] theorem State.setHif_arms : (s.setHif b h).arms = s.arms := by cases b <;> rfl
@[simp] theorem State.setHif_slots : (s.setHif b h).slots = s.slots := by cases b <;> rfl
@[simp] theorem State.setHif_slotShadow : (s.setHif b h).slotShadow = s.slotShadow := by cases b <;> rfl
@[simp] theorem State.setHif_lath : (s.setHif b h).lath = s.lath := by cases b <;> rfl
@[simp] theorem State.setHif_mgt : (s.setHif b h).mgt = s.mgt := by cases b <;> rfl
@[simp] theorem State.setHif_pwr : (s.setHif b h).pwr = s.pwr := by cases b <;> rfl
@[simp] theorem State.setHif_evc : (s.setHif b h).evc = s.evc := by cases b <;> rfl
@[simp] theorem State.setHif_evFreeze : (s.setHif b h).evFreeze = s.evFreeze := by cases b <;> rfl
@[simp] theorem State.setHif_free : (s.setHif b h).free = s.free := by cases b <;> rfl
@[simp] theorem State.setHif_sent : (s.setHif b h).sent = s.sent := by cases b <;> rfl
@[simp] theorem State.setHif_pending : (s.setHif b h).pending = s.pending := by cases b <;> rfl
@[simp] theorem State.setHif_core (key₂ : Nat) : (s.setHif b h).core key₂ = s.core key₂ := by cases b <;> rfl
@[simp] theorem State.setHif_clu (key₂ : Nat) : (s.setHif b h).clu key₂ = s.clu key₂ := by cases b <;> rfl
@[simp] theorem State.setHif_ped (key₂ : Nat) : (s.setHif b h).ped key₂ = s.ped key₂ := by cases b <;> rfl
@[simp] theorem State.setHif_niche (key₂ : Nat) : (s.setHif b h).niche key₂ = s.niche key₂ := by cases b <;> rfl
@[simp] theorem State.setHif_job (key₂ : Nat) : (s.setHif b h).job key₂ = s.job key₂ := by cases b <;> rfl
@[simp] theorem State.setHif_sq (key₂ : Nat) : (s.setHif b h).sq key₂ = s.sq key₂ := by cases b <;> rfl
@[simp] theorem State.setHif_cq (key₂ : Nat) : (s.setHif b h).cq key₂ = s.cq key₂ := by cases b <;> rfl
@[simp] theorem State.setHif_arm (off₂ tgt₂ : Nat) : (s.setHif b h).arm off₂ tgt₂ = s.arm off₂ tgt₂ := by cases b <;> rfl
@[simp] theorem State.setHif_port (key₂ : Nat) : (s.setHif b h).port key₂ = s.port key₂ := by cases b <;> rfl
@[simp] theorem State.setHif_rft (key₂ : Nat) : (s.setHif b h).rft key₂ = s.rft key₂ := by cases b <;> rfl
@[simp] theorem State.setHif_tq (key₂ : Nat) : (s.setHif b h).tq key₂ = s.tq key₂ := by cases b <;> rfl
@[simp] theorem State.setHif_hif_self : (s.setHif b h).hif b = h := by cases b <;> rfl
theorem State.setHif_hif_other {b₂ : Bool} (h₂ : b₂ ≠ b) : (s.setHif b h).hif b₂ = s.hif b₂ := by cases b <;> cases b₂ <;> first | rfl | exact absurd rfl h₂

end

/-! ## `updHif` -/

section
variable (s : State) (b : Bool) (g : Hif → Hif)

@[simp] theorem State.updHif_now : (s.updHif b g).now = s.now := by cases b <;> rfl
@[simp] theorem State.updHif_ftOff : (s.updHif b g).ftOff = s.ftOff := by cases b <;> rfl
@[simp] theorem State.updHif_active : (s.updHif b g).active = s.active := by cases b <;> rfl
@[simp] theorem State.updHif_a0 : (s.updHif b g).a0 = s.a0 := by cases b <;> rfl
@[simp] theorem State.updHif_dshare : (s.updHif b g).dshare = s.dshare := by cases b <;> rfl
@[simp] theorem State.updHif_fresh : (s.updHif b g).fresh = s.fresh := by cases b <;> rfl
@[simp] theorem State.updHif_cores : (s.updHif b g).cores = s.cores := by cases b <;> rfl
@[simp] theorem State.updHif_clus : (s.updHif b g).clus = s.clus := by cases b <;> rfl
@[simp] theorem State.updHif_peds : (s.updHif b g).peds = s.peds := by cases b <;> rfl
@[simp] theorem State.updHif_mpa : (s.updHif b g).mpa = s.mpa := by cases b <;> rfl
@[simp] theorem State.updHif_poison : (s.updHif b g).poison = s.poison := by cases b <;> rfl
@[simp] theorem State.updHif_niches : (s.updHif b g).niches = s.niches := by cases b <;> rfl
@[simp] theorem State.updHif_casts : (s.updHif b g).casts = s.casts := by cases b <;> rfl
@[simp] theorem State.updHif_jobs : (s.updHif b g).jobs = s.jobs := by cases b <;> rfl
@[simp] theorem State.updHif_nextJob : (s.updHif b g).nextJob = s.nextJob := by cases b <;> rfl
@[simp] theorem State.updHif_sigs : (s.updHif b g).sigs = s.sigs := by cases b <;> rfl
@[simp] theorem State.updHif_order : (s.updHif b g).order = s.order := by cases b <;> rfl
@[simp] theorem State.updHif_sqs : (s.updHif b g).sqs = s.sqs := by cases b <;> rfl
@[simp] theorem State.updHif_cqs : (s.updHif b g).cqs = s.cqs := by cases b <;> rfl
@[simp] theorem State.updHif_ras : (s.updHif b g).ras = s.ras := by cases b <;> rfl
@[simp] theorem State.updHif_arms : (s.updHif b g).arms = s.arms := by cases b <;> rfl
@[simp] theorem State.updHif_slots : (s.updHif b g).slots = s.slots := by cases b <;> rfl
@[simp] theorem State.updHif_slotShadow : (s.updHif b g).slotShadow = s.slotShadow := by cases b <;> rfl
@[simp] theorem State.updHif_lath : (s.updHif b g).lath = s.lath := by cases b <;> rfl
@[simp] theorem State.updHif_mgt : (s.updHif b g).mgt = s.mgt := by cases b <;> rfl
@[simp] theorem State.updHif_pwr : (s.updHif b g).pwr = s.pwr := by cases b <;> rfl
@[simp] theorem State.updHif_evc : (s.updHif b g).evc = s.evc := by cases b <;> rfl
@[simp] theorem State.updHif_evFreeze : (s.updHif b g).evFreeze = s.evFreeze := by cases b <;> rfl
@[simp] theorem State.updHif_free : (s.updHif b g).free = s.free := by cases b <;> rfl
@[simp] theorem State.updHif_sent : (s.updHif b g).sent = s.sent := by cases b <;> rfl
@[simp] theorem State.updHif_pending : (s.updHif b g).pending = s.pending := by cases b <;> rfl
@[simp] theorem State.updHif_core (key₂ : Nat) : (s.updHif b g).core key₂ = s.core key₂ := by cases b <;> rfl
@[simp] theorem State.updHif_clu (key₂ : Nat) : (s.updHif b g).clu key₂ = s.clu key₂ := by cases b <;> rfl
@[simp] theorem State.updHif_ped (key₂ : Nat) : (s.updHif b g).ped key₂ = s.ped key₂ := by cases b <;> rfl
@[simp] theorem State.updHif_niche (key₂ : Nat) : (s.updHif b g).niche key₂ = s.niche key₂ := by cases b <;> rfl
@[simp] theorem State.updHif_job (key₂ : Nat) : (s.updHif b g).job key₂ = s.job key₂ := by cases b <;> rfl
@[simp] theorem State.updHif_sq (key₂ : Nat) : (s.updHif b g).sq key₂ = s.sq key₂ := by cases b <;> rfl
@[simp] theorem State.updHif_cq (key₂ : Nat) : (s.updHif b g).cq key₂ = s.cq key₂ := by cases b <;> rfl
@[simp] theorem State.updHif_arm (off₂ tgt₂ : Nat) : (s.updHif b g).arm off₂ tgt₂ = s.arm off₂ tgt₂ := by cases b <;> rfl
@[simp] theorem State.updHif_port (key₂ : Nat) : (s.updHif b g).port key₂ = s.port key₂ := by cases b <;> rfl
@[simp] theorem State.updHif_rft (key₂ : Nat) : (s.updHif b g).rft key₂ = s.rft key₂ := by cases b <;> rfl
@[simp] theorem State.updHif_tq (key₂ : Nat) : (s.updHif b g).tq key₂ = s.tq key₂ := by cases b <;> rfl
@[simp] theorem State.updHif_hif_self : (s.updHif b g).hif b = g (s.hif b) := by cases b <;> rfl
theorem State.updHif_hif_other {b₂ : Bool} (h₂ : b₂ ≠ b) : (s.updHif b g).hif b₂ = s.hif b₂ := by cases b <;> cases b₂ <;> first | rfl | exact absurd rfl h₂

end

/-! ## `send` -/

section
variable (s : State) (m : Msg)

@[simp] theorem State.send_now : (s.send m).now = s.now := rfl
@[simp] theorem State.send_ftOff : (s.send m).ftOff = s.ftOff := rfl
@[simp] theorem State.send_active : (s.send m).active = s.active := rfl
@[simp] theorem State.send_a0 : (s.send m).a0 = s.a0 := rfl
@[simp] theorem State.send_dshare : (s.send m).dshare = s.dshare := rfl
@[simp] theorem State.send_fresh : (s.send m).fresh = s.fresh := rfl
@[simp] theorem State.send_cores : (s.send m).cores = s.cores := rfl
@[simp] theorem State.send_clus : (s.send m).clus = s.clus := rfl
@[simp] theorem State.send_peds : (s.send m).peds = s.peds := rfl
@[simp] theorem State.send_mpa : (s.send m).mpa = s.mpa := rfl
@[simp] theorem State.send_poison : (s.send m).poison = s.poison := rfl
@[simp] theorem State.send_niches : (s.send m).niches = s.niches := rfl
@[simp] theorem State.send_casts : (s.send m).casts = s.casts := rfl
@[simp] theorem State.send_jobs : (s.send m).jobs = s.jobs := rfl
@[simp] theorem State.send_nextJob : (s.send m).nextJob = s.nextJob := rfl
@[simp] theorem State.send_sigs : (s.send m).sigs = s.sigs := rfl
@[simp] theorem State.send_order : (s.send m).order = s.order := rfl
@[simp] theorem State.send_hif0 : (s.send m).hif0 = s.hif0 := rfl
@[simp] theorem State.send_hif1 : (s.send m).hif1 = s.hif1 := rfl
@[simp] theorem State.send_sqs : (s.send m).sqs = s.sqs := rfl
@[simp] theorem State.send_cqs : (s.send m).cqs = s.cqs := rfl
@[simp] theorem State.send_ras : (s.send m).ras = s.ras := rfl
@[simp] theorem State.send_arms : (s.send m).arms = s.arms := rfl
@[simp] theorem State.send_slots : (s.send m).slots = s.slots := rfl
@[simp] theorem State.send_slotShadow : (s.send m).slotShadow = s.slotShadow := rfl
@[simp] theorem State.send_lath : (s.send m).lath = s.lath := rfl
@[simp] theorem State.send_mgt : (s.send m).mgt = s.mgt := rfl
@[simp] theorem State.send_pwr : (s.send m).pwr = s.pwr := rfl
@[simp] theorem State.send_evc : (s.send m).evc = s.evc := rfl
@[simp] theorem State.send_evFreeze : (s.send m).evFreeze = s.evFreeze := rfl
@[simp] theorem State.send_free : (s.send m).free = s.free := rfl
@[simp] theorem State.send_pending : (s.send m).pending = s.pending := rfl
@[simp] theorem State.send_core (key₂ : Nat) : (s.send m).core key₂ = s.core key₂ := rfl
@[simp] theorem State.send_clu (key₂ : Nat) : (s.send m).clu key₂ = s.clu key₂ := rfl
@[simp] theorem State.send_ped (key₂ : Nat) : (s.send m).ped key₂ = s.ped key₂ := rfl
@[simp] theorem State.send_niche (key₂ : Nat) : (s.send m).niche key₂ = s.niche key₂ := rfl
@[simp] theorem State.send_job (key₂ : Nat) : (s.send m).job key₂ = s.job key₂ := rfl
@[simp] theorem State.send_sq (key₂ : Nat) : (s.send m).sq key₂ = s.sq key₂ := rfl
@[simp] theorem State.send_cq (key₂ : Nat) : (s.send m).cq key₂ = s.cq key₂ := rfl
@[simp] theorem State.send_hif (f₂ : Bool) : (s.send m).hif f₂ = s.hif f₂ := rfl
@[simp] theorem State.send_arm (off₂ tgt₂ : Nat) : (s.send m).arm off₂ tgt₂ = s.arm off₂ tgt₂ := rfl
@[simp] theorem State.send_port (key₂ : Nat) : (s.send m).port key₂ = s.port key₂ := rfl
@[simp] theorem State.send_rft (key₂ : Nat) : (s.send m).rft key₂ = s.rft key₂ := rfl
@[simp] theorem State.send_tq (key₂ : Nat) : (s.send m).tq key₂ = s.tq key₂ := rfl
@[simp] theorem State.send_sent : (s.send m).sent = s.sent ++ [m] := rfl

end

/-! ## `setArm` -/

section
variable (s : State) (off tgt v : Nat)

@[simp] theorem State.setArm_now : (s.setArm off tgt v).now = s.now := rfl
@[simp] theorem State.setArm_ftOff : (s.setArm off tgt v).ftOff = s.ftOff := rfl
@[simp] theorem State.setArm_active : (s.setArm off tgt v).active = s.active := rfl
@[simp] theorem State.setArm_a0 : (s.setArm off tgt v).a0 = s.a0 := rfl
@[simp] theorem State.setArm_dshare : (s.setArm off tgt v).dshare = s.dshare := rfl
@[simp] theorem State.setArm_fresh : (s.setArm off tgt v).fresh = s.fresh := rfl
@[simp] theorem State.setArm_cores : (s.setArm off tgt v).cores = s.cores := rfl
@[simp] theorem State.setArm_clus : (s.setArm off tgt v).clus = s.clus := rfl
@[simp] theorem State.setArm_peds : (s.setArm off tgt v).peds = s.peds := rfl
@[simp] theorem State.setArm_mpa : (s.setArm off tgt v).mpa = s.mpa := rfl
@[simp] theorem State.setArm_poison : (s.setArm off tgt v).poison = s.poison := rfl
@[simp] theorem State.setArm_niches : (s.setArm off tgt v).niches = s.niches := rfl
@[simp] theorem State.setArm_casts : (s.setArm off tgt v).casts = s.casts := rfl
@[simp] theorem State.setArm_jobs : (s.setArm off tgt v).jobs = s.jobs := rfl
@[simp] theorem State.setArm_nextJob : (s.setArm off tgt v).nextJob = s.nextJob := rfl
@[simp] theorem State.setArm_sigs : (s.setArm off tgt v).sigs = s.sigs := rfl
@[simp] theorem State.setArm_order : (s.setArm off tgt v).order = s.order := rfl
@[simp] theorem State.setArm_hif0 : (s.setArm off tgt v).hif0 = s.hif0 := rfl
@[simp] theorem State.setArm_hif1 : (s.setArm off tgt v).hif1 = s.hif1 := rfl
@[simp] theorem State.setArm_sqs : (s.setArm off tgt v).sqs = s.sqs := rfl
@[simp] theorem State.setArm_cqs : (s.setArm off tgt v).cqs = s.cqs := rfl
@[simp] theorem State.setArm_ras : (s.setArm off tgt v).ras = s.ras := rfl
@[simp] theorem State.setArm_slots : (s.setArm off tgt v).slots = s.slots := rfl
@[simp] theorem State.setArm_slotShadow : (s.setArm off tgt v).slotShadow = s.slotShadow := rfl
@[simp] theorem State.setArm_lath : (s.setArm off tgt v).lath = s.lath := rfl
@[simp] theorem State.setArm_mgt : (s.setArm off tgt v).mgt = s.mgt := rfl
@[simp] theorem State.setArm_pwr : (s.setArm off tgt v).pwr = s.pwr := rfl
@[simp] theorem State.setArm_evc : (s.setArm off tgt v).evc = s.evc := rfl
@[simp] theorem State.setArm_evFreeze : (s.setArm off tgt v).evFreeze = s.evFreeze := rfl
@[simp] theorem State.setArm_free : (s.setArm off tgt v).free = s.free := rfl
@[simp] theorem State.setArm_sent : (s.setArm off tgt v).sent = s.sent := rfl
@[simp] theorem State.setArm_pending : (s.setArm off tgt v).pending = s.pending := rfl
@[simp] theorem State.setArm_core (key₂ : Nat) : (s.setArm off tgt v).core key₂ = s.core key₂ := rfl
@[simp] theorem State.setArm_clu (key₂ : Nat) : (s.setArm off tgt v).clu key₂ = s.clu key₂ := rfl
@[simp] theorem State.setArm_ped (key₂ : Nat) : (s.setArm off tgt v).ped key₂ = s.ped key₂ := rfl
@[simp] theorem State.setArm_niche (key₂ : Nat) : (s.setArm off tgt v).niche key₂ = s.niche key₂ := rfl
@[simp] theorem State.setArm_job (key₂ : Nat) : (s.setArm off tgt v).job key₂ = s.job key₂ := rfl
@[simp] theorem State.setArm_sq (key₂ : Nat) : (s.setArm off tgt v).sq key₂ = s.sq key₂ := rfl
@[simp] theorem State.setArm_cq (key₂ : Nat) : (s.setArm off tgt v).cq key₂ = s.cq key₂ := rfl
@[simp] theorem State.setArm_hif (f₂ : Bool) : (s.setArm off tgt v).hif f₂ = s.hif f₂ := rfl
@[simp] theorem State.setArm_port (key₂ : Nat) : (s.setArm off tgt v).port key₂ = s.port key₂ := rfl
@[simp] theorem State.setArm_rft (key₂ : Nat) : (s.setArm off tgt v).rft key₂ = s.rft key₂ := rfl
@[simp] theorem State.setArm_tq (key₂ : Nat) : (s.setArm off tgt v).tq key₂ = s.tq key₂ := rfl

end

/-! ## `disarm` -/

section
variable (s : State) (off tgt : Nat)

@[simp] theorem State.disarm_now : (s.disarm off tgt).now = s.now := rfl
@[simp] theorem State.disarm_ftOff : (s.disarm off tgt).ftOff = s.ftOff := rfl
@[simp] theorem State.disarm_active : (s.disarm off tgt).active = s.active := rfl
@[simp] theorem State.disarm_a0 : (s.disarm off tgt).a0 = s.a0 := rfl
@[simp] theorem State.disarm_dshare : (s.disarm off tgt).dshare = s.dshare := rfl
@[simp] theorem State.disarm_fresh : (s.disarm off tgt).fresh = s.fresh := rfl
@[simp] theorem State.disarm_cores : (s.disarm off tgt).cores = s.cores := rfl
@[simp] theorem State.disarm_clus : (s.disarm off tgt).clus = s.clus := rfl
@[simp] theorem State.disarm_peds : (s.disarm off tgt).peds = s.peds := rfl
@[simp] theorem State.disarm_mpa : (s.disarm off tgt).mpa = s.mpa := rfl
@[simp] theorem State.disarm_poison : (s.disarm off tgt).poison = s.poison := rfl
@[simp] theorem State.disarm_niches : (s.disarm off tgt).niches = s.niches := rfl
@[simp] theorem State.disarm_casts : (s.disarm off tgt).casts = s.casts := rfl
@[simp] theorem State.disarm_jobs : (s.disarm off tgt).jobs = s.jobs := rfl
@[simp] theorem State.disarm_nextJob : (s.disarm off tgt).nextJob = s.nextJob := rfl
@[simp] theorem State.disarm_sigs : (s.disarm off tgt).sigs = s.sigs := rfl
@[simp] theorem State.disarm_order : (s.disarm off tgt).order = s.order := rfl
@[simp] theorem State.disarm_hif0 : (s.disarm off tgt).hif0 = s.hif0 := rfl
@[simp] theorem State.disarm_hif1 : (s.disarm off tgt).hif1 = s.hif1 := rfl
@[simp] theorem State.disarm_sqs : (s.disarm off tgt).sqs = s.sqs := rfl
@[simp] theorem State.disarm_cqs : (s.disarm off tgt).cqs = s.cqs := rfl
@[simp] theorem State.disarm_ras : (s.disarm off tgt).ras = s.ras := rfl
@[simp] theorem State.disarm_slots : (s.disarm off tgt).slots = s.slots := rfl
@[simp] theorem State.disarm_slotShadow : (s.disarm off tgt).slotShadow = s.slotShadow := rfl
@[simp] theorem State.disarm_lath : (s.disarm off tgt).lath = s.lath := rfl
@[simp] theorem State.disarm_mgt : (s.disarm off tgt).mgt = s.mgt := rfl
@[simp] theorem State.disarm_pwr : (s.disarm off tgt).pwr = s.pwr := rfl
@[simp] theorem State.disarm_evc : (s.disarm off tgt).evc = s.evc := rfl
@[simp] theorem State.disarm_evFreeze : (s.disarm off tgt).evFreeze = s.evFreeze := rfl
@[simp] theorem State.disarm_free : (s.disarm off tgt).free = s.free := rfl
@[simp] theorem State.disarm_sent : (s.disarm off tgt).sent = s.sent := rfl
@[simp] theorem State.disarm_pending : (s.disarm off tgt).pending = s.pending := rfl
@[simp] theorem State.disarm_core (key₂ : Nat) : (s.disarm off tgt).core key₂ = s.core key₂ := rfl
@[simp] theorem State.disarm_clu (key₂ : Nat) : (s.disarm off tgt).clu key₂ = s.clu key₂ := rfl
@[simp] theorem State.disarm_ped (key₂ : Nat) : (s.disarm off tgt).ped key₂ = s.ped key₂ := rfl
@[simp] theorem State.disarm_niche (key₂ : Nat) : (s.disarm off tgt).niche key₂ = s.niche key₂ := rfl
@[simp] theorem State.disarm_job (key₂ : Nat) : (s.disarm off tgt).job key₂ = s.job key₂ := rfl
@[simp] theorem State.disarm_sq (key₂ : Nat) : (s.disarm off tgt).sq key₂ = s.sq key₂ := rfl
@[simp] theorem State.disarm_cq (key₂ : Nat) : (s.disarm off tgt).cq key₂ = s.cq key₂ := rfl
@[simp] theorem State.disarm_hif (f₂ : Bool) : (s.disarm off tgt).hif f₂ = s.hif f₂ := rfl
@[simp] theorem State.disarm_port (key₂ : Nat) : (s.disarm off tgt).port key₂ = s.port key₂ := rfl
@[simp] theorem State.disarm_rft (key₂ : Nat) : (s.disarm off tgt).rft key₂ = s.rft key₂ := rfl
@[simp] theorem State.disarm_tq (key₂ : Nat) : (s.disarm off tgt).tq key₂ = s.tq key₂ := rfl

end

/-! ## `setPoison` -/

section
variable (s : State) (seg : Nat) (v : Bool)

@[simp] theorem State.setPoison_now : (s.setPoison seg v).now = s.now := rfl
@[simp] theorem State.setPoison_ftOff : (s.setPoison seg v).ftOff = s.ftOff := rfl
@[simp] theorem State.setPoison_active : (s.setPoison seg v).active = s.active := rfl
@[simp] theorem State.setPoison_a0 : (s.setPoison seg v).a0 = s.a0 := rfl
@[simp] theorem State.setPoison_dshare : (s.setPoison seg v).dshare = s.dshare := rfl
@[simp] theorem State.setPoison_fresh : (s.setPoison seg v).fresh = s.fresh := rfl
@[simp] theorem State.setPoison_cores : (s.setPoison seg v).cores = s.cores := rfl
@[simp] theorem State.setPoison_clus : (s.setPoison seg v).clus = s.clus := rfl
@[simp] theorem State.setPoison_peds : (s.setPoison seg v).peds = s.peds := rfl
@[simp] theorem State.setPoison_mpa : (s.setPoison seg v).mpa = s.mpa := rfl
@[simp] theorem State.setPoison_niches : (s.setPoison seg v).niches = s.niches := rfl
@[simp] theorem State.setPoison_casts : (s.setPoison seg v).casts = s.casts := rfl
@[simp] theorem State.setPoison_jobs : (s.setPoison seg v).jobs = s.jobs := rfl
@[simp] theorem State.setPoison_nextJob : (s.setPoison seg v).nextJob = s.nextJob := rfl
@[simp] theorem State.setPoison_sigs : (s.setPoison seg v).sigs = s.sigs := rfl
@[simp] theorem State.setPoison_order : (s.setPoison seg v).order = s.order := rfl
@[simp] theorem State.setPoison_hif0 : (s.setPoison seg v).hif0 = s.hif0 := rfl
@[simp] theorem State.setPoison_hif1 : (s.setPoison seg v).hif1 = s.hif1 := rfl
@[simp] theorem State.setPoison_sqs : (s.setPoison seg v).sqs = s.sqs := rfl
@[simp] theorem State.setPoison_cqs : (s.setPoison seg v).cqs = s.cqs := rfl
@[simp] theorem State.setPoison_ras : (s.setPoison seg v).ras = s.ras := rfl
@[simp] theorem State.setPoison_arms : (s.setPoison seg v).arms = s.arms := rfl
@[simp] theorem State.setPoison_slots : (s.setPoison seg v).slots = s.slots := rfl
@[simp] theorem State.setPoison_slotShadow : (s.setPoison seg v).slotShadow = s.slotShadow := rfl
@[simp] theorem State.setPoison_lath : (s.setPoison seg v).lath = s.lath := rfl
@[simp] theorem State.setPoison_mgt : (s.setPoison seg v).mgt = s.mgt := rfl
@[simp] theorem State.setPoison_pwr : (s.setPoison seg v).pwr = s.pwr := rfl
@[simp] theorem State.setPoison_evc : (s.setPoison seg v).evc = s.evc := rfl
@[simp] theorem State.setPoison_evFreeze : (s.setPoison seg v).evFreeze = s.evFreeze := rfl
@[simp] theorem State.setPoison_free : (s.setPoison seg v).free = s.free := rfl
@[simp] theorem State.setPoison_sent : (s.setPoison seg v).sent = s.sent := rfl
@[simp] theorem State.setPoison_pending : (s.setPoison seg v).pending = s.pending := rfl
@[simp] theorem State.setPoison_core (key₂ : Nat) : (s.setPoison seg v).core key₂ = s.core key₂ := rfl
@[simp] theorem State.setPoison_clu (key₂ : Nat) : (s.setPoison seg v).clu key₂ = s.clu key₂ := rfl
@[simp] theorem State.setPoison_ped (key₂ : Nat) : (s.setPoison seg v).ped key₂ = s.ped key₂ := rfl
@[simp] theorem State.setPoison_niche (key₂ : Nat) : (s.setPoison seg v).niche key₂ = s.niche key₂ := rfl
@[simp] theorem State.setPoison_job (key₂ : Nat) : (s.setPoison seg v).job key₂ = s.job key₂ := rfl
@[simp] theorem State.setPoison_sq (key₂ : Nat) : (s.setPoison seg v).sq key₂ = s.sq key₂ := rfl
@[simp] theorem State.setPoison_cq (key₂ : Nat) : (s.setPoison seg v).cq key₂ = s.cq key₂ := rfl
@[simp] theorem State.setPoison_hif (f₂ : Bool) : (s.setPoison seg v).hif f₂ = s.hif f₂ := rfl
@[simp] theorem State.setPoison_arm (off₂ tgt₂ : Nat) : (s.setPoison seg v).arm off₂ tgt₂ = s.arm off₂ tgt₂ := rfl
@[simp] theorem State.setPoison_port (key₂ : Nat) : (s.setPoison seg v).port key₂ = s.port key₂ := rfl
@[simp] theorem State.setPoison_rft (key₂ : Nat) : (s.setPoison seg v).rft key₂ = s.rft key₂ := rfl
@[simp] theorem State.setPoison_tq (key₂ : Nat) : (s.setPoison seg v).tq key₂ = s.tq key₂ := rfl

end

/-! ## `updLath` -/

section
variable (s : State) (f : Lath → Lath)

@[simp] theorem State.updLath_now : (s.updLath f).now = s.now := rfl
@[simp] theorem State.updLath_ftOff : (s.updLath f).ftOff = s.ftOff := rfl
@[simp] theorem State.updLath_active : (s.updLath f).active = s.active := rfl
@[simp] theorem State.updLath_a0 : (s.updLath f).a0 = s.a0 := rfl
@[simp] theorem State.updLath_dshare : (s.updLath f).dshare = s.dshare := rfl
@[simp] theorem State.updLath_fresh : (s.updLath f).fresh = s.fresh := rfl
@[simp] theorem State.updLath_cores : (s.updLath f).cores = s.cores := rfl
@[simp] theorem State.updLath_clus : (s.updLath f).clus = s.clus := rfl
@[simp] theorem State.updLath_peds : (s.updLath f).peds = s.peds := rfl
@[simp] theorem State.updLath_mpa : (s.updLath f).mpa = s.mpa := rfl
@[simp] theorem State.updLath_poison : (s.updLath f).poison = s.poison := rfl
@[simp] theorem State.updLath_niches : (s.updLath f).niches = s.niches := rfl
@[simp] theorem State.updLath_casts : (s.updLath f).casts = s.casts := rfl
@[simp] theorem State.updLath_jobs : (s.updLath f).jobs = s.jobs := rfl
@[simp] theorem State.updLath_nextJob : (s.updLath f).nextJob = s.nextJob := rfl
@[simp] theorem State.updLath_sigs : (s.updLath f).sigs = s.sigs := rfl
@[simp] theorem State.updLath_order : (s.updLath f).order = s.order := rfl
@[simp] theorem State.updLath_hif0 : (s.updLath f).hif0 = s.hif0 := rfl
@[simp] theorem State.updLath_hif1 : (s.updLath f).hif1 = s.hif1 := rfl
@[simp] theorem State.updLath_sqs : (s.updLath f).sqs = s.sqs := rfl
@[simp] theorem State.updLath_cqs : (s.updLath f).cqs = s.cqs := rfl
@[simp] theorem State.updLath_ras : (s.updLath f).ras = s.ras := rfl
@[simp] theorem State.updLath_arms : (s.updLath f).arms = s.arms := rfl
@[simp] theorem State.updLath_slots : (s.updLath f).slots = s.slots := rfl
@[simp] theorem State.updLath_slotShadow : (s.updLath f).slotShadow = s.slotShadow := rfl
@[simp] theorem State.updLath_mgt : (s.updLath f).mgt = s.mgt := rfl
@[simp] theorem State.updLath_pwr : (s.updLath f).pwr = s.pwr := rfl
@[simp] theorem State.updLath_evc : (s.updLath f).evc = s.evc := rfl
@[simp] theorem State.updLath_evFreeze : (s.updLath f).evFreeze = s.evFreeze := rfl
@[simp] theorem State.updLath_free : (s.updLath f).free = s.free := rfl
@[simp] theorem State.updLath_sent : (s.updLath f).sent = s.sent := rfl
@[simp] theorem State.updLath_pending : (s.updLath f).pending = s.pending := rfl
@[simp] theorem State.updLath_core (key₂ : Nat) : (s.updLath f).core key₂ = s.core key₂ := rfl
@[simp] theorem State.updLath_clu (key₂ : Nat) : (s.updLath f).clu key₂ = s.clu key₂ := rfl
@[simp] theorem State.updLath_ped (key₂ : Nat) : (s.updLath f).ped key₂ = s.ped key₂ := rfl
@[simp] theorem State.updLath_niche (key₂ : Nat) : (s.updLath f).niche key₂ = s.niche key₂ := rfl
@[simp] theorem State.updLath_job (key₂ : Nat) : (s.updLath f).job key₂ = s.job key₂ := rfl
@[simp] theorem State.updLath_sq (key₂ : Nat) : (s.updLath f).sq key₂ = s.sq key₂ := rfl
@[simp] theorem State.updLath_cq (key₂ : Nat) : (s.updLath f).cq key₂ = s.cq key₂ := rfl
@[simp] theorem State.updLath_hif (f₂ : Bool) : (s.updLath f).hif f₂ = s.hif f₂ := rfl
@[simp] theorem State.updLath_arm (off₂ tgt₂ : Nat) : (s.updLath f).arm off₂ tgt₂ = s.arm off₂ tgt₂ := rfl
@[simp] theorem State.updLath_lath : (s.updLath f).lath = f s.lath := rfl

end

/-! ## `setPort` -/

section
variable (s : State) (key : Nat) (c : Port)

@[simp] theorem State.setPort_now : (s.setPort key c).now = s.now := rfl
@[simp] theorem State.setPort_ftOff : (s.setPort key c).ftOff = s.ftOff := rfl
@[simp] theorem State.setPort_active : (s.setPort key c).active = s.active := rfl
@[simp] theorem State.setPort_a0 : (s.setPort key c).a0 = s.a0 := rfl
@[simp] theorem State.setPort_dshare : (s.setPort key c).dshare = s.dshare := rfl
@[simp] theorem State.setPort_fresh : (s.setPort key c).fresh = s.fresh := rfl
@[simp] theorem State.setPort_cores : (s.setPort key c).cores = s.cores := rfl
@[simp] theorem State.setPort_clus : (s.setPort key c).clus = s.clus := rfl
@[simp] theorem State.setPort_peds : (s.setPort key c).peds = s.peds := rfl
@[simp] theorem State.setPort_mpa : (s.setPort key c).mpa = s.mpa := rfl
@[simp] theorem State.setPort_poison : (s.setPort key c).poison = s.poison := rfl
@[simp] theorem State.setPort_niches : (s.setPort key c).niches = s.niches := rfl
@[simp] theorem State.setPort_casts : (s.setPort key c).casts = s.casts := rfl
@[simp] theorem State.setPort_jobs : (s.setPort key c).jobs = s.jobs := rfl
@[simp] theorem State.setPort_nextJob : (s.setPort key c).nextJob = s.nextJob := rfl
@[simp] theorem State.setPort_sigs : (s.setPort key c).sigs = s.sigs := rfl
@[simp] theorem State.setPort_order : (s.setPort key c).order = s.order := rfl
@[simp] theorem State.setPort_hif0 : (s.setPort key c).hif0 = s.hif0 := rfl
@[simp] theorem State.setPort_hif1 : (s.setPort key c).hif1 = s.hif1 := rfl
@[simp] theorem State.setPort_sqs : (s.setPort key c).sqs = s.sqs := rfl
@[simp] theorem State.setPort_cqs : (s.setPort key c).cqs = s.cqs := rfl
@[simp] theorem State.setPort_ras : (s.setPort key c).ras = s.ras := rfl
@[simp] theorem State.setPort_arms : (s.setPort key c).arms = s.arms := rfl
@[simp] theorem State.setPort_slots : (s.setPort key c).slots = s.slots := rfl
@[simp] theorem State.setPort_slotShadow : (s.setPort key c).slotShadow = s.slotShadow := rfl
@[simp] theorem State.setPort_mgt : (s.setPort key c).mgt = s.mgt := rfl
@[simp] theorem State.setPort_pwr : (s.setPort key c).pwr = s.pwr := rfl
@[simp] theorem State.setPort_evc : (s.setPort key c).evc = s.evc := rfl
@[simp] theorem State.setPort_evFreeze : (s.setPort key c).evFreeze = s.evFreeze := rfl
@[simp] theorem State.setPort_free : (s.setPort key c).free = s.free := rfl
@[simp] theorem State.setPort_sent : (s.setPort key c).sent = s.sent := rfl
@[simp] theorem State.setPort_pending : (s.setPort key c).pending = s.pending := rfl
@[simp] theorem State.setPort_core (key₂ : Nat) : (s.setPort key c).core key₂ = s.core key₂ := rfl
@[simp] theorem State.setPort_clu (key₂ : Nat) : (s.setPort key c).clu key₂ = s.clu key₂ := rfl
@[simp] theorem State.setPort_ped (key₂ : Nat) : (s.setPort key c).ped key₂ = s.ped key₂ := rfl
@[simp] theorem State.setPort_niche (key₂ : Nat) : (s.setPort key c).niche key₂ = s.niche key₂ := rfl
@[simp] theorem State.setPort_job (key₂ : Nat) : (s.setPort key c).job key₂ = s.job key₂ := rfl
@[simp] theorem State.setPort_sq (key₂ : Nat) : (s.setPort key c).sq key₂ = s.sq key₂ := rfl
@[simp] theorem State.setPort_cq (key₂ : Nat) : (s.setPort key c).cq key₂ = s.cq key₂ := rfl
@[simp] theorem State.setPort_hif (f₂ : Bool) : (s.setPort key c).hif f₂ = s.hif f₂ := rfl
@[simp] theorem State.setPort_arm (off₂ tgt₂ : Nat) : (s.setPort key c).arm off₂ tgt₂ = s.arm off₂ tgt₂ := rfl
@[simp] theorem State.setPort_port_self : (s.setPort key c).port key = c := Tbl.get_set_self _ _ _ _
theorem State.setPort_port_other {key₂ : Nat} (h : key₂ ≠ key) : (s.setPort key c).port key₂ = s.port key₂ := Tbl.get_set_other _ _ h _
@[simp] theorem State.setPort_rft (key₂ : Nat) : (s.setPort key c).rft key₂ = s.rft key₂ := rfl
@[simp] theorem State.setPort_tq (key₂ : Nat) : (s.setPort key c).tq key₂ = s.tq key₂ := rfl

end

/-! ## `updPort` -/

section
variable (s : State) (key : Nat) (f : Port → Port)

@[simp] theorem State.updPort_now : (s.updPort key f).now = s.now := rfl
@[simp] theorem State.updPort_ftOff : (s.updPort key f).ftOff = s.ftOff := rfl
@[simp] theorem State.updPort_active : (s.updPort key f).active = s.active := rfl
@[simp] theorem State.updPort_a0 : (s.updPort key f).a0 = s.a0 := rfl
@[simp] theorem State.updPort_dshare : (s.updPort key f).dshare = s.dshare := rfl
@[simp] theorem State.updPort_fresh : (s.updPort key f).fresh = s.fresh := rfl
@[simp] theorem State.updPort_cores : (s.updPort key f).cores = s.cores := rfl
@[simp] theorem State.updPort_clus : (s.updPort key f).clus = s.clus := rfl
@[simp] theorem State.updPort_peds : (s.updPort key f).peds = s.peds := rfl
@[simp] theorem State.updPort_mpa : (s.updPort key f).mpa = s.mpa := rfl
@[simp] theorem State.updPort_poison : (s.updPort key f).poison = s.poison := rfl
@[simp] theorem State.updPort_niches : (s.updPort key f).niches = s.niches := rfl
@[simp] theorem State.updPort_casts : (s.updPort key f).casts = s.casts := rfl
@[simp] theorem State.updPort_jobs : (s.updPort key f).jobs = s.jobs := rfl
@[simp] theorem State.updPort_nextJob : (s.updPort key f).nextJob = s.nextJob := rfl
@[simp] theorem State.updPort_sigs : (s.updPort key f).sigs = s.sigs := rfl
@[simp] theorem State.updPort_order : (s.updPort key f).order = s.order := rfl
@[simp] theorem State.updPort_hif0 : (s.updPort key f).hif0 = s.hif0 := rfl
@[simp] theorem State.updPort_hif1 : (s.updPort key f).hif1 = s.hif1 := rfl
@[simp] theorem State.updPort_sqs : (s.updPort key f).sqs = s.sqs := rfl
@[simp] theorem State.updPort_cqs : (s.updPort key f).cqs = s.cqs := rfl
@[simp] theorem State.updPort_ras : (s.updPort key f).ras = s.ras := rfl
@[simp] theorem State.updPort_arms : (s.updPort key f).arms = s.arms := rfl
@[simp] theorem State.updPort_slots : (s.updPort key f).slots = s.slots := rfl
@[simp] theorem State.updPort_slotShadow : (s.updPort key f).slotShadow = s.slotShadow := rfl
@[simp] theorem State.updPort_mgt : (s.updPort key f).mgt = s.mgt := rfl
@[simp] theorem State.updPort_pwr : (s.updPort key f).pwr = s.pwr := rfl
@[simp] theorem State.updPort_evc : (s.updPort key f).evc = s.evc := rfl
@[simp] theorem State.updPort_evFreeze : (s.updPort key f).evFreeze = s.evFreeze := rfl
@[simp] theorem State.updPort_free : (s.updPort key f).free = s.free := rfl
@[simp] theorem State.updPort_sent : (s.updPort key f).sent = s.sent := rfl
@[simp] theorem State.updPort_pending : (s.updPort key f).pending = s.pending := rfl
@[simp] theorem State.updPort_core (key₂ : Nat) : (s.updPort key f).core key₂ = s.core key₂ := rfl
@[simp] theorem State.updPort_clu (key₂ : Nat) : (s.updPort key f).clu key₂ = s.clu key₂ := rfl
@[simp] theorem State.updPort_ped (key₂ : Nat) : (s.updPort key f).ped key₂ = s.ped key₂ := rfl
@[simp] theorem State.updPort_niche (key₂ : Nat) : (s.updPort key f).niche key₂ = s.niche key₂ := rfl
@[simp] theorem State.updPort_job (key₂ : Nat) : (s.updPort key f).job key₂ = s.job key₂ := rfl
@[simp] theorem State.updPort_sq (key₂ : Nat) : (s.updPort key f).sq key₂ = s.sq key₂ := rfl
@[simp] theorem State.updPort_cq (key₂ : Nat) : (s.updPort key f).cq key₂ = s.cq key₂ := rfl
@[simp] theorem State.updPort_hif (f₂ : Bool) : (s.updPort key f).hif f₂ = s.hif f₂ := rfl
@[simp] theorem State.updPort_arm (off₂ tgt₂ : Nat) : (s.updPort key f).arm off₂ tgt₂ = s.arm off₂ tgt₂ := rfl
@[simp] theorem State.updPort_port_self : (s.updPort key f).port key = f (s.port key) := Tbl.get_set_self _ _ _ _
theorem State.updPort_port_other {key₂ : Nat} (h : key₂ ≠ key) : (s.updPort key f).port key₂ = s.port key₂ := Tbl.get_set_other _ _ h _
@[simp] theorem State.updPort_rft (key₂ : Nat) : (s.updPort key f).rft key₂ = s.rft key₂ := rfl
@[simp] theorem State.updPort_tq (key₂ : Nat) : (s.updPort key f).tq key₂ = s.tq key₂ := rfl

end

/-! ## `setRft` -/

section
variable (s : State) (key : Nat) (c : Rft)

@[simp] theorem State.setRft_now : (s.setRft key c).now = s.now := rfl
@[simp] theorem State.setRft_ftOff : (s.setRft key c).ftOff = s.ftOff := rfl
@[simp] theorem State.setRft_active : (s.setRft key c).active = s.active := rfl
@[simp] theorem State.setRft_a0 : (s.setRft key c).a0 = s.a0 := rfl
@[simp] theorem State.setRft_dshare : (s.setRft key c).dshare = s.dshare := rfl
@[simp] theorem State.setRft_fresh : (s.setRft key c).fresh = s.fresh := rfl
@[simp] theorem State.setRft_cores : (s.setRft key c).cores = s.cores := rfl
@[simp] theorem State.setRft_clus : (s.setRft key c).clus = s.clus := rfl
@[simp] theorem State.setRft_peds : (s.setRft key c).peds = s.peds := rfl
@[simp] theorem State.setRft_mpa : (s.setRft key c).mpa = s.mpa := rfl
@[simp] theorem State.setRft_poison : (s.setRft key c).poison = s.poison := rfl
@[simp] theorem State.setRft_niches : (s.setRft key c).niches = s.niches := rfl
@[simp] theorem State.setRft_casts : (s.setRft key c).casts = s.casts := rfl
@[simp] theorem State.setRft_jobs : (s.setRft key c).jobs = s.jobs := rfl
@[simp] theorem State.setRft_nextJob : (s.setRft key c).nextJob = s.nextJob := rfl
@[simp] theorem State.setRft_sigs : (s.setRft key c).sigs = s.sigs := rfl
@[simp] theorem State.setRft_order : (s.setRft key c).order = s.order := rfl
@[simp] theorem State.setRft_hif0 : (s.setRft key c).hif0 = s.hif0 := rfl
@[simp] theorem State.setRft_hif1 : (s.setRft key c).hif1 = s.hif1 := rfl
@[simp] theorem State.setRft_sqs : (s.setRft key c).sqs = s.sqs := rfl
@[simp] theorem State.setRft_cqs : (s.setRft key c).cqs = s.cqs := rfl
@[simp] theorem State.setRft_ras : (s.setRft key c).ras = s.ras := rfl
@[simp] theorem State.setRft_arms : (s.setRft key c).arms = s.arms := rfl
@[simp] theorem State.setRft_slots : (s.setRft key c).slots = s.slots := rfl
@[simp] theorem State.setRft_slotShadow : (s.setRft key c).slotShadow = s.slotShadow := rfl
@[simp] theorem State.setRft_mgt : (s.setRft key c).mgt = s.mgt := rfl
@[simp] theorem State.setRft_pwr : (s.setRft key c).pwr = s.pwr := rfl
@[simp] theorem State.setRft_evc : (s.setRft key c).evc = s.evc := rfl
@[simp] theorem State.setRft_evFreeze : (s.setRft key c).evFreeze = s.evFreeze := rfl
@[simp] theorem State.setRft_free : (s.setRft key c).free = s.free := rfl
@[simp] theorem State.setRft_sent : (s.setRft key c).sent = s.sent := rfl
@[simp] theorem State.setRft_pending : (s.setRft key c).pending = s.pending := rfl
@[simp] theorem State.setRft_core (key₂ : Nat) : (s.setRft key c).core key₂ = s.core key₂ := rfl
@[simp] theorem State.setRft_clu (key₂ : Nat) : (s.setRft key c).clu key₂ = s.clu key₂ := rfl
@[simp] theorem State.setRft_ped (key₂ : Nat) : (s.setRft key c).ped key₂ = s.ped key₂ := rfl
@[simp] theorem State.setRft_niche (key₂ : Nat) : (s.setRft key c).niche key₂ = s.niche key₂ := rfl
@[simp] theorem State.setRft_job (key₂ : Nat) : (s.setRft key c).job key₂ = s.job key₂ := rfl
@[simp] theorem State.setRft_sq (key₂ : Nat) : (s.setRft key c).sq key₂ = s.sq key₂ := rfl
@[simp] theorem State.setRft_cq (key₂ : Nat) : (s.setRft key c).cq key₂ = s.cq key₂ := rfl
@[simp] theorem State.setRft_hif (f₂ : Bool) : (s.setRft key c).hif f₂ = s.hif f₂ := rfl
@[simp] theorem State.setRft_arm (off₂ tgt₂ : Nat) : (s.setRft key c).arm off₂ tgt₂ = s.arm off₂ tgt₂ := rfl
@[simp] theorem State.setRft_rft_self : (s.setRft key c).rft key = c := Tbl.get_set_self _ _ _ _
theorem State.setRft_rft_other {key₂ : Nat} (h : key₂ ≠ key) : (s.setRft key c).rft key₂ = s.rft key₂ := Tbl.get_set_other _ _ h _
@[simp] theorem State.setRft_port (key₂ : Nat) : (s.setRft key c).port key₂ = s.port key₂ := rfl
@[simp] theorem State.setRft_tq (key₂ : Nat) : (s.setRft key c).tq key₂ = s.tq key₂ := rfl

end

/-! ## `updRft` -/

section
variable (s : State) (key : Nat) (f : Rft → Rft)

@[simp] theorem State.updRft_now : (s.updRft key f).now = s.now := rfl
@[simp] theorem State.updRft_ftOff : (s.updRft key f).ftOff = s.ftOff := rfl
@[simp] theorem State.updRft_active : (s.updRft key f).active = s.active := rfl
@[simp] theorem State.updRft_a0 : (s.updRft key f).a0 = s.a0 := rfl
@[simp] theorem State.updRft_dshare : (s.updRft key f).dshare = s.dshare := rfl
@[simp] theorem State.updRft_fresh : (s.updRft key f).fresh = s.fresh := rfl
@[simp] theorem State.updRft_cores : (s.updRft key f).cores = s.cores := rfl
@[simp] theorem State.updRft_clus : (s.updRft key f).clus = s.clus := rfl
@[simp] theorem State.updRft_peds : (s.updRft key f).peds = s.peds := rfl
@[simp] theorem State.updRft_mpa : (s.updRft key f).mpa = s.mpa := rfl
@[simp] theorem State.updRft_poison : (s.updRft key f).poison = s.poison := rfl
@[simp] theorem State.updRft_niches : (s.updRft key f).niches = s.niches := rfl
@[simp] theorem State.updRft_casts : (s.updRft key f).casts = s.casts := rfl
@[simp] theorem State.updRft_jobs : (s.updRft key f).jobs = s.jobs := rfl
@[simp] theorem State.updRft_nextJob : (s.updRft key f).nextJob = s.nextJob := rfl
@[simp] theorem State.updRft_sigs : (s.updRft key f).sigs = s.sigs := rfl
@[simp] theorem State.updRft_order : (s.updRft key f).order = s.order := rfl
@[simp] theorem State.updRft_hif0 : (s.updRft key f).hif0 = s.hif0 := rfl
@[simp] theorem State.updRft_hif1 : (s.updRft key f).hif1 = s.hif1 := rfl
@[simp] theorem State.updRft_sqs : (s.updRft key f).sqs = s.sqs := rfl
@[simp] theorem State.updRft_cqs : (s.updRft key f).cqs = s.cqs := rfl
@[simp] theorem State.updRft_ras : (s.updRft key f).ras = s.ras := rfl
@[simp] theorem State.updRft_arms : (s.updRft key f).arms = s.arms := rfl
@[simp] theorem State.updRft_slots : (s.updRft key f).slots = s.slots := rfl
@[simp] theorem State.updRft_slotShadow : (s.updRft key f).slotShadow = s.slotShadow := rfl
@[simp] theorem State.updRft_mgt : (s.updRft key f).mgt = s.mgt := rfl
@[simp] theorem State.updRft_pwr : (s.updRft key f).pwr = s.pwr := rfl
@[simp] theorem State.updRft_evc : (s.updRft key f).evc = s.evc := rfl
@[simp] theorem State.updRft_evFreeze : (s.updRft key f).evFreeze = s.evFreeze := rfl
@[simp] theorem State.updRft_free : (s.updRft key f).free = s.free := rfl
@[simp] theorem State.updRft_sent : (s.updRft key f).sent = s.sent := rfl
@[simp] theorem State.updRft_pending : (s.updRft key f).pending = s.pending := rfl
@[simp] theorem State.updRft_core (key₂ : Nat) : (s.updRft key f).core key₂ = s.core key₂ := rfl
@[simp] theorem State.updRft_clu (key₂ : Nat) : (s.updRft key f).clu key₂ = s.clu key₂ := rfl
@[simp] theorem State.updRft_ped (key₂ : Nat) : (s.updRft key f).ped key₂ = s.ped key₂ := rfl
@[simp] theorem State.updRft_niche (key₂ : Nat) : (s.updRft key f).niche key₂ = s.niche key₂ := rfl
@[simp] theorem State.updRft_job (key₂ : Nat) : (s.updRft key f).job key₂ = s.job key₂ := rfl
@[simp] theorem State.updRft_sq (key₂ : Nat) : (s.updRft key f).sq key₂ = s.sq key₂ := rfl
@[simp] theorem State.updRft_cq (key₂ : Nat) : (s.updRft key f).cq key₂ = s.cq key₂ := rfl
@[simp] theorem State.updRft_hif (f₂ : Bool) : (s.updRft key f).hif f₂ = s.hif f₂ := rfl
@[simp] theorem State.updRft_arm (off₂ tgt₂ : Nat) : (s.updRft key f).arm off₂ tgt₂ = s.arm off₂ tgt₂ := rfl
@[simp] theorem State.updRft_rft_self : (s.updRft key f).rft key = f (s.rft key) := Tbl.get_set_self _ _ _ _
theorem State.updRft_rft_other {key₂ : Nat} (h : key₂ ≠ key) : (s.updRft key f).rft key₂ = s.rft key₂ := Tbl.get_set_other _ _ h _
@[simp] theorem State.updRft_port (key₂ : Nat) : (s.updRft key f).port key₂ = s.port key₂ := rfl
@[simp] theorem State.updRft_tq (key₂ : Nat) : (s.updRft key f).tq key₂ = s.tq key₂ := rfl

end

/-! ## `setTq` -/

section
variable (s : State) (key : Nat) (c : Tq)

@[simp] theorem State.setTq_now : (s.setTq key c).now = s.now := rfl
@[simp] theorem State.setTq_ftOff : (s.setTq key c).ftOff = s.ftOff := rfl
@[simp] theorem State.setTq_active : (s.setTq key c).active = s.active := rfl
@[simp] theorem State.setTq_a0 : (s.setTq key c).a0 = s.a0 := rfl
@[simp] theorem State.setTq_dshare : (s.setTq key c).dshare = s.dshare := rfl
@[simp] theorem State.setTq_fresh : (s.setTq key c).fresh = s.fresh := rfl
@[simp] theorem State.setTq_cores : (s.setTq key c).cores = s.cores := rfl
@[simp] theorem State.setTq_clus : (s.setTq key c).clus = s.clus := rfl
@[simp] theorem State.setTq_peds : (s.setTq key c).peds = s.peds := rfl
@[simp] theorem State.setTq_mpa : (s.setTq key c).mpa = s.mpa := rfl
@[simp] theorem State.setTq_poison : (s.setTq key c).poison = s.poison := rfl
@[simp] theorem State.setTq_niches : (s.setTq key c).niches = s.niches := rfl
@[simp] theorem State.setTq_casts : (s.setTq key c).casts = s.casts := rfl
@[simp] theorem State.setTq_jobs : (s.setTq key c).jobs = s.jobs := rfl
@[simp] theorem State.setTq_nextJob : (s.setTq key c).nextJob = s.nextJob := rfl
@[simp] theorem State.setTq_sigs : (s.setTq key c).sigs = s.sigs := rfl
@[simp] theorem State.setTq_order : (s.setTq key c).order = s.order := rfl
@[simp] theorem State.setTq_hif0 : (s.setTq key c).hif0 = s.hif0 := rfl
@[simp] theorem State.setTq_hif1 : (s.setTq key c).hif1 = s.hif1 := rfl
@[simp] theorem State.setTq_sqs : (s.setTq key c).sqs = s.sqs := rfl
@[simp] theorem State.setTq_cqs : (s.setTq key c).cqs = s.cqs := rfl
@[simp] theorem State.setTq_ras : (s.setTq key c).ras = s.ras := rfl
@[simp] theorem State.setTq_arms : (s.setTq key c).arms = s.arms := rfl
@[simp] theorem State.setTq_slots : (s.setTq key c).slots = s.slots := rfl
@[simp] theorem State.setTq_slotShadow : (s.setTq key c).slotShadow = s.slotShadow := rfl
@[simp] theorem State.setTq_mgt : (s.setTq key c).mgt = s.mgt := rfl
@[simp] theorem State.setTq_pwr : (s.setTq key c).pwr = s.pwr := rfl
@[simp] theorem State.setTq_evc : (s.setTq key c).evc = s.evc := rfl
@[simp] theorem State.setTq_evFreeze : (s.setTq key c).evFreeze = s.evFreeze := rfl
@[simp] theorem State.setTq_free : (s.setTq key c).free = s.free := rfl
@[simp] theorem State.setTq_sent : (s.setTq key c).sent = s.sent := rfl
@[simp] theorem State.setTq_pending : (s.setTq key c).pending = s.pending := rfl
@[simp] theorem State.setTq_core (key₂ : Nat) : (s.setTq key c).core key₂ = s.core key₂ := rfl
@[simp] theorem State.setTq_clu (key₂ : Nat) : (s.setTq key c).clu key₂ = s.clu key₂ := rfl
@[simp] theorem State.setTq_ped (key₂ : Nat) : (s.setTq key c).ped key₂ = s.ped key₂ := rfl
@[simp] theorem State.setTq_niche (key₂ : Nat) : (s.setTq key c).niche key₂ = s.niche key₂ := rfl
@[simp] theorem State.setTq_job (key₂ : Nat) : (s.setTq key c).job key₂ = s.job key₂ := rfl
@[simp] theorem State.setTq_sq (key₂ : Nat) : (s.setTq key c).sq key₂ = s.sq key₂ := rfl
@[simp] theorem State.setTq_cq (key₂ : Nat) : (s.setTq key c).cq key₂ = s.cq key₂ := rfl
@[simp] theorem State.setTq_hif (f₂ : Bool) : (s.setTq key c).hif f₂ = s.hif f₂ := rfl
@[simp] theorem State.setTq_arm (off₂ tgt₂ : Nat) : (s.setTq key c).arm off₂ tgt₂ = s.arm off₂ tgt₂ := rfl
@[simp] theorem State.setTq_tq_self : (s.setTq key c).tq key = c := Tbl.get_set_self _ _ _ _
theorem State.setTq_tq_other {key₂ : Nat} (h : key₂ ≠ key) : (s.setTq key c).tq key₂ = s.tq key₂ := Tbl.get_set_other _ _ h _
@[simp] theorem State.setTq_port (key₂ : Nat) : (s.setTq key c).port key₂ = s.port key₂ := rfl
@[simp] theorem State.setTq_rft (key₂ : Nat) : (s.setTq key c).rft key₂ = s.rft key₂ := rfl

end

/-! ## `updTq` -/

section
variable (s : State) (key : Nat) (f : Tq → Tq)

@[simp] theorem State.updTq_now : (s.updTq key f).now = s.now := rfl
@[simp] theorem State.updTq_ftOff : (s.updTq key f).ftOff = s.ftOff := rfl
@[simp] theorem State.updTq_active : (s.updTq key f).active = s.active := rfl
@[simp] theorem State.updTq_a0 : (s.updTq key f).a0 = s.a0 := rfl
@[simp] theorem State.updTq_dshare : (s.updTq key f).dshare = s.dshare := rfl
@[simp] theorem State.updTq_fresh : (s.updTq key f).fresh = s.fresh := rfl
@[simp] theorem State.updTq_cores : (s.updTq key f).cores = s.cores := rfl
@[simp] theorem State.updTq_clus : (s.updTq key f).clus = s.clus := rfl
@[simp] theorem State.updTq_peds : (s.updTq key f).peds = s.peds := rfl
@[simp] theorem State.updTq_mpa : (s.updTq key f).mpa = s.mpa := rfl
@[simp] theorem State.updTq_poison : (s.updTq key f).poison = s.poison := rfl
@[simp] theorem State.updTq_niches : (s.updTq key f).niches = s.niches := rfl
@[simp] theorem State.updTq_casts : (s.updTq key f).casts = s.casts := rfl
@[simp] theorem State.updTq_jobs : (s.updTq key f).jobs = s.jobs := rfl
@[simp] theorem State.updTq_nextJob : (s.updTq key f).nextJob = s.nextJob := rfl
@[simp] theorem State.updTq_sigs : (s.updTq key f).sigs = s.sigs := rfl
@[simp] theorem State.updTq_order : (s.updTq key f).order = s.order := rfl
@[simp] theorem State.updTq_hif0 : (s.updTq key f).hif0 = s.hif0 := rfl
@[simp] theorem State.updTq_hif1 : (s.updTq key f).hif1 = s.hif1 := rfl
@[simp] theorem State.updTq_sqs : (s.updTq key f).sqs = s.sqs := rfl
@[simp] theorem State.updTq_cqs : (s.updTq key f).cqs = s.cqs := rfl
@[simp] theorem State.updTq_ras : (s.updTq key f).ras = s.ras := rfl
@[simp] theorem State.updTq_arms : (s.updTq key f).arms = s.arms := rfl
@[simp] theorem State.updTq_slots : (s.updTq key f).slots = s.slots := rfl
@[simp] theorem State.updTq_slotShadow : (s.updTq key f).slotShadow = s.slotShadow := rfl
@[simp] theorem State.updTq_mgt : (s.updTq key f).mgt = s.mgt := rfl
@[simp] theorem State.updTq_pwr : (s.updTq key f).pwr = s.pwr := rfl
@[simp] theorem State.updTq_evc : (s.updTq key f).evc = s.evc := rfl
@[simp] theorem State.updTq_evFreeze : (s.updTq key f).evFreeze = s.evFreeze := rfl
@[simp] theorem State.updTq_free : (s.updTq key f).free = s.free := rfl
@[simp] theorem State.updTq_sent : (s.updTq key f).sent = s.sent := rfl
@[simp] theorem State.updTq_pending : (s.updTq key f).pending = s.pending := rfl
@[simp] theorem State.updTq_core (key₂ : Nat) : (s.updTq key f).core key₂ = s.core key₂ := rfl
@[simp] theorem State.updTq_clu (key₂ : Nat) : (s.updTq key f).clu key₂ = s.clu key₂ := rfl
@[simp] theorem State.updTq_ped (key₂ : Nat) : (s.updTq key f).ped key₂ = s.ped key₂ := rfl
@[simp] theorem State.updTq_niche (key₂ : Nat) : (s.updTq key f).niche key₂ = s.niche key₂ := rfl
@[simp] theorem State.updTq_job (key₂ : Nat) : (s.updTq key f).job key₂ = s.job key₂ := rfl
@[simp] theorem State.updTq_sq (key₂ : Nat) : (s.updTq key f).sq key₂ = s.sq key₂ := rfl
@[simp] theorem State.updTq_cq (key₂ : Nat) : (s.updTq key f).cq key₂ = s.cq key₂ := rfl
@[simp] theorem State.updTq_hif (f₂ : Bool) : (s.updTq key f).hif f₂ = s.hif f₂ := rfl
@[simp] theorem State.updTq_arm (off₂ tgt₂ : Nat) : (s.updTq key f).arm off₂ tgt₂ = s.arm off₂ tgt₂ := rfl
@[simp] theorem State.updTq_tq_self : (s.updTq key f).tq key = f (s.tq key) := Tbl.get_set_self _ _ _ _
theorem State.updTq_tq_other {key₂ : Nat} (h : key₂ ≠ key) : (s.updTq key f).tq key₂ = s.tq key₂ := Tbl.get_set_other _ _ h _
@[simp] theorem State.updTq_port (key₂ : Nat) : (s.updTq key f).port key₂ = s.port key₂ := rfl
@[simp] theorem State.updTq_rft (key₂ : Nat) : (s.updTq key f).rft key₂ = s.rft key₂ := rfl

end

/-! ## `updPwr` -/

section
variable (s : State) (f : Pwr → Pwr)

@[simp] theorem State.updPwr_now : (s.updPwr f).now = s.now := rfl
@[simp] theorem State.updPwr_ftOff : (s.updPwr f).ftOff = s.ftOff := rfl
@[simp] theorem State.updPwr_active : (s.updPwr f).active = s.active := rfl
@[simp] theorem State.updPwr_a0 : (s.updPwr f).a0 = s.a0 := rfl
@[simp] theorem State.updPwr_dshare : (s.updPwr f).dshare = s.dshare := rfl
@[simp] theorem State.updPwr_fresh : (s.updPwr f).fresh = s.fresh := rfl
@[simp] theorem State.updPwr_cores : (s.updPwr f).cores = s.cores := rfl
@[simp] theorem State.updPwr_clus : (s.updPwr f).clus = s.clus := rfl
@[simp] theorem State.updPwr_peds : (s.updPwr f).peds = s.peds := rfl
@[simp] theorem State.updPwr_mpa : (s.updPwr f).mpa = s.mpa := rfl
@[simp] theorem State.updPwr_poison : (s.updPwr f).poison = s.poison := rfl
@[simp] theorem State.updPwr_niches : (s.updPwr f).niches = s.niches := rfl
@[simp] theorem State.updPwr_casts : (s.updPwr f).casts = s.casts := rfl
@[simp] theorem State.updPwr_jobs : (s.updPwr f).jobs = s.jobs := rfl
@[simp] theorem State.updPwr_nextJob : (s.updPwr f).nextJob = s.nextJob := rfl
@[simp] theorem State.updPwr_sigs : (s.updPwr f).sigs = s.sigs := rfl
@[simp] theorem State.updPwr_order : (s.updPwr f).order = s.order := rfl
@[simp] theorem State.updPwr_hif0 : (s.updPwr f).hif0 = s.hif0 := rfl
@[simp] theorem State.updPwr_hif1 : (s.updPwr f).hif1 = s.hif1 := rfl
@[simp] theorem State.updPwr_sqs : (s.updPwr f).sqs = s.sqs := rfl
@[simp] theorem State.updPwr_cqs : (s.updPwr f).cqs = s.cqs := rfl
@[simp] theorem State.updPwr_ras : (s.updPwr f).ras = s.ras := rfl
@[simp] theorem State.updPwr_arms : (s.updPwr f).arms = s.arms := rfl
@[simp] theorem State.updPwr_slots : (s.updPwr f).slots = s.slots := rfl
@[simp] theorem State.updPwr_slotShadow : (s.updPwr f).slotShadow = s.slotShadow := rfl
@[simp] theorem State.updPwr_lath : (s.updPwr f).lath = s.lath := rfl
@[simp] theorem State.updPwr_mgt : (s.updPwr f).mgt = s.mgt := rfl
@[simp] theorem State.updPwr_evc : (s.updPwr f).evc = s.evc := rfl
@[simp] theorem State.updPwr_evFreeze : (s.updPwr f).evFreeze = s.evFreeze := rfl
@[simp] theorem State.updPwr_free : (s.updPwr f).free = s.free := rfl
@[simp] theorem State.updPwr_sent : (s.updPwr f).sent = s.sent := rfl
@[simp] theorem State.updPwr_pending : (s.updPwr f).pending = s.pending := rfl
@[simp] theorem State.updPwr_core (key₂ : Nat) : (s.updPwr f).core key₂ = s.core key₂ := rfl
@[simp] theorem State.updPwr_clu (key₂ : Nat) : (s.updPwr f).clu key₂ = s.clu key₂ := rfl
@[simp] theorem State.updPwr_ped (key₂ : Nat) : (s.updPwr f).ped key₂ = s.ped key₂ := rfl
@[simp] theorem State.updPwr_niche (key₂ : Nat) : (s.updPwr f).niche key₂ = s.niche key₂ := rfl
@[simp] theorem State.updPwr_job (key₂ : Nat) : (s.updPwr f).job key₂ = s.job key₂ := rfl
@[simp] theorem State.updPwr_sq (key₂ : Nat) : (s.updPwr f).sq key₂ = s.sq key₂ := rfl
@[simp] theorem State.updPwr_cq (key₂ : Nat) : (s.updPwr f).cq key₂ = s.cq key₂ := rfl
@[simp] theorem State.updPwr_hif (f₂ : Bool) : (s.updPwr f).hif f₂ = s.hif f₂ := rfl
@[simp] theorem State.updPwr_arm (off₂ tgt₂ : Nat) : (s.updPwr f).arm off₂ tgt₂ = s.arm off₂ tgt₂ := rfl
@[simp] theorem State.updPwr_port (key₂ : Nat) : (s.updPwr f).port key₂ = s.port key₂ := rfl
@[simp] theorem State.updPwr_rft (key₂ : Nat) : (s.updPwr f).rft key₂ = s.rft key₂ := rfl
@[simp] theorem State.updPwr_tq (key₂ : Nat) : (s.updPwr f).tq key₂ = s.tq key₂ := rfl
@[simp] theorem State.updPwr_pwr : (s.updPwr f).pwr = f s.pwr := rfl

end

end Sys2Proof.Machine
end

