-- ==== Sys2Proof/Laws/Frames.lean ====
section
/-! SUPPORT. What the shared operations may change, said once for each: an operation leaves the state as it was once the fields it may
change are forgotten. -/
namespace Sys2Proof.Machine
open Sys2Proof

/-! ## States with some fields forgotten -/

/-- Without what counting events changes. -/
def State.sansEv (s : State) : State := { s with evc := [] }
/-- Without what the passing of time changes beside the cycle count. -/
def State.sansTick (s : State) : State := { s with evc := [], fresh := [] }
/-- Without what a message to a function, or an event in its ring, changes. -/
def State.sansHost (s : State) : State := { s with hif0 := Hif.reset, hif1 := Hif.reset, sent := [], fresh := [] }
/-- Without what reporting an error changes. -/
def State.sansReport (s : State) : State :=
  { s with evc := [], hif0 := Hif.reset, hif1 := Hif.reset, sent := [], ras := Ras.reset, free := 0, mgt := Mgt.reset, fresh := [] }
/-- Without what stopping a job for an error changes. -/
def State.sansStop (s : State) : State :=
  { s with evc := [], hif0 := Hif.reset, hif1 := Hif.reset, sent := [], ras := Ras.reset, free := 0, mgt := Mgt.reset, fresh := [],
           cores := [], jobs := [] }
/-- Without what a TLP that reaches a function changes. -/
def State.sansTlp (s : State) : State :=
  { s with evc := [], hif0 := Hif.reset, hif1 := Hif.reset, sent := [], ras := Ras.reset, free := 0, mgt := Mgt.reset, fresh := [],
           arms := [] }
/-- Without what the compares at a sync counter change. -/
def State.sansWaits (s : State) : State :=
  { s with evc := [], hif0 := Hif.reset, hif1 := Hif.reset, sent := [], ras := Ras.reset, free := 0, mgt := Mgt.reset, fresh := [],
           cores := [], jobs := [], peds := [], arms := [] }
/-- Without what a signal on its way to a sync counter changes. -/
def State.sansSigs (s : State) : State := { s with sigs := [], order := 0 }
/-- Without what completing an entry changes. -/
def State.sansEntry (s : State) : State := { s with sigs := [], order := 0, cores := [], jobs := [], sqs := [] }
/-- Without what ending the entries of a queue changes. -/
def State.sansQueue (s : State) : State :=
  { s with evc := [], hif0 := Hif.reset, hif1 := Hif.reset, sent := [], ras := Ras.reset, free := 0, mgt := Mgt.reset, fresh := [],
           sigs := [], order := 0, cores := [], jobs := [], sqs := [] }
/-- Without what a write to the MPA space changes. -/
def State.sansStore (s : State) : State := { s with evc := [], mpa := [], poison := [], cores := [], clus := [] }

theorem State.sansReport_of_ev {a b : State} (h : a.sansEv = b.sansEv) : a.sansReport = b.sansReport :=
  (congrArg State.sansReport h : _)
theorem State.sansReport_of_host {a b : State} (h : a.sansHost = b.sansHost) : a.sansReport = b.sansReport :=
  (congrArg State.sansReport h : _)
theorem State.sansStop_of_report {a b : State} (h : a.sansReport = b.sansReport) : a.sansStop = b.sansStop :=
  (congrArg State.sansStop h : _)
theorem State.sansWaits_of_report {a b : State} (h : a.sansReport = b.sansReport) : a.sansWaits = b.sansWaits :=
  (congrArg State.sansWaits h : _)
theorem State.sansWaits_of_stop {a b : State} (h : a.sansStop = b.sansStop) : a.sansWaits = b.sansWaits :=
  (congrArg State.sansWaits h : _)
theorem State.sansEntry_of_sigs {a b : State} (h : a.sansSigs = b.sansSigs) : a.sansEntry = b.sansEntry :=
  (congrArg State.sansEntry h : _)
theorem State.sansQueue_of_entry {a b : State} (h : a.sansEntry = b.sansEntry) : a.sansQueue = b.sansQueue :=
  (congrArg State.sansQueue h : _)
theorem State.sansQueue_of_report {a b : State} (h : a.sansReport = b.sansReport) : a.sansQueue = b.sansQueue :=
  (congrArg State.sansQueue h : _)
theorem State.sansStore_of_ev {a b : State} (h : a.sansEv = b.sansEv) : a.sansStore = b.sansStore :=
  (congrArg State.sansStore h : _)

/-- A fold keeps what each of its steps keeps. -/
theorem foldl_keeps {σ β τ : Type} (g : σ → τ) (f : σ → β → σ) (h : ∀ s x, g (f s x) = g s) (l : List β) (s : σ) :
    g (l.foldl f s) = g s := by
  induction l generalizing s with
  | nil => rfl
  | cons x l ih => rw [List.foldl_cons, ih, h]

/-! ## Event counters and time -/

theorem State.ev_keeps (base k src n : Nat) (s : State) : (s.ev base k src n).sansEv = s.sansEv := by
  unfold State.ev; split <;> rfl

theorem State.countCycles_keeps (a t : Nat) (s : State) : (s.countCycles a t).sansEv = s.sansEv := by
  have evC (k a b : Nat) (s : State) : (s.evC k a b).sansEv = s.sansEv := State.ev_keeps ..
  have evK (k a b : Nat) (s : State) : (s.evK k a b).sansEv = s.sansEv := State.ev_keeps ..
  unfold State.countCycles
  dsimp only
  rw [foldl_keeps State.sansEv]
  · rw [foldl_keeps State.sansEv]
    · rw [foldl_keeps State.sansEv]
      intro s x; exact evC ..
    · intro s x; simp only [evC]; split <;> split <;> simp only [evC]
  · intro s x; rw [evK]; split
    · exact evK ..
    · rfl

/-- Time passes: the cycle count moves, events are counted, and the collisions of the old cycle are over. -/
theorem State.tick_keeps (t : Nat) (s : State) : (s.tick t).sansTick = { s.sansTick with now := t } := by
  have ev {a b : State} (h : a.sansEv = b.sansEv) : a.sansTick = b.sansTick := (congrArg State.sansTick h : _)
  have count (c : Prop) [Decidable c] (a b : Nat) (s : State) : (if c then s else s.countCycles a b).sansTick = s.sansTick := by
    split
    · rfl
    · exact ev (State.countCycles_keeps ..)
  unfold State.tick
  dsimp only
  refine congrArg (fun s : State => { s with now := t }) (?_ : State.sansTick _ = s.sansTick)
  split
  · exact count ..
  · rw [count]; exact count ..

/-! ## Messages, events and error records -/

theorem State.msix_keeps (f : Bool) (v : Nat) (s : State) : (s.msix f v).sansHost = s.sansHost := by
  unfold State.msix; dsimp only; split
  · rfl
  · cases f <;> rfl

theorem State.writeEvent_keeps (f : Bool) (t i j : Nat) (s : State) : (s.writeEvent f t i j).sansHost = s.sansHost := by
  unfold State.writeEvent; dsimp only; split
  · rw [State.msix_keeps]; cases f <;> rfl
  · cases f <;> rfl

theorem State.postEvent_keeps (f : Bool) (t i j : Nat) (s : State) : (s.postEvent f t i j).sansHost = s.sansHost := by
  unfold State.postEvent; dsimp only; split
  · exact State.writeEvent_keeps ..
  · split
    · rfl
    · cases f <;> rfl

theorem State.postTaken_keeps (f : Bool) (m : BitVec 32) (s : State) : (s.postTaken f m).sansHost = s.sansHost := by
  unfold State.postTaken; dsimp only; split
  · rw [State.writeEvent_keeps]; cases f <;> rfl
  · cases f <;> rfl

theorem State.flushMsix_keeps (f : Bool) (s : State) : (s.flushMsix f).sansHost = s.sansHost := by
  unfold State.flushMsix
  refine foldl_keeps State.sansHost _ (fun s x => ?_) _ _
  split
  · cases f <;> rfl
  · rfl

theorem State.sendEvents_keeps (s : State) : s.sendEvents.sansReport = s.sansReport := by
  unfold State.sendEvents; dsimp only; split
  · rfl
  · have e (l : List (Nat × Nat × List Nat)) (s : State) :
        (l.foldl (fun s e => s.send (.pldmEvent e.1 e.2.1 e.2.2)) s).sansReport = s.sansReport :=
      foldl_keeps State.sansReport (fun s (e : Nat × Nat × List Nat) => s.send (.pldmEvent e.1 e.2.1 e.2.2)) (fun _ _ => rfl) _ _
    exact e ..

theorem State.pldmEvent_keeps (c n : Nat) (d : List Nat) (s : State) : (s.pldmEvent c n d).sansReport = s.sansReport := by
  unfold State.pldmEvent; dsimp only; rw [State.sendEvents_keeps]; split <;> rfl

theorem State.record_keeps (r : Rec) (n : Nat) (s : State) : (s.record r n).sansReport = s.sansReport := by
  have ev (l : List Bool) (i : Nat) (s : State) : (l.foldl (fun s f => s.postEvent f 0x05 i 0) s).sansReport = s.sansReport :=
    foldl_keeps State.sansReport _ (fun s f => State.sansReport_of_host (State.postEvent_keeps ..)) _ _
  have uart (c : Prop) [Decidable c] (i : Nat) (s : State) : (if c then s.send (.uart 1 i) else s).sansReport = s.sansReport := by
    split <;> rfl
  unfold State.record
  dsimp only
  split
  · rw [uart, ev]; split <;> rfl
  · rw [State.pldmEvent_keeps, uart, ev]; split <;> rfl

theorem State.errUE_keeps (r : Rec) (s : State) : (s.errUE r).sansReport = s.sansReport := by
  unfold State.errUE; rw [State.record_keeps]; rfl

theorem State.errCE_keeps (r : Rec) (s : State) : (s.errCE r).sansReport = s.sansReport := by
  have e (p : Nat) : (s.evP p 0x0B 1).sansReport = s.sansReport := State.sansReport_of_ev (State.ev_keeps ..)
  unfold State.errCE
  dsimp only
  split <;> split <;> split <;> first | (rw [State.record_keeps]; exact e _) | (rw [State.record_keeps]; rfl) | exact e _ | rfl

/-- A TLP that reaches a function may report a corrected error. -/
theorem State.tlp_keeps (f : Bool) (s : State) : (s.tlp f).sansTlp = s.sansTlp := by
  have e (r : Rec) (t : State) (h : t.sansTlp = s.sansTlp) : (t.errCE r).sansTlp = s.sansTlp :=
    (congrArg State.sansTlp (State.errCE_keeps r t) : _).trans h
  unfold State.tlp; dsimp only
  split <;> split <;> first | exact e _ _ (by cases f <;> rfl) | rfl

/-- With nothing armed a TLP changes nothing. -/
theorem State.tlp_unarmed (f : Bool) (s : State) (h : s.arms = []) : s.tlp f = s := by
  cases f <;> simp [State.tlp, State.arm, h]

/-- The ring of error records after one more. -/
theorem State.record_logtail (r : Rec) (n : Nat) (s : State) : (s.record r n).ras.logtail = s.ras.logtail + 1 := by
  have host {a b : State} (h : a.sansHost = b.sansHost) : a.ras.logtail = b.ras.logtail :=
    (congrArg (fun s : State => s.ras.logtail) h : _)
  have ev (l : List Bool) (i : Nat) (s : State) : (l.foldl (fun s f => s.postEvent f 0x05 i 0) s).ras.logtail = s.ras.logtail :=
    foldl_keeps (fun s : State => s.ras.logtail) _ (fun s f => host (State.postEvent_keeps ..)) _ _
  have uart (c : Prop) [Decidable c] (i : Nat) (s : State) : (if c then s.send (.uart 1 i) else s).ras.logtail = s.ras.logtail := by
    split <;> rfl
  have send (l : List (Nat × Nat × List Nat)) (s : State) :
      (l.foldl (fun s e => s.send (.pldmEvent e.1 e.2.1 e.2.2)) s).ras.logtail = s.ras.logtail :=
    foldl_keeps (fun s : State => s.ras.logtail) (fun s (e : Nat × Nat × List Nat) => s.send (.pldmEvent e.1 e.2.1 e.2.2)) (fun _ _ => rfl) _ _
  have snd (s : State) : s.sendEvents.ras.logtail = s.ras.logtail := by
    unfold State.sendEvents; dsimp only; split
    · rfl
    · exact send _ _
  have pldm (c n : Nat) (d : List Nat) (s : State) : (s.pldmEvent c n d).ras.logtail = s.ras.logtail := by
    unfold State.pldmEvent; dsimp only; rw [snd]; split <;> rfl
  unfold State.record
  dsimp only
  split
  · rw [uart, ev]; split <;> rfl
  · rw [pldm, uart, ev]; split <;> rfl

/-! ## Jobs, counters and queues -/

theorem State.stopJob_keeps (j code : Nat) (c : Option Nat) (s : State) : (s.stopJob j code c).sansStop = s.sansStop := by
  unfold State.stopJob; split
  · rfl
  · split
    · rfl
    · dsimp only; rw [foldl_keeps State.sansStop]
      · rfl
      · intro _ _; rfl

theorem State.coreUncorr_keeps (det key : Nat) (s : State) : (s.coreUncorr det key).sansStop = s.sansStop := by
  unfold State.coreUncorr; dsimp only; split
  · rw [State.stopJob_keeps]; exact State.sansStop_of_report (State.errUE_keeps ..)
  · exact State.sansStop_of_report (State.errUE_keeps ..)

theorem State.coreCorr_keeps (det key : Nat) (s : State) : (s.coreCorr det key).sansReport = s.sansReport := State.errCE_keeps ..

theorem State.serveWait_keeps (cyc id key : Nat) (s : State) : (s.serveWait cyc id key).sansWaits = s.sansWaits := by
  unfold State.serveWait; split
  · rfl
  · dsimp only; split
    · split <;> rfl
    · rfl

theorem State.ctrUncorr_keeps (id : Nat) (s : State) : (s.ctrUncorr id).sansWaits = s.sansWaits := by
  unfold State.ctrUncorr
  dsimp only
  rw [foldl_keeps State.sansWaits]
  · have h (r : Rec) (g : Ped → Ped) : (((s.sycFlag (id / 1024) 4).errUE r).updPed (id / 1024) g).sansWaits = s.sansWaits := by
      have e := State.sansWaits_of_report (State.errUE_keeps r (s.sycFlag (id / 1024) 4))
      exact e
    exact h _ _
  · intro s k; split
    · exact State.sansWaits_of_stop (State.stopJob_keeps ..)
    · rfl

theorem State.serveWaits_keeps (cyc id : Nat) (s : State) : (s.serveWaits cyc id).sansWaits = s.sansWaits := by
  unfold State.serveWaits; dsimp only; split
  · rfl
  · split
    · rw [State.ctrUncorr_keeps]; rfl
    · rw [foldl_keeps State.sansWaits _ (fun _ _ => State.serveWait_keeps ..)]
      split
      · rw [State.sansWaits_of_report (State.errCE_keeps ..)]; rfl
      · rfl

theorem State.applySum_keeps (id inc : Nat) (s : State) : (s.applySum id inc).sansWaits = s.sansWaits := by
  unfold State.applySum; dsimp only; split
  · rfl
  · split
    · rfl
    · rw [State.sansWaits_of_report (State.record_keeps ..)]; rfl

/-- A signal waits for its cycle's events; nothing else changes. -/
theorem State.signalNow_keeps (id inc : Nat) (s : State) : (s.signalNow id inc).sansSigs = s.sansSigs := rfl

theorem State.qSet_keeps (q : QRef) (es : List Entry) (h : Option Nat) (s : State) : (s.qSet q es h).sansEntry = s.sansEntry := by
  cases q <;> rfl

theorem State.qUpd_keeps (q : QRef) (n : Nat) (f : Entry → Entry) (s : State) : (s.qUpd q n f).sansEntry = s.sansEntry := State.qSet_keeps ..

theorem State.entrySignal_keeps (q : QRef) (e : Entry) (s : State) : (s.entrySignal q e).sansSigs = s.sansSigs := by
  unfold State.entrySignal; split
  · exact State.signalNow_keeps ..
  · rfl

theorem State.updJob_keeps (s : State) (j : Nat) (f : Job → Job) : (s.updJob j f).sansEntry = s.sansEntry := by
  unfold State.updJob; split <;> rfl

theorem State.noteJobFail_keeps (q : QRef) (c : Nat) (s : State) : (s.noteJobFail q c).sansEntry = s.sansEntry := by
  unfold State.noteJobFail; split
  · split
    · exact State.updJob_keeps ..
    · rfl
  · rfl

/-- Completing an entry changes its queue, its job, and the signals on their way; nothing else. -/
theorem State.completeEntry_keeps (q : QRef) (n c : Nat) (p o : Bool) (s : State) : (s.completeEntry q n c p o).sansEntry = s.sansEntry := by
  unfold State.completeEntry; split
  · rfl
  · split
    · rfl
    · dsimp only
      rw [State.sansEntry_of_sigs (State.entrySignal_keeps ..)]
      have note (c' : Prop) [Decidable c'] (t : State) : (if c' then t.noteJobFail q c else t).sansEntry = t.sansEntry := by
        split
        · exact State.noteJobFail_keeps ..
        · rfl
      have hold (c' : Prop) [Decidable c'] (es : List Entry) (h : Option Nat) (t : State) :
          (if c' then t.qSet q es h else t).sansEntry = t.sansEntry := by
        split
        · exact State.qSet_keeps ..
        · rfl
      rw [hold, note, State.qUpd_keeps]

theorem State.aheadReport_keeps (e : Entry) (s : State) : (s.aheadReport e).sansReport = s.sansReport := by
  unfold State.aheadReport
  refine foldl_keeps State.sansReport _ (fun s b => ?_) _ _
  dsimp only; split
  · exact State.errUE_keeps ..
  · exact State.record_keeps ..

theorem State.qAbort_keeps (q : QRef) (c : Nat) (p : Entry → Bool) (s : State) : (s.qAbort q c p).sansQueue = s.sansQueue := by
  unfold State.qAbort
  dsimp only
  rw [foldl_keeps State.sansQueue, State.sansQueue_of_entry (State.qSet_keeps ..)]
  intro s e
  rw [State.sansQueue_of_entry (State.sansEntry_of_sigs (State.entrySignal_keeps ..))]
  split
  · rfl
  · exact State.sansQueue_of_report (State.aheadReport_keeps ..)

theorem State.qResume_keeps (q : QRef) (s : State) : (s.qResume q).sansEntry = s.sansEntry := State.qSet_keeps ..

theorem State.qCancel_keeps (q : QRef) (s : State) : (s.qCancel q).sansQueue = s.sansQueue := by
  unfold State.qCancel; dsimp only
  rw [State.sansQueue_of_entry (State.qSet_keeps ..), State.qAbort_keeps]

/-! ## Writes to the MPA space -/

theorem State.cluWrite_keeps (c o : Nat) (bs : List Byte) (s : State) : (s.cluWrite c o bs).sansStore = s.sansStore := by
  have e := State.sansStore_of_ev (State.ev_keeps (evClus c) 16 0x02 1 s)
  exact e

theorem State.mpaSetByte_keeps (bank : Nat → Bool) (a : Nat) (b : Byte) (s : State) : (State.mpaSetByte bank s a b).sansStore = s.sansStore := by
  unfold State.mpaSetByte; split <;> first | rfl | exact State.cluWrite_keeps ..

theorem State.mpaWrite_keeps (bank : Nat → Bool) (a : Nat) (bs : List Byte) (s : State) : (State.mpaWrite bank a bs s).sansStore = s.sansStore := by
  induction bs generalizing a s with
  | nil => rfl
  | cons b bs ih => unfold State.mpaWrite; rw [ih, State.mpaSetByte_keeps]

theorem State.mpaWriteRun_keeps (bank : Nat → Bool) (a : Nat) (bs : List Byte) (s : State) :
    (State.mpaWriteRun bank a bs s).sansStore = s.sansStore := by
  unfold State.mpaWriteRun; split <;> first | rfl | exact State.cluWrite_keeps .. | exact State.mpaWrite_keeps ..

/-- A clean write changes storage, poison marks and event counts only. -/
theorem State.mpaStore_keeps (a : Nat) (bs : List Byte) (s : State) : (s.mpaStore a bs).sansStore = s.sansStore := by
  unfold State.mpaStore State.clearPoison
  rw [foldl_keeps State.sansStore, State.mpaWriteRun_keeps]
  · unfold State.evHbmWrite; split
    · exact State.sansStore_of_ev (State.ev_keeps ..)
    · rfl
  · intro s g; split <;> rfl

/-! ## Wrappers of commands -/

/-- A request of a host acts or leaves the state as its TLP leaves it. -/
theorem State.host_cases (f all : Bool) (g : State → State) (s : State) :
    (∃ u, s.host f all g = .next u) ∧
    ((s.hif f).linkUp = false → s.host f all g = .next s) ∧
    (s.host f all g = .next s ∨ s.host f all g = .next (s.tlp f) ∨ s.host f all g = .next (g (s.tlp f))) := by
  unfold State.host
  dsimp only
  split
  · rename_i h; exact ⟨⟨_, rfl⟩, fun _ => rfl, .inl rfl⟩
  · rename_i h
    refine ⟨⟨_, rfl⟩, fun h' => absurd h' (by simpa using h), ?_⟩
    split
    · exact .inr (.inl rfl)
    · exact .inr (.inr rfl)

/-- A command of the mailbox answers with what it decides for the outstanding words, and nothing happens without them. -/
theorem State.command_some (f : Bool) (op : Nat) (g : List Word → State → State) (s : State) (ws : List Word)
    (h : s.taken f op = some ws) : s.command f op g = .next (g ws s) := by
  simp [State.command, h]

theorem State.command_none (f : Bool) (op : Nat) (g : List Word → State → State) (s : State) (h : s.taken f op = none) :
    s.command f op g = .next s := by
  simp [State.command, h]

/-- A packet command acts on the oldest packet when it is a local one of its type. -/
theorem State.onPacket_some (ty : Nat) (g : Nat → Packet → State → State) (s : State) (n : Nat) (p : Packet) (rest : List (Nat × Packet))
    (h : s.lath.rx = (n, p) :: rest) (ht : p.ptype = ty) (hl : s.isLocal p = true) :
    s.onPacket ty g = .next (g n p (s.updLath (fun l => { l with rx := rest }))) := by
  simp [State.onPacket, State.rxTake, h, ht, hl]

theorem State.onPacket_none (ty : Nat) (g : Nat → Packet → State → State) (s : State) (h : s.lath.rx = []) :
    s.onPacket ty g = .next s := by
  simp [State.onPacket, State.rxTake, h]

/-! ## Field by field -/

@[simp] theorem State.ev_frame (base k src n : Nat) (s : State) :
    (s.ev base k src n).now = s.now ∧ (s.ev base k src n).ftOff = s.ftOff ∧ (s.ev base k src n).active = s.active ∧
    (s.ev base k src n).a0 = s.a0 ∧ (s.ev base k src n).dshare = s.dshare ∧ (s.ev base k src n).fresh = s.fresh ∧
    (s.ev base k src n).cores = s.cores ∧ (s.ev base k src n).clus = s.clus ∧ (s.ev base k src n).peds = s.peds ∧
    (s.ev base k src n).mpa = s.mpa ∧ (s.ev base k src n).poison = s.poison ∧ (s.ev base k src n).niches = s.niches ∧
    (s.ev base k src n).casts = s.casts ∧ (s.ev base k src n).jobs = s.jobs ∧ (s.ev base k src n).nextJob = s.nextJob ∧
    (s.ev base k src n).sigs = s.sigs ∧ (s.ev base k src n).order = s.order ∧ (s.ev base k src n).hif0 = s.hif0 ∧
    (s.ev base k src n).hif1 = s.hif1 ∧ (s.ev base k src n).sqs = s.sqs ∧ (s.ev base k src n).cqs = s.cqs ∧
    (s.ev base k src n).ras = s.ras ∧ (s.ev base k src n).arms = s.arms ∧ (s.ev base k src n).slots = s.slots ∧
    (s.ev base k src n).slotShadow = s.slotShadow ∧ (s.ev base k src n).lath = s.lath ∧ (s.ev base k src n).mgt = s.mgt ∧
    (s.ev base k src n).pwr = s.pwr ∧ (s.ev base k src n).evFreeze = s.evFreeze ∧ (s.ev base k src n).free = s.free ∧
    (s.ev base k src n).sent = s.sent ∧ (s.ev base k src n).pending = s.pending :=
  have h := State.ev_keeps base k src n s
  ⟨(congrArg State.now h :), (congrArg State.ftOff h :), (congrArg State.active h :), (congrArg State.a0 h :),
    (congrArg State.dshare h :), (congrArg State.fresh h :), (congrArg State.cores h :), (congrArg State.clus h :),
    (congrArg State.peds h :), (congrArg State.mpa h :), (congrArg State.poison h :), (congrArg State.niches h :),
    (congrArg State.casts h :), (congrArg State.jobs h :), (congrArg State.nextJob h :), (congrArg State.sigs h :),
    (congrArg State.order h :), (congrArg State.hif0 h :), (congrArg State.hif1 h :), (congrArg State.sqs h :), (congrArg State.cqs h :),
    (congrArg State.ras h :), (congrArg State.arms h :), (congrArg State.slots h :), (congrArg State.slotShadow h :),
    (congrArg State.lath h :), (congrArg State.mgt h :), (congrArg State.pwr h :), (congrArg State.evFreeze h :),
    (congrArg State.free h :), (congrArg State.sent h :), (congrArg State.pending h :)⟩

@[simp] theorem State.msix_frame (f : Bool) (v : Nat) (s : State) :
    (s.msix f v).now = s.now ∧ (s.msix f v).ftOff = s.ftOff ∧ (s.msix f v).active = s.active ∧ (s.msix f v).a0 = s.a0 ∧
    (s.msix f v).dshare = s.dshare ∧ (s.msix f v).cores = s.cores ∧ (s.msix f v).clus = s.clus ∧ (s.msix f v).peds = s.peds ∧
    (s.msix f v).mpa = s.mpa ∧ (s.msix f v).poison = s.poison ∧ (s.msix f v).niches = s.niches ∧ (s.msix f v).casts = s.casts ∧
    (s.msix f v).jobs = s.jobs ∧ (s.msix f v).nextJob = s.nextJob ∧ (s.msix f v).sigs = s.sigs ∧ (s.msix f v).order = s.order ∧
    (s.msix f v).sqs = s.sqs ∧ (s.msix f v).cqs = s.cqs ∧ (s.msix f v).ras = s.ras ∧ (s.msix f v).arms = s.arms ∧
    (s.msix f v).slots = s.slots ∧ (s.msix f v).slotShadow = s.slotShadow ∧ (s.msix f v).lath = s.lath ∧ (s.msix f v).mgt = s.mgt ∧
    (s.msix f v).pwr = s.pwr ∧ (s.msix f v).evc = s.evc ∧ (s.msix f v).evFreeze = s.evFreeze ∧ (s.msix f v).free = s.free ∧
    (s.msix f v).pending = s.pending :=
  have h := State.msix_keeps f v s
  ⟨(congrArg State.now h :), (congrArg State.ftOff h :), (congrArg State.active h :), (congrArg State.a0 h :),
    (congrArg State.dshare h :), (congrArg State.cores h :), (congrArg State.clus h :), (congrArg State.peds h :),
    (congrArg State.mpa h :), (congrArg State.poison h :), (congrArg State.niches h :), (congrArg State.casts h :),
    (congrArg State.jobs h :), (congrArg State.nextJob h :), (congrArg State.sigs h :), (congrArg State.order h :),
    (congrArg State.sqs h :), (congrArg State.cqs h :), (congrArg State.ras h :), (congrArg State.arms h :), (congrArg State.slots h :),
    (congrArg State.slotShadow h :), (congrArg State.lath h :), (congrArg State.mgt h :), (congrArg State.pwr h :),
    (congrArg State.evc h :), (congrArg State.evFreeze h :), (congrArg State.free h :), (congrArg State.pending h :)⟩

@[simp] theorem State.writeEvent_frame (f : Bool) (t i j : Nat) (s : State) :
    (s.writeEvent f t i j).now = s.now ∧ (s.writeEvent f t i j).ftOff = s.ftOff ∧ (s.writeEvent f t i j).active = s.active ∧
    (s.writeEvent f t i j).a0 = s.a0 ∧ (s.writeEvent f t i j).dshare = s.dshare ∧ (s.writeEvent f t i j).cores = s.cores ∧
    (s.writeEvent f t i j).clus = s.clus ∧ (s.writeEvent f t i j).peds = s.peds ∧ (s.writeEvent f t i j).mpa = s.mpa ∧
    (s.writeEvent f t i j).poison = s.poison ∧ (s.writeEvent f t i j).niches = s.niches ∧ (s.writeEvent f t i j).casts = s.casts ∧
    (s.writeEvent f t i j).jobs = s.jobs ∧ (s.writeEvent f t i j).nextJob = s.nextJob ∧ (s.writeEvent f t i j).sigs = s.sigs ∧
    (s.writeEvent f t i j).order = s.order ∧ (s.writeEvent f t i j).sqs = s.sqs ∧ (s.writeEvent f t i j).cqs = s.cqs ∧
    (s.writeEvent f t i j).ras = s.ras ∧ (s.writeEvent f t i j).arms = s.arms ∧ (s.writeEvent f t i j).slots = s.slots ∧
    (s.writeEvent f t i j).slotShadow = s.slotShadow ∧ (s.writeEvent f t i j).lath = s.lath ∧ (s.writeEvent f t i j).mgt = s.mgt ∧
    (s.writeEvent f t i j).pwr = s.pwr ∧ (s.writeEvent f t i j).evc = s.evc ∧ (s.writeEvent f t i j).evFreeze = s.evFreeze ∧
    (s.writeEvent f t i j).free = s.free ∧ (s.writeEvent f t i j).pending = s.pending :=
  have h := State.writeEvent_keeps f t i j s
  ⟨(congrArg State.now h :), (congrArg State.ftOff h :), (congrArg State.active h :), (congrArg State.a0 h :),
    (congrArg State.dshare h :), (congrArg State.cores h :), (congrArg State.clus h :), (congrArg State.peds h :),
    (congrArg State.mpa h :), (congrArg State.poison h :), (congrArg State.niches h :), (congrArg State.casts h :),
    (congrArg State.jobs h :), (congrArg State.nextJob h :), (congrArg State.sigs h :), (congrArg State.order h :),
    (congrArg State.sqs h :), (congrArg State.cqs h :), (congrArg State.ras h :), (congrArg State.arms h :), (congrArg State.slots h :),
    (congrArg State.slotShadow h :), (congrArg State.lath h :), (congrArg State.mgt h :), (congrArg State.pwr h :),
    (congrArg State.evc h :), (congrArg State.evFreeze h :), (congrArg State.free h :), (congrArg State.pending h :)⟩

@[simp] theorem State.postEvent_frame (f : Bool) (t i j : Nat) (s : State) :
    (s.postEvent f t i j).now = s.now ∧ (s.postEvent f t i j).ftOff = s.ftOff ∧ (s.postEvent f t i j).active = s.active ∧
    (s.postEvent f t i j).a0 = s.a0 ∧ (s.postEvent f t i j).dshare = s.dshare ∧ (s.postEvent f t i j).cores = s.cores ∧
    (s.postEvent f t i j).clus = s.clus ∧ (s.postEvent f t i j).peds = s.peds ∧ (s.postEvent f t i j).mpa = s.mpa ∧
    (s.postEvent f t i j).poison = s.poison ∧ (s.postEvent f t i j).niches = s.niches ∧ (s.postEvent f t i j).casts = s.casts ∧
    (s.postEvent f t i j).jobs = s.jobs ∧ (s.postEvent f t i j).nextJob = s.nextJob ∧ (s.postEvent f t i j).sigs = s.sigs ∧
    (s.postEvent f t i j).order = s.order ∧ (s.postEvent f t i j).sqs = s.sqs ∧ (s.postEvent f t i j).cqs = s.cqs ∧
    (s.postEvent f t i j).ras = s.ras ∧ (s.postEvent f t i j).arms = s.arms ∧ (s.postEvent f t i j).slots = s.slots ∧
    (s.postEvent f t i j).slotShadow = s.slotShadow ∧ (s.postEvent f t i j).lath = s.lath ∧ (s.postEvent f t i j).mgt = s.mgt ∧
    (s.postEvent f t i j).pwr = s.pwr ∧ (s.postEvent f t i j).evc = s.evc ∧ (s.postEvent f t i j).evFreeze = s.evFreeze ∧
    (s.postEvent f t i j).free = s.free ∧ (s.postEvent f t i j).pending = s.pending :=
  have h := State.postEvent_keeps f t i j s
  ⟨(congrArg State.now h :), (congrArg State.ftOff h :), (congrArg State.active h :), (congrArg State.a0 h :),
    (congrArg State.dshare h :), (congrArg State.cores h :), (congrArg State.clus h :), (congrArg State.peds h :),
    (congrArg State.mpa h :), (congrArg State.poison h :), (congrArg State.niches h :), (congrArg State.casts h :),
    (congrArg State.jobs h :), (congrArg State.nextJob h :), (congrArg State.sigs h :), (congrArg State.order h :),
    (congrArg State.sqs h :), (congrArg State.cqs h :), (congrArg State.ras h :), (congrArg State.arms h :), (congrArg State.slots h :),
    (congrArg State.slotShadow h :), (congrArg State.lath h :), (congrArg State.mgt h :), (congrArg State.pwr h :),
    (congrArg State.evc h :), (congrArg State.evFreeze h :), (congrArg State.free h :), (congrArg State.pending h :)⟩

@[simp] theorem State.postTaken_frame (f : Bool) (m : BitVec 32) (s : State) :
    (s.postTaken f m).now = s.now ∧ (s.postTaken f m).ftOff = s.ftOff ∧ (s.postTaken f m).active = s.active ∧
    (s.postTaken f m).a0 = s.a0 ∧ (s.postTaken f m).dshare = s.dshare ∧ (s.postTaken f m).cores = s.cores ∧
    (s.postTaken f m).clus = s.clus ∧ (s.postTaken f m).peds = s.peds ∧ (s.postTaken f m).mpa = s.mpa ∧
    (s.postTaken f m).poison = s.poison ∧ (s.postTaken f m).niches = s.niches ∧ (s.postTaken f m).casts = s.casts ∧
    (s.postTaken f m).jobs = s.jobs ∧ (s.postTaken f m).nextJob = s.nextJob ∧ (s.postTaken f m).sigs = s.sigs ∧
    (s.postTaken f m).order = s.order ∧ (s.postTaken f m).sqs = s.sqs ∧ (s.postTaken f m).cqs = s.cqs ∧ (s.postTaken f m).ras = s.ras ∧
    (s.postTaken f m).arms = s.arms ∧ (s.postTaken f m).slots = s.slots ∧ (s.postTaken f m).slotShadow = s.slotShadow ∧
    (s.postTaken f m).lath = s.lath ∧ (s.postTaken f m).mgt = s.mgt ∧ (s.postTaken f m).pwr = s.pwr ∧ (s.postTaken f m).evc = s.evc ∧
    (s.postTaken f m).evFreeze = s.evFreeze ∧ (s.postTaken f m).free = s.free ∧ (s.postTaken f m).pending = s.pending :=
  have h := State.postTaken_keeps f m s
  ⟨(congrArg State.now h :), (congrArg State.ftOff h :), (congrArg State.active h :), (congrArg State.a0 h :),
    (congrArg State.dshare h :), (congrArg State.cores h :), (congrArg State.clus h :), (congrArg State.peds h :),
    (congrArg State.mpa h :), (congrArg State.poison h :), (congrArg State.niches h :), (congrArg State.casts h :),
    (congrArg State.jobs h :), (congrArg State.nextJob h :), (congrArg State.sigs h :), (congrArg State.order h :),
    (congrArg State.sqs h :), (congrArg State.cqs h :), (congrArg State.ras h :), (congrArg State.arms h :), (congrArg State.slots h :),
    (congrArg State.slotShadow h :), (congrArg State.lath h :), (congrArg State.mgt h :), (congrArg State.pwr h :),
    (congrArg State.evc h :), (congrArg State.evFreeze h :), (congrArg State.free h :), (congrArg State.pending h :)⟩

@[simp] theorem State.flushMsix_frame (f : Bool) (s : State) :
    (s.flushMsix f).now = s.now ∧ (s.flushMsix f).ftOff = s.ftOff ∧ (s.flushMsix f).active = s.active ∧ (s.flushMsix f).a0 = s.a0 ∧
    (s.flushMsix f).dshare = s.dshare ∧ (s.flushMsix f).cores = s.cores ∧ (s.flushMsix f).clus = s.clus ∧ (s.flushMsix f).peds = s.peds ∧
    (s.flushMsix f).mpa = s.mpa ∧ (s.flushMsix f).poison = s.poison ∧ (s.flushMsix f).niches = s.niches ∧
    (s.flushMsix f).casts = s.casts ∧ (s.flushMsix f).jobs = s.jobs ∧ (s.flushMsix f).nextJob = s.nextJob ∧
    (s.flushMsix f).sigs = s.sigs ∧ (s.flushMsix f).order = s.order ∧ (s.flushMsix f).sqs = s.sqs ∧ (s.flushMsix f).cqs = s.cqs ∧
    (s.flushMsix f).ras = s.ras ∧ (s.flushMsix f).arms = s.arms ∧ (s.flushMsix f).slots = s.slots ∧
    (s.flushMsix f).slotShadow = s.slotShadow ∧ (s.flushMsix f).lath = s.lath ∧ (s.flushMsix f).mgt = s.mgt ∧
    (s.flushMsix f).pwr = s.pwr ∧ (s.flushMsix f).evc = s.evc ∧ (s.flushMsix f).evFreeze = s.evFreeze ∧ (s.flushMsix f).free = s.free ∧
    (s.flushMsix f).pending = s.pending :=
  have h := State.flushMsix_keeps f s
  ⟨(congrArg State.now h :), (congrArg State.ftOff h :), (congrArg State.active h :), (congrArg State.a0 h :),
    (congrArg State.dshare h :), (congrArg State.cores h :), (congrArg State.clus h :), (congrArg State.peds h :),
    (congrArg State.mpa h :), (congrArg State.poison h :), (congrArg State.niches h :), (congrArg State.casts h :),
    (congrArg State.jobs h :), (congrArg State.nextJob h :), (congrArg State.sigs h :), (congrArg State.order h :),
    (congrArg State.sqs h :), (congrArg State.cqs h :), (congrArg State.ras h :), (congrArg State.arms h :), (congrArg State.slots h :),
    (congrArg State.slotShadow h :), (congrArg State.lath h :), (congrArg State.mgt h :), (congrArg State.pwr h :),
    (congrArg State.evc h :), (congrArg State.evFreeze h :), (congrArg State.free h :), (congrArg State.pending h :)⟩

@[simp] theorem State.pldmEvent_frame (c n : Nat) (d : List Nat) (s : State) :
    (s.pldmEvent c n d).now = s.now ∧ (s.pldmEvent c n d).ftOff = s.ftOff ∧ (s.pldmEvent c n d).active = s.active ∧
    (s.pldmEvent c n d).a0 = s.a0 ∧ (s.pldmEvent c n d).dshare = s.dshare ∧ (s.pldmEvent c n d).cores = s.cores ∧
    (s.pldmEvent c n d).clus = s.clus ∧ (s.pldmEvent c n d).peds = s.peds ∧ (s.pldmEvent c n d).mpa = s.mpa ∧
    (s.pldmEvent c n d).poison = s.poison ∧ (s.pldmEvent c n d).niches = s.niches ∧ (s.pldmEvent c n d).casts = s.casts ∧
    (s.pldmEvent c n d).jobs = s.jobs ∧ (s.pldmEvent c n d).nextJob = s.nextJob ∧ (s.pldmEvent c n d).sigs = s.sigs ∧
    (s.pldmEvent c n d).order = s.order ∧ (s.pldmEvent c n d).sqs = s.sqs ∧ (s.pldmEvent c n d).cqs = s.cqs ∧
    (s.pldmEvent c n d).arms = s.arms ∧ (s.pldmEvent c n d).slots = s.slots ∧ (s.pldmEvent c n d).slotShadow = s.slotShadow ∧
    (s.pldmEvent c n d).lath = s.lath ∧ (s.pldmEvent c n d).pwr = s.pwr ∧ (s.pldmEvent c n d).evFreeze = s.evFreeze ∧
    (s.pldmEvent c n d).pending = s.pending :=
  have h := State.pldmEvent_keeps c n d s
  ⟨(congrArg State.now h :), (congrArg State.ftOff h :), (congrArg State.active h :), (congrArg State.a0 h :),
    (congrArg State.dshare h :), (congrArg State.cores h :), (congrArg State.clus h :), (congrArg State.peds h :),
    (congrArg State.mpa h :), (congrArg State.poison h :), (congrArg State.niches h :), (congrArg State.casts h :),
    (congrArg State.jobs h :), (congrArg State.nextJob h :), (congrArg State.sigs h :), (congrArg State.order h :),
    (congrArg State.sqs h :), (congrArg State.cqs h :), (congrArg State.arms h :), (congrArg State.slots h :),
    (congrArg State.slotShadow h :), (congrArg State.lath h :), (congrArg State.pwr h :), (congrArg State.evFreeze h :),
    (congrArg State.pending h :)⟩

@[simp] theorem State.record_frame (r : Rec) (n : Nat) (s : State) :
    (s.record r n).now = s.now ∧ (s.record r n).ftOff = s.ftOff ∧ (s.record r n).active = s.active ∧ (s.record r n).a0 = s.a0 ∧
    (s.record r n).dshare = s.dshare ∧ (s.record r n).cores = s.cores ∧ (s.record r n).clus = s.clus ∧ (s.record r n).peds = s.peds ∧
    (s.record r n).mpa = s.mpa ∧ (s.record r n).poison = s.poison ∧ (s.record r n).niches = s.niches ∧ (s.record r n).casts = s.casts ∧
    (s.record r n).jobs = s.jobs ∧ (s.record r n).nextJob = s.nextJob ∧ (s.record r n).sigs = s.sigs ∧ (s.record r n).order = s.order ∧
    (s.record r n).sqs = s.sqs ∧ (s.record r n).cqs = s.cqs ∧ (s.record r n).arms = s.arms ∧ (s.record r n).slots = s.slots ∧
    (s.record r n).slotShadow = s.slotShadow ∧ (s.record r n).lath = s.lath ∧ (s.record r n).pwr = s.pwr ∧
    (s.record r n).evFreeze = s.evFreeze ∧ (s.record r n).pending = s.pending :=
  have h := State.record_keeps r n s
  ⟨(congrArg State.now h :), (congrArg State.ftOff h :), (congrArg State.active h :), (congrArg State.a0 h :),
    (congrArg State.dshare h :), (congrArg State.cores h :), (congrArg State.clus h :), (congrArg State.peds h :),
    (congrArg State.mpa h :), (congrArg State.poison h :), (congrArg State.niches h :), (congrArg State.casts h :),
    (congrArg State.jobs h :), (congrArg State.nextJob h :), (congrArg State.sigs h :), (congrArg State.order h :),
    (congrArg State.sqs h :), (congrArg State.cqs h :), (congrArg State.arms h :), (congrArg State.slots h :),
    (congrArg State.slotShadow h :), (congrArg State.lath h :), (congrArg State.pwr h :), (congrArg State.evFreeze h :),
    (congrArg State.pending h :)⟩

@[simp] theorem State.errUE_frame (r : Rec) (s : State) :
    (s.errUE r).now = s.now ∧ (s.errUE r).ftOff = s.ftOff ∧ (s.errUE r).active = s.active ∧ (s.errUE r).a0 = s.a0 ∧
    (s.errUE r).dshare = s.dshare ∧ (s.errUE r).cores = s.cores ∧ (s.errUE r).clus = s.clus ∧ (s.errUE r).peds = s.peds ∧
    (s.errUE r).mpa = s.mpa ∧ (s.errUE r).poison = s.poison ∧ (s.errUE r).niches = s.niches ∧ (s.errUE r).casts = s.casts ∧
    (s.errUE r).jobs = s.jobs ∧ (s.errUE r).nextJob = s.nextJob ∧ (s.errUE r).sigs = s.sigs ∧ (s.errUE r).order = s.order ∧
    (s.errUE r).sqs = s.sqs ∧ (s.errUE r).cqs = s.cqs ∧ (s.errUE r).arms = s.arms ∧ (s.errUE r).slots = s.slots ∧
    (s.errUE r).slotShadow = s.slotShadow ∧ (s.errUE r).lath = s.lath ∧ (s.errUE r).pwr = s.pwr ∧ (s.errUE r).evFreeze = s.evFreeze ∧
    (s.errUE r).pending = s.pending :=
  have h := State.errUE_keeps r s
  ⟨(congrArg State.now h :), (congrArg State.ftOff h :), (congrArg State.active h :), (congrArg State.a0 h :),
    (congrArg State.dshare h :), (congrArg State.cores h :), (congrArg State.clus h :), (congrArg State.peds h :),
    (congrArg State.mpa h :), (congrArg State.poison h :), (congrArg State.niches h :), (congrArg State.casts h :),
    (congrArg State.jobs h :), (congrArg State.nextJob h :), (congrArg State.sigs h :), (congrArg State.order h :),
    (congrArg State.sqs h :), (congrArg State.cqs h :), (congrArg State.arms h :), (congrArg State.slots h :),
    (congrArg State.slotShadow h :), (congrArg State.lath h :), (congrArg State.pwr h :), (congrArg State.evFreeze h :),
    (congrArg State.pending h :)⟩

@[simp] theorem State.errCE_frame (r : Rec) (s : State) :
    (s.errCE r).now = s.now ∧ (s.errCE r).ftOff = s.ftOff ∧ (s.errCE r).active = s.active ∧ (s.errCE r).a0 = s.a0 ∧
    (s.errCE r).dshare = s.dshare ∧ (s.errCE r).cores = s.cores ∧ (s.errCE r).clus = s.clus ∧ (s.errCE r).peds = s.peds ∧
    (s.errCE r).mpa = s.mpa ∧ (s.errCE r).poison = s.poison ∧ (s.errCE r).niches = s.niches ∧ (s.errCE r).casts = s.casts ∧
    (s.errCE r).jobs = s.jobs ∧ (s.errCE r).nextJob = s.nextJob ∧ (s.errCE r).sigs = s.sigs ∧ (s.errCE r).order = s.order ∧
    (s.errCE r).sqs = s.sqs ∧ (s.errCE r).cqs = s.cqs ∧ (s.errCE r).arms = s.arms ∧ (s.errCE r).slots = s.slots ∧
    (s.errCE r).slotShadow = s.slotShadow ∧ (s.errCE r).lath = s.lath ∧ (s.errCE r).pwr = s.pwr ∧ (s.errCE r).evFreeze = s.evFreeze ∧
    (s.errCE r).pending = s.pending :=
  have h := State.errCE_keeps r s
  ⟨(congrArg State.now h :), (congrArg State.ftOff h :), (congrArg State.active h :), (congrArg State.a0 h :),
    (congrArg State.dshare h :), (congrArg State.cores h :), (congrArg State.clus h :), (congrArg State.peds h :),
    (congrArg State.mpa h :), (congrArg State.poison h :), (congrArg State.niches h :), (congrArg State.casts h :),
    (congrArg State.jobs h :), (congrArg State.nextJob h :), (congrArg State.sigs h :), (congrArg State.order h :),
    (congrArg State.sqs h :), (congrArg State.cqs h :), (congrArg State.arms h :), (congrArg State.slots h :),
    (congrArg State.slotShadow h :), (congrArg State.lath h :), (congrArg State.pwr h :), (congrArg State.evFreeze h :),
    (congrArg State.pending h :)⟩

@[simp] theorem State.tlp_frame (f : Bool) (s : State) :
    (s.tlp f).now = s.now ∧ (s.tlp f).ftOff = s.ftOff ∧ (s.tlp f).active = s.active ∧ (s.tlp f).a0 = s.a0 ∧ (s.tlp f).dshare = s.dshare ∧
    (s.tlp f).cores = s.cores ∧ (s.tlp f).clus = s.clus ∧ (s.tlp f).peds = s.peds ∧ (s.tlp f).mpa = s.mpa ∧ (s.tlp f).poison = s.poison ∧
    (s.tlp f).niches = s.niches ∧ (s.tlp f).casts = s.casts ∧ (s.tlp f).jobs = s.jobs ∧ (s.tlp f).nextJob = s.nextJob ∧
    (s.tlp f).sigs = s.sigs ∧ (s.tlp f).order = s.order ∧ (s.tlp f).sqs = s.sqs ∧ (s.tlp f).cqs = s.cqs ∧ (s.tlp f).slots = s.slots ∧
    (s.tlp f).slotShadow = s.slotShadow ∧ (s.tlp f).lath = s.lath ∧ (s.tlp f).pwr = s.pwr ∧ (s.tlp f).evFreeze = s.evFreeze ∧
    (s.tlp f).pending = s.pending :=
  have h := State.tlp_keeps f s
  ⟨(congrArg State.now h :), (congrArg State.ftOff h :), (congrArg State.active h :), (congrArg State.a0 h :),
    (congrArg State.dshare h :), (congrArg State.cores h :), (congrArg State.clus h :), (congrArg State.peds h :),
    (congrArg State.mpa h :), (congrArg State.poison h :), (congrArg State.niches h :), (congrArg State.casts h :),
    (congrArg State.jobs h :), (congrArg State.nextJob h :), (congrArg State.sigs h :), (congrArg State.order h :),
    (congrArg State.sqs h :), (congrArg State.cqs h :), (congrArg State.slots h :), (congrArg State.slotShadow h :),
    (congrArg State.lath h :), (congrArg State.pwr h :), (congrArg State.evFreeze h :), (congrArg State.pending h :)⟩

@[simp] theorem State.stopJob_frame (j code : Nat) (c : Option Nat) (s : State) :
    (s.stopJob j code c).now = s.now ∧ (s.stopJob j code c).ftOff = s.ftOff ∧ (s.stopJob j code c).active = s.active ∧
    (s.stopJob j code c).a0 = s.a0 ∧ (s.stopJob j code c).dshare = s.dshare ∧ (s.stopJob j code c).clus = s.clus ∧
    (s.stopJob j code c).peds = s.peds ∧ (s.stopJob j code c).mpa = s.mpa ∧ (s.stopJob j code c).poison = s.poison ∧
    (s.stopJob j code c).niches = s.niches ∧ (s.stopJob j code c).casts = s.casts ∧ (s.stopJob j code c).nextJob = s.nextJob ∧
    (s.stopJob j code c).sigs = s.sigs ∧ (s.stopJob j code c).order = s.order ∧ (s.stopJob j code c).sqs = s.sqs ∧
    (s.stopJob j code c).cqs = s.cqs ∧ (s.stopJob j code c).arms = s.arms ∧ (s.stopJob j code c).slots = s.slots ∧
    (s.stopJob j code c).slotShadow = s.slotShadow ∧ (s.stopJob j code c).lath = s.lath ∧ (s.stopJob j code c).pwr = s.pwr ∧
    (s.stopJob j code c).evFreeze = s.evFreeze ∧ (s.stopJob j code c).pending = s.pending :=
  have h := State.stopJob_keeps j code c s
  ⟨(congrArg State.now h :), (congrArg State.ftOff h :), (congrArg State.active h :), (congrArg State.a0 h :),
    (congrArg State.dshare h :), (congrArg State.clus h :), (congrArg State.peds h :), (congrArg State.mpa h :),
    (congrArg State.poison h :), (congrArg State.niches h :), (congrArg State.casts h :), (congrArg State.nextJob h :),
    (congrArg State.sigs h :), (congrArg State.order h :), (congrArg State.sqs h :), (congrArg State.cqs h :), (congrArg State.arms h :),
    (congrArg State.slots h :), (congrArg State.slotShadow h :), (congrArg State.lath h :), (congrArg State.pwr h :),
    (congrArg State.evFreeze h :), (congrArg State.pending h :)⟩

@[simp] theorem State.coreUncorr_frame (det key : Nat) (s : State) :
    (s.coreUncorr det key).now = s.now ∧ (s.coreUncorr det key).ftOff = s.ftOff ∧ (s.coreUncorr det key).active = s.active ∧
    (s.coreUncorr det key).a0 = s.a0 ∧ (s.coreUncorr det key).dshare = s.dshare ∧ (s.coreUncorr det key).clus = s.clus ∧
    (s.coreUncorr det key).peds = s.peds ∧ (s.coreUncorr det key).mpa = s.mpa ∧ (s.coreUncorr det key).poison = s.poison ∧
    (s.coreUncorr det key).niches = s.niches ∧ (s.coreUncorr det key).casts = s.casts ∧ (s.coreUncorr det key).nextJob = s.nextJob ∧
    (s.coreUncorr det key).sigs = s.sigs ∧ (s.coreUncorr det key).order = s.order ∧ (s.coreUncorr det key).sqs = s.sqs ∧
    (s.coreUncorr det key).cqs = s.cqs ∧ (s.coreUncorr det key).arms = s.arms ∧ (s.coreUncorr det key).slots = s.slots ∧
    (s.coreUncorr det key).slotShadow = s.slotShadow ∧ (s.coreUncorr det key).lath = s.lath ∧ (s.coreUncorr det key).pwr = s.pwr ∧
    (s.coreUncorr det key).evFreeze = s.evFreeze ∧ (s.coreUncorr det key).pending = s.pending :=
  have h := State.coreUncorr_keeps det key s
  ⟨(congrArg State.now h :), (congrArg State.ftOff h :), (congrArg State.active h :), (congrArg State.a0 h :),
    (congrArg State.dshare h :), (congrArg State.clus h :), (congrArg State.peds h :), (congrArg State.mpa h :),
    (congrArg State.poison h :), (congrArg State.niches h :), (congrArg State.casts h :), (congrArg State.nextJob h :),
    (congrArg State.sigs h :), (congrArg State.order h :), (congrArg State.sqs h :), (congrArg State.cqs h :), (congrArg State.arms h :),
    (congrArg State.slots h :), (congrArg State.slotShadow h :), (congrArg State.lath h :), (congrArg State.pwr h :),
    (congrArg State.evFreeze h :), (congrArg State.pending h :)⟩

@[simp] theorem State.serveWait_frame (cyc id key : Nat) (s : State) :
    (s.serveWait cyc id key).now = s.now ∧ (s.serveWait cyc id key).ftOff = s.ftOff ∧ (s.serveWait cyc id key).active = s.active ∧
    (s.serveWait cyc id key).a0 = s.a0 ∧ (s.serveWait cyc id key).dshare = s.dshare ∧ (s.serveWait cyc id key).clus = s.clus ∧
    (s.serveWait cyc id key).mpa = s.mpa ∧ (s.serveWait cyc id key).poison = s.poison ∧ (s.serveWait cyc id key).niches = s.niches ∧
    (s.serveWait cyc id key).casts = s.casts ∧ (s.serveWait cyc id key).nextJob = s.nextJob ∧ (s.serveWait cyc id key).sigs = s.sigs ∧
    (s.serveWait cyc id key).order = s.order ∧ (s.serveWait cyc id key).sqs = s.sqs ∧ (s.serveWait cyc id key).cqs = s.cqs ∧
    (s.serveWait cyc id key).slots = s.slots ∧ (s.serveWait cyc id key).slotShadow = s.slotShadow ∧
    (s.serveWait cyc id key).lath = s.lath ∧ (s.serveWait cyc id key).pwr = s.pwr ∧ (s.serveWait cyc id key).evFreeze = s.evFreeze ∧
    (s.serveWait cyc id key).pending = s.pending :=
  have h := State.serveWait_keeps cyc id key s
  ⟨(congrArg State.now h :), (congrArg State.ftOff h :), (congrArg State.active h :), (congrArg State.a0 h :),
    (congrArg State.dshare h :), (congrArg State.clus h :), (congrArg State.mpa h :), (congrArg State.poison h :),
    (congrArg State.niches h :), (congrArg State.casts h :), (congrArg State.nextJob h :), (congrArg State.sigs h :),
    (congrArg State.order h :), (congrArg State.sqs h :), (congrArg State.cqs h :), (congrArg State.slots h :),
    (congrArg State.slotShadow h :), (congrArg State.lath h :), (congrArg State.pwr h :), (congrArg State.evFreeze h :),
    (congrArg State.pending h :)⟩

@[simp] theorem State.serveWaits_frame (cyc id : Nat) (s : State) :
    (s.serveWaits cyc id).now = s.now ∧ (s.serveWaits cyc id).ftOff = s.ftOff ∧ (s.serveWaits cyc id).active = s.active ∧
    (s.serveWaits cyc id).a0 = s.a0 ∧ (s.serveWaits cyc id).dshare = s.dshare ∧ (s.serveWaits cyc id).clus = s.clus ∧
    (s.serveWaits cyc id).mpa = s.mpa ∧ (s.serveWaits cyc id).poison = s.poison ∧ (s.serveWaits cyc id).niches = s.niches ∧
    (s.serveWaits cyc id).casts = s.casts ∧ (s.serveWaits cyc id).nextJob = s.nextJob ∧ (s.serveWaits cyc id).sigs = s.sigs ∧
    (s.serveWaits cyc id).order = s.order ∧ (s.serveWaits cyc id).sqs = s.sqs ∧ (s.serveWaits cyc id).cqs = s.cqs ∧
    (s.serveWaits cyc id).slots = s.slots ∧ (s.serveWaits cyc id).slotShadow = s.slotShadow ∧ (s.serveWaits cyc id).lath = s.lath ∧
    (s.serveWaits cyc id).pwr = s.pwr ∧ (s.serveWaits cyc id).evFreeze = s.evFreeze ∧ (s.serveWaits cyc id).pending = s.pending :=
  have h := State.serveWaits_keeps cyc id s
  ⟨(congrArg State.now h :), (congrArg State.ftOff h :), (congrArg State.active h :), (congrArg State.a0 h :),
    (congrArg State.dshare h :), (congrArg State.clus h :), (congrArg State.mpa h :), (congrArg State.poison h :),
    (congrArg State.niches h :), (congrArg State.casts h :), (congrArg State.nextJob h :), (congrArg State.sigs h :),
    (congrArg State.order h :), (congrArg State.sqs h :), (congrArg State.cqs h :), (congrArg State.slots h :),
    (congrArg State.slotShadow h :), (congrArg State.lath h :), (congrArg State.pwr h :), (congrArg State.evFreeze h :),
    (congrArg State.pending h :)⟩

@[simp] theorem State.applySum_frame (id inc : Nat) (s : State) :
    (s.applySum id inc).now = s.now ∧ (s.applySum id inc).ftOff = s.ftOff ∧ (s.applySum id inc).active = s.active ∧
    (s.applySum id inc).a0 = s.a0 ∧ (s.applySum id inc).dshare = s.dshare ∧ (s.applySum id inc).clus = s.clus ∧
    (s.applySum id inc).mpa = s.mpa ∧ (s.applySum id inc).poison = s.poison ∧ (s.applySum id inc).niches = s.niches ∧
    (s.applySum id inc).casts = s.casts ∧ (s.applySum id inc).nextJob = s.nextJob ∧ (s.applySum id inc).sigs = s.sigs ∧
    (s.applySum id inc).order = s.order ∧ (s.applySum id inc).sqs = s.sqs ∧ (s.applySum id inc).cqs = s.cqs ∧
    (s.applySum id inc).slots = s.slots ∧ (s.applySum id inc).slotShadow = s.slotShadow ∧ (s.applySum id inc).lath = s.lath ∧
    (s.applySum id inc).pwr = s.pwr ∧ (s.applySum id inc).evFreeze = s.evFreeze ∧ (s.applySum id inc).pending = s.pending :=
  have h := State.applySum_keeps id inc s
  ⟨(congrArg State.now h :), (congrArg State.ftOff h :), (congrArg State.active h :), (congrArg State.a0 h :),
    (congrArg State.dshare h :), (congrArg State.clus h :), (congrArg State.mpa h :), (congrArg State.poison h :),
    (congrArg State.niches h :), (congrArg State.casts h :), (congrArg State.nextJob h :), (congrArg State.sigs h :),
    (congrArg State.order h :), (congrArg State.sqs h :), (congrArg State.cqs h :), (congrArg State.slots h :),
    (congrArg State.slotShadow h :), (congrArg State.lath h :), (congrArg State.pwr h :), (congrArg State.evFreeze h :),
    (congrArg State.pending h :)⟩

@[simp] theorem State.signalNow_frame (id inc : Nat) (s : State) :
    (s.signalNow id inc).now = s.now ∧ (s.signalNow id inc).ftOff = s.ftOff ∧ (s.signalNow id inc).active = s.active ∧
    (s.signalNow id inc).a0 = s.a0 ∧ (s.signalNow id inc).dshare = s.dshare ∧ (s.signalNow id inc).fresh = s.fresh ∧
    (s.signalNow id inc).cores = s.cores ∧ (s.signalNow id inc).clus = s.clus ∧ (s.signalNow id inc).peds = s.peds ∧
    (s.signalNow id inc).mpa = s.mpa ∧ (s.signalNow id inc).poison = s.poison ∧ (s.signalNow id inc).niches = s.niches ∧
    (s.signalNow id inc).casts = s.casts ∧ (s.signalNow id inc).jobs = s.jobs ∧ (s.signalNow id inc).nextJob = s.nextJob ∧
    (s.signalNow id inc).hif0 = s.hif0 ∧ (s.signalNow id inc).hif1 = s.hif1 ∧ (s.signalNow id inc).sqs = s.sqs ∧
    (s.signalNow id inc).cqs = s.cqs ∧ (s.signalNow id inc).ras = s.ras ∧ (s.signalNow id inc).arms = s.arms ∧
    (s.signalNow id inc).slots = s.slots ∧ (s.signalNow id inc).slotShadow = s.slotShadow ∧ (s.signalNow id inc).lath = s.lath ∧
    (s.signalNow id inc).mgt = s.mgt ∧ (s.signalNow id inc).pwr = s.pwr ∧ (s.signalNow id inc).evc = s.evc ∧
    (s.signalNow id inc).evFreeze = s.evFreeze ∧ (s.signalNow id inc).free = s.free ∧ (s.signalNow id inc).sent = s.sent ∧
    (s.signalNow id inc).pending = s.pending :=
  have h := State.signalNow_keeps id inc s
  ⟨(congrArg State.now h :), (congrArg State.ftOff h :), (congrArg State.active h :), (congrArg State.a0 h :),
    (congrArg State.dshare h :), (congrArg State.fresh h :), (congrArg State.cores h :), (congrArg State.clus h :),
    (congrArg State.peds h :), (congrArg State.mpa h :), (congrArg State.poison h :), (congrArg State.niches h :),
    (congrArg State.casts h :), (congrArg State.jobs h :), (congrArg State.nextJob h :), (congrArg State.hif0 h :),
    (congrArg State.hif1 h :), (congrArg State.sqs h :), (congrArg State.cqs h :), (congrArg State.ras h :), (congrArg State.arms h :),
    (congrArg State.slots h :), (congrArg State.slotShadow h :), (congrArg State.lath h :), (congrArg State.mgt h :),
    (congrArg State.pwr h :), (congrArg State.evc h :), (congrArg State.evFreeze h :), (congrArg State.free h :),
    (congrArg State.sent h :), (congrArg State.pending h :)⟩

@[simp] theorem State.qSet_frame (q : QRef) (es : List Entry) (h : Option Nat) (s : State) :
    (s.qSet q es h).now = s.now ∧ (s.qSet q es h).ftOff = s.ftOff ∧ (s.qSet q es h).active = s.active ∧ (s.qSet q es h).a0 = s.a0 ∧
    (s.qSet q es h).dshare = s.dshare ∧ (s.qSet q es h).fresh = s.fresh ∧ (s.qSet q es h).clus = s.clus ∧ (s.qSet q es h).peds = s.peds ∧
    (s.qSet q es h).mpa = s.mpa ∧ (s.qSet q es h).poison = s.poison ∧ (s.qSet q es h).niches = s.niches ∧
    (s.qSet q es h).casts = s.casts ∧ (s.qSet q es h).nextJob = s.nextJob ∧ (s.qSet q es h).hif0 = s.hif0 ∧
    (s.qSet q es h).hif1 = s.hif1 ∧ (s.qSet q es h).cqs = s.cqs ∧ (s.qSet q es h).ras = s.ras ∧ (s.qSet q es h).arms = s.arms ∧
    (s.qSet q es h).slots = s.slots ∧ (s.qSet q es h).slotShadow = s.slotShadow ∧ (s.qSet q es h).lath = s.lath ∧
    (s.qSet q es h).mgt = s.mgt ∧ (s.qSet q es h).pwr = s.pwr ∧ (s.qSet q es h).evc = s.evc ∧ (s.qSet q es h).evFreeze = s.evFreeze ∧
    (s.qSet q es h).free = s.free ∧ (s.qSet q es h).sent = s.sent ∧ (s.qSet q es h).pending = s.pending :=
  have h := State.qSet_keeps q es h s
  ⟨(congrArg State.now h :), (congrArg State.ftOff h :), (congrArg State.active h :), (congrArg State.a0 h :),
    (congrArg State.dshare h :), (congrArg State.fresh h :), (congrArg State.clus h :), (congrArg State.peds h :),
    (congrArg State.mpa h :), (congrArg State.poison h :), (congrArg State.niches h :), (congrArg State.casts h :),
    (congrArg State.nextJob h :), (congrArg State.hif0 h :), (congrArg State.hif1 h :), (congrArg State.cqs h :),
    (congrArg State.ras h :), (congrArg State.arms h :), (congrArg State.slots h :), (congrArg State.slotShadow h :),
    (congrArg State.lath h :), (congrArg State.mgt h :), (congrArg State.pwr h :), (congrArg State.evc h :),
    (congrArg State.evFreeze h :), (congrArg State.free h :), (congrArg State.sent h :), (congrArg State.pending h :)⟩

@[simp] theorem State.qUpd_frame (q : QRef) (n : Nat) (f : Entry → Entry) (s : State) :
    (s.qUpd q n f).now = s.now ∧ (s.qUpd q n f).ftOff = s.ftOff ∧ (s.qUpd q n f).active = s.active ∧ (s.qUpd q n f).a0 = s.a0 ∧
    (s.qUpd q n f).dshare = s.dshare ∧ (s.qUpd q n f).fresh = s.fresh ∧ (s.qUpd q n f).clus = s.clus ∧ (s.qUpd q n f).peds = s.peds ∧
    (s.qUpd q n f).mpa = s.mpa ∧ (s.qUpd q n f).poison = s.poison ∧ (s.qUpd q n f).niches = s.niches ∧ (s.qUpd q n f).casts = s.casts ∧
    (s.qUpd q n f).nextJob = s.nextJob ∧ (s.qUpd q n f).hif0 = s.hif0 ∧ (s.qUpd q n f).hif1 = s.hif1 ∧ (s.qUpd q n f).cqs = s.cqs ∧
    (s.qUpd q n f).ras = s.ras ∧ (s.qUpd q n f).arms = s.arms ∧ (s.qUpd q n f).slots = s.slots ∧
    (s.qUpd q n f).slotShadow = s.slotShadow ∧ (s.qUpd q n f).lath = s.lath ∧ (s.qUpd q n f).mgt = s.mgt ∧ (s.qUpd q n f).pwr = s.pwr ∧
    (s.qUpd q n f).evc = s.evc ∧ (s.qUpd q n f).evFreeze = s.evFreeze ∧ (s.qUpd q n f).free = s.free ∧ (s.qUpd q n f).sent = s.sent ∧
    (s.qUpd q n f).pending = s.pending :=
  have h := State.qUpd_keeps q n f s
  ⟨(congrArg State.now h :), (congrArg State.ftOff h :), (congrArg State.active h :), (congrArg State.a0 h :),
    (congrArg State.dshare h :), (congrArg State.fresh h :), (congrArg State.clus h :), (congrArg State.peds h :),
    (congrArg State.mpa h :), (congrArg State.poison h :), (congrArg State.niches h :), (congrArg State.casts h :),
    (congrArg State.nextJob h :), (congrArg State.hif0 h :), (congrArg State.hif1 h :), (congrArg State.cqs h :),
    (congrArg State.ras h :), (congrArg State.arms h :), (congrArg State.slots h :), (congrArg State.slotShadow h :),
    (congrArg State.lath h :), (congrArg State.mgt h :), (congrArg State.pwr h :), (congrArg State.evc h :),
    (congrArg State.evFreeze h :), (congrArg State.free h :), (congrArg State.sent h :), (congrArg State.pending h :)⟩

@[simp] theorem State.completeEntry_frame (q : QRef) (n c : Nat) (p o : Bool) (s : State) :
    (s.completeEntry q n c p o).now = s.now ∧ (s.completeEntry q n c p o).ftOff = s.ftOff ∧
    (s.completeEntry q n c p o).active = s.active ∧ (s.completeEntry q n c p o).a0 = s.a0 ∧
    (s.completeEntry q n c p o).dshare = s.dshare ∧ (s.completeEntry q n c p o).fresh = s.fresh ∧
    (s.completeEntry q n c p o).clus = s.clus ∧ (s.completeEntry q n c p o).peds = s.peds ∧ (s.completeEntry q n c p o).mpa = s.mpa ∧
    (s.completeEntry q n c p o).poison = s.poison ∧ (s.completeEntry q n c p o).niches = s.niches ∧
    (s.completeEntry q n c p o).casts = s.casts ∧ (s.completeEntry q n c p o).nextJob = s.nextJob ∧
    (s.completeEntry q n c p o).hif0 = s.hif0 ∧ (s.completeEntry q n c p o).hif1 = s.hif1 ∧ (s.completeEntry q n c p o).cqs = s.cqs ∧
    (s.completeEntry q n c p o).ras = s.ras ∧ (s.completeEntry q n c p o).arms = s.arms ∧ (s.completeEntry q n c p o).slots = s.slots ∧
    (s.completeEntry q n c p o).slotShadow = s.slotShadow ∧ (s.completeEntry q n c p o).lath = s.lath ∧
    (s.completeEntry q n c p o).mgt = s.mgt ∧ (s.completeEntry q n c p o).pwr = s.pwr ∧ (s.completeEntry q n c p o).evc = s.evc ∧
    (s.completeEntry q n c p o).evFreeze = s.evFreeze ∧ (s.completeEntry q n c p o).free = s.free ∧
    (s.completeEntry q n c p o).sent = s.sent ∧ (s.completeEntry q n c p o).pending = s.pending :=
  have h := State.completeEntry_keeps q n c p o s
  ⟨(congrArg State.now h :), (congrArg State.ftOff h :), (congrArg State.active h :), (congrArg State.a0 h :),
    (congrArg State.dshare h :), (congrArg State.fresh h :), (congrArg State.clus h :), (congrArg State.peds h :),
    (congrArg State.mpa h :), (congrArg State.poison h :), (congrArg State.niches h :), (congrArg State.casts h :),
    (congrArg State.nextJob h :), (congrArg State.hif0 h :), (congrArg State.hif1 h :), (congrArg State.cqs h :),
    (congrArg State.ras h :), (congrArg State.arms h :), (congrArg State.slots h :), (congrArg State.slotShadow h :),
    (congrArg State.lath h :), (congrArg State.mgt h :), (congrArg State.pwr h :), (congrArg State.evc h :),
    (congrArg State.evFreeze h :), (congrArg State.free h :), (congrArg State.sent h :), (congrArg State.pending h :)⟩

@[simp] theorem State.qAbort_frame (q : QRef) (c : Nat) (p : Entry → Bool) (s : State) :
    (s.qAbort q c p).now = s.now ∧ (s.qAbort q c p).ftOff = s.ftOff ∧ (s.qAbort q c p).active = s.active ∧ (s.qAbort q c p).a0 = s.a0 ∧
    (s.qAbort q c p).dshare = s.dshare ∧ (s.qAbort q c p).clus = s.clus ∧ (s.qAbort q c p).peds = s.peds ∧ (s.qAbort q c p).mpa = s.mpa ∧
    (s.qAbort q c p).poison = s.poison ∧ (s.qAbort q c p).niches = s.niches ∧ (s.qAbort q c p).casts = s.casts ∧
    (s.qAbort q c p).nextJob = s.nextJob ∧ (s.qAbort q c p).cqs = s.cqs ∧ (s.qAbort q c p).arms = s.arms ∧
    (s.qAbort q c p).slots = s.slots ∧ (s.qAbort q c p).slotShadow = s.slotShadow ∧ (s.qAbort q c p).lath = s.lath ∧
    (s.qAbort q c p).pwr = s.pwr ∧ (s.qAbort q c p).evFreeze = s.evFreeze ∧ (s.qAbort q c p).pending = s.pending :=
  have h := State.qAbort_keeps q c p s
  ⟨(congrArg State.now h :), (congrArg State.ftOff h :), (congrArg State.active h :), (congrArg State.a0 h :),
    (congrArg State.dshare h :), (congrArg State.clus h :), (congrArg State.peds h :), (congrArg State.mpa h :),
    (congrArg State.poison h :), (congrArg State.niches h :), (congrArg State.casts h :), (congrArg State.nextJob h :),
    (congrArg State.cqs h :), (congrArg State.arms h :), (congrArg State.slots h :), (congrArg State.slotShadow h :),
    (congrArg State.lath h :), (congrArg State.pwr h :), (congrArg State.evFreeze h :), (congrArg State.pending h :)⟩

@[simp] theorem State.qCancel_frame (q : QRef) (s : State) :
    (s.qCancel q).now = s.now ∧ (s.qCancel q).ftOff = s.ftOff ∧ (s.qCancel q).active = s.active ∧ (s.qCancel q).a0 = s.a0 ∧
    (s.qCancel q).dshare = s.dshare ∧ (s.qCancel q).clus = s.clus ∧ (s.qCancel q).peds = s.peds ∧ (s.qCancel q).mpa = s.mpa ∧
    (s.qCancel q).poison = s.poison ∧ (s.qCancel q).niches = s.niches ∧ (s.qCancel q).casts = s.casts ∧
    (s.qCancel q).nextJob = s.nextJob ∧ (s.qCancel q).cqs = s.cqs ∧ (s.qCancel q).arms = s.arms ∧ (s.qCancel q).slots = s.slots ∧
    (s.qCancel q).slotShadow = s.slotShadow ∧ (s.qCancel q).lath = s.lath ∧ (s.qCancel q).pwr = s.pwr ∧
    (s.qCancel q).evFreeze = s.evFreeze ∧ (s.qCancel q).pending = s.pending :=
  have h := State.qCancel_keeps q s
  ⟨(congrArg State.now h :), (congrArg State.ftOff h :), (congrArg State.active h :), (congrArg State.a0 h :),
    (congrArg State.dshare h :), (congrArg State.clus h :), (congrArg State.peds h :), (congrArg State.mpa h :),
    (congrArg State.poison h :), (congrArg State.niches h :), (congrArg State.casts h :), (congrArg State.nextJob h :),
    (congrArg State.cqs h :), (congrArg State.arms h :), (congrArg State.slots h :), (congrArg State.slotShadow h :),
    (congrArg State.lath h :), (congrArg State.pwr h :), (congrArg State.evFreeze h :), (congrArg State.pending h :)⟩

@[simp] theorem State.cluWrite_frame (c o : Nat) (bs : List Byte) (s : State) :
    (s.cluWrite c o bs).now = s.now ∧ (s.cluWrite c o bs).ftOff = s.ftOff ∧ (s.cluWrite c o bs).active = s.active ∧
    (s.cluWrite c o bs).a0 = s.a0 ∧ (s.cluWrite c o bs).dshare = s.dshare ∧ (s.cluWrite c o bs).fresh = s.fresh ∧
    (s.cluWrite c o bs).peds = s.peds ∧ (s.cluWrite c o bs).niches = s.niches ∧ (s.cluWrite c o bs).casts = s.casts ∧
    (s.cluWrite c o bs).jobs = s.jobs ∧ (s.cluWrite c o bs).nextJob = s.nextJob ∧ (s.cluWrite c o bs).sigs = s.sigs ∧
    (s.cluWrite c o bs).order = s.order ∧ (s.cluWrite c o bs).hif0 = s.hif0 ∧ (s.cluWrite c o bs).hif1 = s.hif1 ∧
    (s.cluWrite c o bs).sqs = s.sqs ∧ (s.cluWrite c o bs).cqs = s.cqs ∧ (s.cluWrite c o bs).ras = s.ras ∧
    (s.cluWrite c o bs).arms = s.arms ∧ (s.cluWrite c o bs).slots = s.slots ∧ (s.cluWrite c o bs).slotShadow = s.slotShadow ∧
    (s.cluWrite c o bs).lath = s.lath ∧ (s.cluWrite c o bs).mgt = s.mgt ∧ (s.cluWrite c o bs).pwr = s.pwr ∧
    (s.cluWrite c o bs).evFreeze = s.evFreeze ∧ (s.cluWrite c o bs).free = s.free ∧ (s.cluWrite c o bs).sent = s.sent ∧
    (s.cluWrite c o bs).pending = s.pending :=
  have h := State.cluWrite_keeps c o bs s
  ⟨(congrArg State.now h :), (congrArg State.ftOff h :), (congrArg State.active h :), (congrArg State.a0 h :),
    (congrArg State.dshare h :), (congrArg State.fresh h :), (congrArg State.peds h :), (congrArg State.niches h :),
    (congrArg State.casts h :), (congrArg State.jobs h :), (congrArg State.nextJob h :), (congrArg State.sigs h :),
    (congrArg State.order h :), (congrArg State.hif0 h :), (congrArg State.hif1 h :), (congrArg State.sqs h :), (congrArg State.cqs h :),
    (congrArg State.ras h :), (congrArg State.arms h :), (congrArg State.slots h :), (congrArg State.slotShadow h :),
    (congrArg State.lath h :), (congrArg State.mgt h :), (congrArg State.pwr h :), (congrArg State.evFreeze h :),
    (congrArg State.free h :), (congrArg State.sent h :), (congrArg State.pending h :)⟩

@[simp] theorem State.mpaWriteRun_frame (bank : Nat → Bool) (a : Nat) (bs : List Byte) (s : State) :
    (State.mpaWriteRun bank a bs s).now = s.now ∧ (State.mpaWriteRun bank a bs s).ftOff = s.ftOff ∧
    (State.mpaWriteRun bank a bs s).active = s.active ∧ (State.mpaWriteRun bank a bs s).a0 = s.a0 ∧
    (State.mpaWriteRun bank a bs s).dshare = s.dshare ∧ (State.mpaWriteRun bank a bs s).fresh = s.fresh ∧
    (State.mpaWriteRun bank a bs s).peds = s.peds ∧ (State.mpaWriteRun bank a bs s).niches = s.niches ∧
    (State.mpaWriteRun bank a bs s).casts = s.casts ∧ (State.mpaWriteRun bank a bs s).jobs = s.jobs ∧
    (State.mpaWriteRun bank a bs s).nextJob = s.nextJob ∧ (State.mpaWriteRun bank a bs s).sigs = s.sigs ∧
    (State.mpaWriteRun bank a bs s).order = s.order ∧ (State.mpaWriteRun bank a bs s).hif0 = s.hif0 ∧
    (State.mpaWriteRun bank a bs s).hif1 = s.hif1 ∧ (State.mpaWriteRun bank a bs s).sqs = s.sqs ∧
    (State.mpaWriteRun bank a bs s).cqs = s.cqs ∧ (State.mpaWriteRun bank a bs s).ras = s.ras ∧
    (State.mpaWriteRun bank a bs s).arms = s.arms ∧ (State.mpaWriteRun bank a bs s).slots = s.slots ∧
    (State.mpaWriteRun bank a bs s).slotShadow = s.slotShadow ∧ (State.mpaWriteRun bank a bs s).lath = s.lath ∧
    (State.mpaWriteRun bank a bs s).mgt = s.mgt ∧ (State.mpaWriteRun bank a bs s).pwr = s.pwr ∧
    (State.mpaWriteRun bank a bs s).evFreeze = s.evFreeze ∧ (State.mpaWriteRun bank a bs s).free = s.free ∧
    (State.mpaWriteRun bank a bs s).sent = s.sent ∧ (State.mpaWriteRun bank a bs s).pending = s.pending :=
  have h := State.mpaWriteRun_keeps bank a bs s
  ⟨(congrArg State.now h :), (congrArg State.ftOff h :), (congrArg State.active h :), (congrArg State.a0 h :),
    (congrArg State.dshare h :), (congrArg State.fresh h :), (congrArg State.peds h :), (congrArg State.niches h :),
    (congrArg State.casts h :), (congrArg State.jobs h :), (congrArg State.nextJob h :), (congrArg State.sigs h :),
    (congrArg State.order h :), (congrArg State.hif0 h :), (congrArg State.hif1 h :), (congrArg State.sqs h :), (congrArg State.cqs h :),
    (congrArg State.ras h :), (congrArg State.arms h :), (congrArg State.slots h :), (congrArg State.slotShadow h :),
    (congrArg State.lath h :), (congrArg State.mgt h :), (congrArg State.pwr h :), (congrArg State.evFreeze h :),
    (congrArg State.free h :), (congrArg State.sent h :), (congrArg State.pending h :)⟩

@[simp] theorem State.mpaStore_frame (a : Nat) (bs : List Byte) (s : State) :
    (s.mpaStore a bs).now = s.now ∧ (s.mpaStore a bs).ftOff = s.ftOff ∧ (s.mpaStore a bs).active = s.active ∧
    (s.mpaStore a bs).a0 = s.a0 ∧ (s.mpaStore a bs).dshare = s.dshare ∧ (s.mpaStore a bs).fresh = s.fresh ∧
    (s.mpaStore a bs).peds = s.peds ∧ (s.mpaStore a bs).niches = s.niches ∧ (s.mpaStore a bs).casts = s.casts ∧
    (s.mpaStore a bs).jobs = s.jobs ∧ (s.mpaStore a bs).nextJob = s.nextJob ∧ (s.mpaStore a bs).sigs = s.sigs ∧
    (s.mpaStore a bs).order = s.order ∧ (s.mpaStore a bs).hif0 = s.hif0 ∧ (s.mpaStore a bs).hif1 = s.hif1 ∧
    (s.mpaStore a bs).sqs = s.sqs ∧ (s.mpaStore a bs).cqs = s.cqs ∧ (s.mpaStore a bs).ras = s.ras ∧ (s.mpaStore a bs).arms = s.arms ∧
    (s.mpaStore a bs).slots = s.slots ∧ (s.mpaStore a bs).slotShadow = s.slotShadow ∧ (s.mpaStore a bs).lath = s.lath ∧
    (s.mpaStore a bs).mgt = s.mgt ∧ (s.mpaStore a bs).pwr = s.pwr ∧ (s.mpaStore a bs).evFreeze = s.evFreeze ∧
    (s.mpaStore a bs).free = s.free ∧ (s.mpaStore a bs).sent = s.sent ∧ (s.mpaStore a bs).pending = s.pending :=
  have h := State.mpaStore_keeps a bs s
  ⟨(congrArg State.now h :), (congrArg State.ftOff h :), (congrArg State.active h :), (congrArg State.a0 h :),
    (congrArg State.dshare h :), (congrArg State.fresh h :), (congrArg State.peds h :), (congrArg State.niches h :),
    (congrArg State.casts h :), (congrArg State.jobs h :), (congrArg State.nextJob h :), (congrArg State.sigs h :),
    (congrArg State.order h :), (congrArg State.hif0 h :), (congrArg State.hif1 h :), (congrArg State.sqs h :), (congrArg State.cqs h :),
    (congrArg State.ras h :), (congrArg State.arms h :), (congrArg State.slots h :), (congrArg State.slotShadow h :),
    (congrArg State.lath h :), (congrArg State.mgt h :), (congrArg State.pwr h :), (congrArg State.evFreeze h :),
    (congrArg State.free h :), (congrArg State.sent h :), (congrArg State.pending h :)⟩

end Sys2Proof.Machine
end

