-- ==== Sys2Proof/Laws/Form.lean ====
section
/-! SUPPORT. Every operation on memory, and every update of a unit, keeps the canonical form. -/
namespace Sys2Proof.Machine
open Sys2Proof

/-! ## Entries of tables -/

theorem Tbl.all_put {α : Type} (p : Nat × α → Bool) (k : Nat) (v : α) (t : Tbl α) (ht : t.all p = true) (hv : p (k, v) = true) :
    (Tbl.put k v t).all p = true := by
  rw [List.all_eq_true] at *
  intro e he
  rcases Tbl.put_keys he with rfl | h
  · exact hv
  · exact ht e h

theorem Tbl.all_set {α : Type} [DecidableEq α] (d : α) (p : Nat × α → Bool) (k : Nat) (v : α) (t : Tbl α) (ht : t.all p = true)
    (hv : p (k, v) = true) : (Tbl.set d k v t).all p = true := by
  unfold Tbl.set
  split
  · rw [List.all_eq_true] at *
    exact fun e he => ht e (List.mem_filter.1 he).1
  · exact Tbl.all_put p k v t ht hv

theorem Tbl.get_of_all {α : Type} (d : α) (p : α → Bool) (k : Nat) (t : Tbl α) (ht : t.all (fun kv => p kv.2) = true) (hd : p d = true) :
    p (Tbl.get d t k) = true := by
  induction t with
  | nil => exact hd
  | cons e t ih =>
    simp only [List.all_cons, Bool.and_eq_true] at ht
    unfold Tbl.get; split
    · exact ht.1
    · exact ih ht.2

/-! ## Units -/

/-- The parts of `State.wf`. -/
theorem State.wf_iff (s : State) : s.wf = true ↔ (s.mpa.wf = true ∧ s.hif0.mem.wf = true ∧ s.hif1.mem.wf = true ∧ s.ras.ring.wf = true ∧
    s.mgt.faultMem.wf = true ∧ (s.cores.all (fun kv => kv.2.wf)) = true ∧ (s.clus.all (fun kv => kv.2.store.wf)) = true) ∧
    s.tblWf = true ∧ s.savedWf = true := by
  simp only [State.wf, State.memWf, Bool.and_eq_true, and_assoc]

theorem State.core_wf {s : State} (h : s.wf = true) (k : Nat) : (s.core k).wf = true :=
  Tbl.get_of_all Core.reset Core.wf k s.cores ((State.wf_iff s).1 h).1.2.2.2.2.2.1 (by decide)

theorem State.store_wf {s : State} (h : s.wf = true) (k : Nat) : (s.clu k).store.wf = true :=
  Tbl.get_of_all Cluster.reset (fun c => c.store.wf) k s.clus ((State.wf_iff s).1 h).1.2.2.2.2.2.2 (by decide)

theorem State.mem_wf {s : State} (h : s.wf = true) (f : Bool) : (s.hif f).mem.wf = true := by
  have := ((State.wf_iff s).1 h).1
  cases f
  · exact this.2.1
  · exact this.2.2.1

theorem State.setCore_wf {s : State} (h : s.wf = true) (k : Nat) {c : Core} (hc : c.wf = true) : (s.setCore k c).wf = true := by
  rw [State.wf_iff] at *
  refine ⟨⟨h.1.1, h.1.2.1, h.1.2.2.1, h.1.2.2.2.1, h.1.2.2.2.2.1, Tbl.all_set _ _ _ _ _ h.1.2.2.2.2.2.1 hc, h.1.2.2.2.2.2.2⟩, ?_, h.2.2⟩
  have t := h.2.1
  simp only [State.tblWf, Bool.and_eq_true] at t ⊢
  obtain ⟨t, tf⟩ := t
  exact ⟨⟨⟨⟨⟨⟨⟨⟨⟨⟨⟨Tbl.wf_set _ _ _ _ t.1.1.1.1.1.1.1.1.1.1, t.1.1.1.1.1.1.1.1.1.2⟩, t.1.1.1.1.1.1.1.1.2⟩, t.1.1.1.1.1.1.1.2⟩,
    t.1.1.1.1.1.1.2⟩, t.1.1.1.1.1.2⟩, t.1.1.1.1.2⟩, t.1.1.1.2⟩, t.1.1.2⟩, t.1.2⟩, t.2⟩, tf⟩

theorem State.updCore_wf {s : State} (h : s.wf = true) (k : Nat) {f : Core → Core} (hf : ∀ c : Core, c.wf = true → (f c).wf = true) :
    (s.updCore k f).wf = true := State.setCore_wf h k (hf _ (State.core_wf h k))

theorem State.setClu_wf {s : State} (h : s.wf = true) (k : Nat) {c : Cluster} (hc : c.store.wf = true) : (s.setClu k c).wf = true := by
  rw [State.wf_iff] at *
  refine ⟨⟨h.1.1, h.1.2.1, h.1.2.2.1, h.1.2.2.2.1, h.1.2.2.2.2.1, h.1.2.2.2.2.2.1, Tbl.all_set _ _ _ _ _ h.1.2.2.2.2.2.2 hc⟩, ?_, h.2.2⟩
  have t := h.2.1
  simp only [State.tblWf, Bool.and_eq_true] at t ⊢
  obtain ⟨t, tf⟩ := t
  exact ⟨⟨⟨⟨⟨⟨⟨⟨⟨⟨⟨t.1.1.1.1.1.1.1.1.1.1, Tbl.wf_set _ _ _ _ t.1.1.1.1.1.1.1.1.1.2⟩, t.1.1.1.1.1.1.1.1.2⟩, t.1.1.1.1.1.1.1.2⟩,
    t.1.1.1.1.1.1.2⟩, t.1.1.1.1.1.2⟩, t.1.1.1.1.2⟩, t.1.1.1.2⟩, t.1.1.2⟩, t.1.2⟩, t.2⟩, tf⟩

theorem State.updClu_wf {s : State} (h : s.wf = true) (k : Nat) {f : Cluster → Cluster}
    (hf : ∀ c : Cluster, c.store.wf = true → (f c).store.wf = true) : (s.updClu k f).wf = true :=
  State.setClu_wf h k (hf _ (State.store_wf h k))

theorem State.setPed_wf {s : State} (h : s.wf = true) (p : Nat) (d : Ped) : (s.setPed p d).wf = true := by
  rw [State.wf_iff] at *
  refine ⟨h.1, ?_, h.2.2⟩
  have t := h.2.1
  simp only [State.tblWf, Bool.and_eq_true] at t ⊢
  obtain ⟨t, tf⟩ := t
  exact ⟨⟨⟨⟨⟨⟨⟨⟨⟨⟨⟨t.1.1.1.1.1.1.1.1.1.1, t.1.1.1.1.1.1.1.1.1.2⟩, Tbl.wf_set _ _ _ _ t.1.1.1.1.1.1.1.1.2⟩, t.1.1.1.1.1.1.1.2⟩,
    t.1.1.1.1.1.1.2⟩, t.1.1.1.1.1.2⟩, t.1.1.1.1.2⟩, t.1.1.1.2⟩, t.1.1.2⟩, t.1.2⟩, t.2⟩, tf⟩

theorem State.updPed_wf {s : State} (h : s.wf = true) (p : Nat) (f : Ped → Ped) : (s.updPed p f).wf = true := State.setPed_wf h p _

theorem State.setNiche_wf {s : State} (h : s.wf = true) (n : Nat) (v : Niche) : (s.setNiche n v).wf = true := by
  rw [State.wf_iff] at *
  refine ⟨h.1, ?_, h.2.2⟩
  have t := h.2.1
  simp only [State.tblWf, Bool.and_eq_true] at t ⊢
  obtain ⟨t, tf⟩ := t
  exact ⟨⟨⟨⟨⟨⟨⟨⟨⟨⟨⟨t.1.1.1.1.1.1.1.1.1.1, t.1.1.1.1.1.1.1.1.1.2⟩, t.1.1.1.1.1.1.1.1.2⟩, Tbl.wf_set _ _ _ _ t.1.1.1.1.1.1.1.2⟩,
    t.1.1.1.1.1.1.2⟩, t.1.1.1.1.1.2⟩, t.1.1.1.1.2⟩, t.1.1.1.2⟩, t.1.1.2⟩, t.1.2⟩, t.2⟩, tf⟩

theorem State.setJob_wf {s : State} (h : s.wf = true) (j : Nat) {v : Option Job} (hv : ∀ x, v = some x → x.wf = true) :
    (s.setJob j v).wf = true := by
  rw [State.wf_iff] at *
  refine ⟨h.1, ?_, Tbl.all_set _ _ _ _ _ h.2.2 ?_⟩
  · have t := h.2.1
    simp only [State.tblWf, Bool.and_eq_true] at t ⊢
    obtain ⟨t, tf⟩ := t
    exact ⟨⟨⟨⟨⟨⟨⟨⟨⟨⟨⟨t.1.1.1.1.1.1.1.1.1.1, t.1.1.1.1.1.1.1.1.1.2⟩, t.1.1.1.1.1.1.1.1.2⟩, t.1.1.1.1.1.1.1.2⟩,
      t.1.1.1.1.1.1.2⟩, Tbl.wf_set _ _ _ _ t.1.1.1.1.1.2⟩, t.1.1.1.1.2⟩, t.1.1.1.2⟩, t.1.1.2⟩, t.1.2⟩, t.2⟩, tf⟩
  · cases v with
    | none => rfl
    | some x => exact hv x rfl

theorem State.setSq_wf {s : State} (h : s.wf = true) (q : Nat) (v : Sq) : (s.setSq q v).wf = true := by
  rw [State.wf_iff] at *
  refine ⟨h.1, ?_, h.2.2⟩
  have t := h.2.1
  simp only [State.tblWf, Bool.and_eq_true] at t ⊢
  obtain ⟨t, tf⟩ := t
  exact ⟨⟨⟨⟨⟨⟨⟨⟨⟨⟨⟨t.1.1.1.1.1.1.1.1.1.1, t.1.1.1.1.1.1.1.1.1.2⟩, t.1.1.1.1.1.1.1.1.2⟩, t.1.1.1.1.1.1.1.2⟩,
    t.1.1.1.1.1.1.2⟩, t.1.1.1.1.1.2⟩, Tbl.wf_set _ _ _ _ t.1.1.1.1.2⟩, t.1.1.1.2⟩, t.1.1.2⟩, t.1.2⟩, t.2⟩, tf⟩

theorem State.setCq_wf {s : State} (h : s.wf = true) (q : Nat) (v : Cq) : (s.setCq q v).wf = true := by
  rw [State.wf_iff] at *
  refine ⟨h.1, ?_, h.2.2⟩
  have t := h.2.1
  simp only [State.tblWf, Bool.and_eq_true] at t ⊢
  obtain ⟨t, tf⟩ := t
  exact ⟨⟨⟨⟨⟨⟨⟨⟨⟨⟨⟨t.1.1.1.1.1.1.1.1.1.1, t.1.1.1.1.1.1.1.1.1.2⟩, t.1.1.1.1.1.1.1.1.2⟩, t.1.1.1.1.1.1.1.2⟩,
    t.1.1.1.1.1.1.2⟩, t.1.1.1.1.1.2⟩, t.1.1.1.1.2⟩, Tbl.wf_set _ _ _ _ t.1.1.1.2⟩, t.1.1.2⟩, t.1.2⟩, t.2⟩, tf⟩

theorem State.setPoison_wf {s : State} (h : s.wf = true) (g : Nat) (v : Bool) : (s.setPoison g v).wf = true := by
  rw [State.wf_iff] at *
  refine ⟨h.1, ?_, h.2.2⟩
  have t := h.2.1
  simp only [State.tblWf, Bool.and_eq_true] at t ⊢
  obtain ⟨t, tf⟩ := t
  exact ⟨⟨⟨⟨⟨⟨⟨⟨⟨⟨⟨t.1.1.1.1.1.1.1.1.1.1, t.1.1.1.1.1.1.1.1.1.2⟩, t.1.1.1.1.1.1.1.1.2⟩, t.1.1.1.1.1.1.1.2⟩,
    t.1.1.1.1.1.1.2⟩, t.1.1.1.1.1.2⟩, t.1.1.1.1.2⟩, t.1.1.1.2⟩, Tbl.wf_set _ _ _ _ t.1.1.2⟩, t.1.2⟩, t.2⟩, tf⟩

theorem State.setArm_wf {s : State} (h : s.wf = true) (o g v : Nat) : (s.setArm o g v).wf = true := by
  rw [State.wf_iff] at *
  refine ⟨h.1, ?_, h.2.2⟩
  have t := h.2.1
  simp only [State.tblWf, Bool.and_eq_true] at t ⊢
  obtain ⟨t, tf⟩ := t
  exact ⟨⟨⟨⟨⟨⟨⟨⟨⟨⟨⟨t.1.1.1.1.1.1.1.1.1.1, t.1.1.1.1.1.1.1.1.1.2⟩, t.1.1.1.1.1.1.1.1.2⟩, t.1.1.1.1.1.1.1.2⟩,
    t.1.1.1.1.1.1.2⟩, t.1.1.1.1.1.2⟩, t.1.1.1.1.2⟩, t.1.1.1.2⟩, t.1.1.2⟩, Tbl.wf_set _ _ _ _ t.1.2⟩, t.2⟩, tf⟩

theorem State.setHif_wf {s : State} (h : s.wf = true) (f : Bool) {v : Hif} (hv : v.mem.wf = true) : (s.setHif f v).wf = true := by
  rw [State.wf_iff] at *
  cases f
  · exact ⟨⟨h.1.1, hv, h.1.2.2.1, h.1.2.2.2⟩, h.2⟩
  · exact ⟨⟨h.1.1, h.1.2.1, hv, h.1.2.2.2⟩, h.2⟩

theorem State.send_wf {s : State} (h : s.wf = true) (m : Msg) : (s.send m).wf = true := h

theorem State.setMpa_wf {s : State} (h : s.wf = true) {m : Memory} (hm : m.wf = true) : ({ s with mpa := m } : State).wf = true := by
  rw [State.wf_iff] at *
  exact ⟨⟨hm, h.1.2⟩, h.2⟩

theorem State.setRing_wf {s : State} (h : s.wf = true) {r : Ras} (hr : r.ring.wf = true) : ({ s with ras := r } : State).wf = true := by
  rw [State.wf_iff] at *
  exact ⟨⟨h.1.1, h.1.2.1, h.1.2.2.1, hr, h.1.2.2.2.2⟩, h.2⟩

theorem State.setMgt_wf {s : State} (h : s.wf = true) {m : Mgt} (hm : m.faultMem = s.mgt.faultMem) : ({ s with mgt := m } : State).wf = true := by
  rw [State.wf_iff] at *
  exact ⟨⟨h.1.1, h.1.2.1, h.1.2.2.1, h.1.2.2.2.1, by rw [← h.1.2.2.2.2.1]; exact congrArg Memory.wf hm, h.1.2.2.2.2.2⟩, h.2⟩

theorem State.ev_wf {s : State} (h : s.wf = true) (base k src n : Nat) : (s.ev base k src n).wf = true := by
  unfold State.ev; split
  · exact h
  · rw [State.wf_iff] at *
    refine ⟨h.1, ?_, h.2.2⟩
    have t := h.2.1
    simp only [State.tblWf, Bool.and_eq_true] at t ⊢
    obtain ⟨t, tf⟩ := t
    exact ⟨⟨t.1, Tbl.wf_map _ _ _ t.2⟩, tf⟩

/-! ## Stores of a core and of a cluster -/

theorem Core.wf_iff (c : Core) : c.wf = true ↔ c.cstore.wf = true ∧ c.istore.wf = true ∧ Tbl.wf 0 c.sreg = true ∧ Tbl.wf 0 c.preg = true ∧
    Tbl.wf 0 c.vreg = true ∧ Tbl.wf 0 c.tile = true := by
  simp only [Core.wf, Bool.and_eq_true, and_assoc]

theorem Core.cstoreWrite_wf {c : Core} (h : c.wf = true) (a : Nat) (bs : List Byte) : ({ c with cstore := Memory.write a bs c.cstore } : Core).wf = true := by
  rw [Core.wf_iff] at *
  exact ⟨Memory.wf_write _ _ _ h.1, h.2⟩

theorem Core.istoreWrite_wf {c : Core} (h : c.wf = true) (a : Nat) (bs : List Byte) : (Core.istoreWrite a bs c).wf = true := by
  rw [Core.wf_iff] at *
  exact ⟨h.1, Memory.wf_write _ _ _ h.2.1, h.2.2⟩

theorem Core.sfuByte_wf {c : Core} (h : c.wf = true) (b : Bool) (o : Nat) (v : Byte) : (c.sfuByte b o v).wf = true := by
  unfold Core.sfuByte; split <;> exact h

theorem Cluster.write_wf {c : Cluster} (h : c.store.wf = true) (o : Nat) (bs : List Byte) : (Cluster.write o bs c).store.wf = true := by
  have key (l : List Nat) (d : Cluster) (hd : d.store.wf = true) : (l.foldl (fun d r => Cluster.goScan c r d) d).store.wf = true := by
    induction l generalizing d with
    | nil => exact hd
    | cons r l ih =>
      rw [List.foldl_cons]
      refine ih _ ?_
      unfold Cluster.goScan; dsimp only; split <;> exact hd
  exact key _ _ (Memory.wf_write _ _ _ h)

/-! ## Writes to the MPA space -/

theorem State.cluWrite_wf {s : State} (h : s.wf = true) (c o : Nat) (bs : List Byte) : (s.cluWrite c o bs).wf = true := by
  have h1 : (s.evK c 0x02 1).wf = true := State.ev_wf h ..
  have h2 := Cluster.write_wf (State.store_wf h1 c) o bs
  unfold State.cluWrite
  refine State.setClu_wf h1 c ?_
  split <;> exact h2

theorem State.mpaSetByte_wf {s : State} (h : s.wf = true) (bank : Nat → Bool) (a : Nat) (b : Byte) : (State.mpaSetByte bank s a b).wf = true := by
  have hm := ((State.wf_iff s).1 h).1.1
  unfold State.mpaSetByte
  split
  · exact State.setMpa_wf h (Memory.wf_setByte _ _ _ hm)
  · exact State.setMpa_wf h (Memory.wf_setByte _ _ _ hm)
  · exact State.updCore_wf h _ (fun c hc => Core.cstoreWrite_wf hc _ [b])
  · exact State.cluWrite_wf h ..
  · exact State.updCore_wf h _ (fun c hc => Core.istoreWrite_wf hc ..)
  · exact State.updCore_wf h _ (fun c hc => Core.sfuByte_wf hc ..)
  · exact h

theorem State.mpaWrite_wf {s : State} (h : s.wf = true) (bank : Nat → Bool) (a : Nat) (bs : List Byte) : (State.mpaWrite bank a bs s).wf = true := by
  induction bs generalizing a s with
  | nil => exact h
  | cons b bs ih => exact ih (State.mpaSetByte_wf h ..) _

theorem State.mpaWriteRun_wf {s : State} (h : s.wf = true) (bank : Nat → Bool) (a : Nat) (bs : List Byte) :
    (State.mpaWriteRun bank a bs s).wf = true := by
  unfold State.mpaWriteRun
  split
  · exact State.cluWrite_wf h ..
  · exact State.updCore_wf h _ (fun c hc => Core.cstoreWrite_wf hc ..)
  · exact State.updCore_wf h _ (fun c hc => Core.istoreWrite_wf hc ..)
  · exact State.mpaWrite_wf h ..

/-- A fold keeps a property that each of its steps keeps. -/
theorem foldl_wf {β : Type} (f : State → β → State) (hf : ∀ s x, s.wf = true → (f s x).wf = true) (l : List β) (s : State) (h : s.wf = true) :
    (l.foldl f s).wf = true := by
  induction l generalizing s with
  | nil => exact h
  | cons x l ih => exact ih _ (hf _ _ h)

theorem State.clearPoison_wf {s : State} (h : s.wf = true) (a n : Nat) : (s.clearPoison a n).wf = true :=
  foldl_wf _ (fun s g hs => by split <;> first | exact State.setPoison_wf hs .. | exact hs) _ _ h

theorem State.markPoison_wf {s : State} (h : s.wf = true) (a n : Nat) : (s.markPoison a n).wf = true :=
  foldl_wf _ (fun s g hs => by split <;> first | exact State.setPoison_wf hs .. | exact hs) _ _ h

/-- A clean write of bytes to the MPA space keeps every memory and table canonical. -/
theorem State.mpaStore_wf {s : State} (h : s.wf = true) (a : Nat) (bs : List Byte) : (s.mpaStore a bs).wf = true := by
  unfold State.mpaStore
  refine State.clearPoison_wf (State.mpaWriteRun_wf ?_ ..) ..
  unfold State.evHbmWrite; split
  · exact State.ev_wf h ..
  · exact h

/-! ## Messages, events and error records -/

theorem State.msix_wf {s : State} (h : s.wf = true) (f : Bool) (v : Nat) : (s.msix f v).wf = true := by
  unfold State.msix; dsimp only; split
  · exact h
  · exact State.setHif_wf h f (State.mem_wf h f)

theorem State.writeEvent_wf {s : State} (h : s.wf = true) (f : Bool) (t i j : Nat) : (s.writeEvent f t i j).wf = true := by
  unfold State.writeEvent; dsimp only
  split
  · exact State.msix_wf (State.setHif_wf h f (Memory.wf_write _ _ _ (State.mem_wf h f))) ..
  · exact State.setHif_wf h f (Memory.wf_write _ _ _ (State.mem_wf h f))

theorem State.setFresh_wf {s : State} (h : s.wf = true) {l : Tbl (BitVec 64)} (hl : Tbl.wf 0 l = true) : ({ s with fresh := l } : State).wf = true := by
  rw [State.wf_iff] at *
  refine ⟨h.1, ?_, h.2.2⟩
  have t := h.2.1
  simp only [State.tblWf, Bool.and_eq_true] at t ⊢
  exact ⟨t.1, hl⟩

theorem State.fresh_wf {s : State} (h : s.wf = true) : Tbl.wf 0 s.fresh = true := by
  have t := ((State.wf_iff s).1 h).2.1
  simp only [State.tblWf, Bool.and_eq_true] at t
  exact t.2

theorem State.mark_wf {s : State} (h : s.wf = true) (o v : Nat) : (s.mark o v).wf = true :=
  State.setFresh_wf h (Tbl.wf_upd _ _ _ _ (State.fresh_wf h))

theorem State.markRc_wf {s : State} (h : s.wf = true) (o : Nat) : (s.markRc o).wf = true :=
  State.setFresh_wf h (Tbl.wf_upd _ _ _ _ (State.fresh_wf h))

theorem State.postEvent_wf {s : State} (h : s.wf = true) (f : Bool) (t i j : Nat) : (s.postEvent f t i j).wf = true := by
  unfold State.postEvent; dsimp only; split
  · exact State.writeEvent_wf h ..
  · split
    · exact h
    · exact State.markRc_wf (State.setHif_wf h f (v := { s.hif f with evlost := (s.hif f).evlost + 1 }) (State.mem_wf h f)) _

theorem State.postTaken_wf {s : State} (h : s.wf = true) (f : Bool) (m : BitVec 32) : (s.postTaken f m).wf = true := by
  have e : (s.setHif f { s.hif f with taken := none }).wf = true := State.setHif_wf h f (State.mem_wf h f)
  unfold State.postTaken; dsimp only; split
  · exact State.writeEvent_wf e ..
  · exact State.setHif_wf h f (State.mem_wf h f)

theorem State.sendEvents_wf {s : State} (h : s.wf = true) : s.sendEvents.wf = true := by
  unfold State.sendEvents; dsimp only; split
  · exact h
  · refine State.send_wf (State.setMgt_wf (foldl_wf _ (fun _ _ hs => State.send_wf hs _) _ _ (State.send_wf h _)) ?_) _
    rfl

theorem State.pldmEvent_wf {s : State} (h : s.wf = true) (c n : Nat) (d : List Nat) : (s.pldmEvent c n d).wf = true := by
  have e (m : Mgt) (hm : m.faultMem = s.mgt.faultMem) : ({ s with mgt := m } : State).wf = true := State.setMgt_wf h hm
  unfold State.pldmEvent; dsimp only
  split <;> exact State.sendEvents_wf (e _ rfl)

theorem State.record_wf {s : State} (h : s.wf = true) (r : Rec) (n : Nat) : (s.record r n).wf = true := by
  have ring {t : State} (ht : t.wf = true) (a : Nat) (bs : List Byte) (l : BitVec 32) :
      ({ t with ras := { t.ras with ring := Memory.write a bs t.ras.ring, logtail := l } } : State).wf = true :=
    State.setRing_wf ht (Memory.wf_write _ _ _ ((State.wf_iff t).1 ht).1.2.2.2.1)
  have ev (l : List Bool) (i : Nat) {t : State} (ht : t.wf = true) : (l.foldl (fun s f => s.postEvent f 0x05 i 0) t).wf = true :=
    foldl_wf _ (fun s f hs => State.postEvent_wf hs ..) _ _ ht
  have uart (c : Prop) [Decidable c] (i : Nat) {t : State} (ht : t.wf = true) : (if c then t.send (.uart 1 i) else t).wf = true := by
    split
    · exact State.send_wf ht _
    · exact ht
  have fin (c : Prop) [Decidable c] (a b : Nat) (d : List Nat) {t : State} (ht : t.wf = true) : (if c then t else t.pldmEvent a b d).wf = true := by
    split
    · exact ht
    · exact State.pldmEvent_wf ht ..
  unfold State.record
  dsimp only
  refine fin _ _ _ _ (uart _ _ (ev _ _ ?_))
  split
  · exact ring h ..
  · exact ring (t := s.drawFree.2) h ..

theorem State.errUE_wf {s : State} (h : s.wf = true) (r : Rec) : (s.errUE r).wf = true := by
  have e : ({ s with ras := { s.ras with uecnt := Tbl.upd 0 r.det satInc s.ras.uecnt } } : State).wf = true :=
    State.setRing_wf h ((State.wf_iff s).1 h).1.2.2.2.1
  exact State.record_wf e ..

/-! ## Reset -/

theorem State.reset_wf : State.reset.wf = true := by decide

end Sys2Proof.Machine
end

