-- ==== Sys2Proof/Laws/PerInstr.lean ====
section
/-! SUPPORT. What holds of every command, one lemma for each constructor. -/
namespace Sys2Proof.Laws.Bundled
open Sys2Proof

/-- The bundle that a well-formed slot command issues has no reserved field set: its word is one that R283 accepts. -/
def Statement (i : Instr) : Prop := i.wf = true → ∀ x, i.issues = some x → x.2.wf = true

theorem nop (k : CoreId) (b : Bundle) (slot : SlotName) : Statement (.nop k b slot) := by
  intro h x hx
  cases slot <;> · cases hx; first | exact h | rfl

theorem tmma (k : CoreId) (b : Bundle) (td : BitVec 3) (init : Bool) (pp : BitVec 2) (fa : BitVec 3) (fb : BitVec 3)
    (mr : BitVec 5) (nr : BitVec 5) (km : BitVec 12) (sa : BitVec 5) (sb : BitVec 5) (sp : BitVec 5) : Statement
    (.tmma k b td init pp fa fb mr nr km sa sb sp) := by
  intro h x hx
  cases hx; exact h

theorem tld (k : CoreId) (b : Bundle) (td : BitVec 3) (fmt : BitVec 3) (sa : BitVec 5) : Statement
    (.tld k b td fmt sa) := by
  intro h x hx
  cases hx; exact h

theorem tst (k : CoreId) (b : Bundle) (ts : BitVec 3) (sa : BitVec 5) : Statement (.tst k b ts sa) := by
  intro h x hx
  cases hx; exact h

theorem tcvt (k : CoreId) (b : Bundle) (ts : BitVec 3) (tf : BitVec 3) (cv : ConvF) (mr : BitVec 5) (nr : BitVec 5)
    (sd : BitVec 5) (sr : BitVec 5) : Statement (.tcvt k b ts tf cv mr nr sd sr) := by
  intro h x hx
  cases hx; exact h

theorem vadd (k : CoreId) (b : Bundle) (vd : BitVec 5) (va : BitVec 5) (vb : BitVec 5) (pr : BitVec 4) : Statement
    (.vadd k b vd va vb pr) := by
  intro h x hx
  cases hx; rfl

theorem vsub (k : CoreId) (b : Bundle) (vd : BitVec 5) (va : BitVec 5) (vb : BitVec 5) (pr : BitVec 4) : Statement
    (.vsub k b vd va vb pr) := by
  intro h x hx
  cases hx; rfl

theorem vmul (k : CoreId) (b : Bundle) (vd : BitVec 5) (va : BitVec 5) (vb : BitVec 5) (pr : BitVec 4) : Statement
    (.vmul k b vd va vb pr) := by
  intro h x hx
  cases hx; rfl

theorem vdiv (k : CoreId) (b : Bundle) (vd : BitVec 5) (va : BitVec 5) (vb : BitVec 5) (pr : BitVec 4) : Statement
    (.vdiv k b vd va vb pr) := by
  intro h x hx
  cases hx; rfl

theorem vfma (k : CoreId) (b : Bundle) (vd : BitVec 5) (va : BitVec 5) (vb : BitVec 5) (vc : BitVec 5)
    (pr : BitVec 4) : Statement (.vfma k b vd va vb vc pr) := by
  intro h x hx
  cases hx; rfl

theorem vmin (k : CoreId) (b : Bundle) (vd : BitVec 5) (va : BitVec 5) (vb : BitVec 5) (pr : BitVec 4) : Statement
    (.vmin k b vd va vb pr) := by
  intro h x hx
  cases hx; rfl

theorem vmax (k : CoreId) (b : Bundle) (vd : BitVec 5) (va : BitVec 5) (vb : BitVec 5) (pr : BitVec 4) : Statement
    (.vmax k b vd va vb pr) := by
  intro h x hx
  cases hx; rfl

theorem vcmp (k : CoreId) (b : Bundle) (pd : BitVec 3) (va : BitVec 5) (vb : BitVec 5) (cc : BitVec 3)
    (pr : BitVec 4) : Statement (.vcmp k b pd va vb cc pr) := by
  intro h x hx
  cases hx; rfl

theorem vsel (k : CoreId) (b : Bundle) (vd : BitVec 5) (va : BitVec 5) (vb : BitVec 5) (pr : BitVec 4) : Statement
    (.vsel k b vd va vb pr) := by
  intro h x hx
  cases hx; rfl

theorem vbcast (k : CoreId) (b : Bundle) (vd : BitVec 5) (sa : BitVec 5) : Statement (.vbcast k b vd sa) := by
  intro h x hx
  cases hx; rfl

theorem vext (k : CoreId) (b : Bundle) (sd : BitVec 5) (va : BitVec 5) (lane : BitVec 6) : Statement
    (.vext k b sd va lane) := by
  intro h x hx
  cases hx; rfl

theorem viadd (k : CoreId) (b : Bundle) (vd : BitVec 5) (va : BitVec 5) (vb : BitVec 5) (pr : BitVec 4) : Statement
    (.viadd k b vd va vb pr) := by
  intro h x hx
  cases hx; rfl

theorem visub (k : CoreId) (b : Bundle) (vd : BitVec 5) (va : BitVec 5) (vb : BitVec 5) (pr : BitVec 4) : Statement
    (.visub k b vd va vb pr) := by
  intro h x hx
  cases hx; rfl

theorem vimul (k : CoreId) (b : Bundle) (vd : BitVec 5) (va : BitVec 5) (vb : BitVec 5) (pr : BitVec 4) : Statement
    (.vimul k b vd va vb pr) := by
  intro h x hx
  cases hx; rfl

theorem vand (k : CoreId) (b : Bundle) (vd : BitVec 5) (va : BitVec 5) (vb : BitVec 5) (pr : BitVec 4) : Statement
    (.vand k b vd va vb pr) := by
  intro h x hx
  cases hx; rfl

theorem vor (k : CoreId) (b : Bundle) (vd : BitVec 5) (va : BitVec 5) (vb : BitVec 5) (pr : BitVec 4) : Statement
    (.vor k b vd va vb pr) := by
  intro h x hx
  cases hx; rfl

theorem vxor (k : CoreId) (b : Bundle) (vd : BitVec 5) (va : BitVec 5) (vb : BitVec 5) (pr : BitVec 4) : Statement
    (.vxor k b vd va vb pr) := by
  intro h x hx
  cases hx; rfl

theorem vshl (k : CoreId) (b : Bundle) (vd : BitVec 5) (va : BitVec 5) (vb : BitVec 5) (pr : BitVec 4) : Statement
    (.vshl k b vd va vb pr) := by
  intro h x hx
  cases hx; rfl

theorem vshr (k : CoreId) (b : Bundle) (vd : BitVec 5) (va : BitVec 5) (vb : BitVec 5) (pr : BitVec 4) : Statement
    (.vshr k b vd va vb pr) := by
  intro h x hx
  cases hx; rfl

theorem vsar (k : CoreId) (b : Bundle) (vd : BitVec 5) (va : BitVec 5) (vb : BitVec 5) (pr : BitVec 4) : Statement
    (.vsar k b vd va vb pr) := by
  intro h x hx
  cases hx; rfl

theorem vimin (k : CoreId) (b : Bundle) (vd : BitVec 5) (va : BitVec 5) (vb : BitVec 5) (pr : BitVec 4) : Statement
    (.vimin k b vd va vb pr) := by
  intro h x hx
  cases hx; rfl

theorem vimax (k : CoreId) (b : Bundle) (vd : BitVec 5) (va : BitVec 5) (vb : BitVec 5) (pr : BitVec 4) : Statement
    (.vimax k b vd va vb pr) := by
  intro h x hx
  cases hx; rfl

theorem vipsum (k : CoreId) (b : Bundle) (vd : BitVec 5) (va : BitVec 5) (pr : BitVec 4) : Statement
    (.vipsum k b vd va pr) := by
  intro h x hx
  cases hx; rfl

theorem vcvt (k : CoreId) (b : Bundle) (vd : BitVec 5) (vs : BitVec 5) (sf : BitVec 3) (tf : BitVec 3)
    (e : BitVec 6) (cv : ConvF) (sr : BitVec 5) : Statement (.vcvt k b vd vs sf tf e cv sr) := by
  intro h x hx
  cases hx; rfl

theorem vcvtr (k : CoreId) (b : Bundle) (sf : BitVec 3) (tf : BitVec 3) (cv : ConvF) (norec : Bool) (ss : BitVec 5)
    (sd : BitVec 5) (sr : BitVec 5) (sh : BitVec 5) : Statement (.vcvtr k b sf tf cv norec ss sd sr sh) := by
  intro h x hx
  cases hx; rfl

theorem vsfu (k : CoreId) (b : Bundle) (fn : BitVec 6) (vd : BitVec 5) (vs : BitVec 5) (sf : BitVec 3)
    (tf : BitVec 3) (pr : BitVec 4) : Statement (.vsfu k b fn vd vs sf tf pr) := by
  intro h x hx
  cases hx; rfl

theorem vsmax (k : CoreId) (b : Bundle) (sf : BitVec 3) (tf : BitVec 3) (ss : BitVec 5) (sd : BitVec 5)
    (sh : BitVec 5) : Statement (.vsmax k b sf tf ss sd sh) := by
  intro h x hx
  cases hx; rfl

theorem vnorm (k : CoreId) (b : Bundle) (sf : BitVec 3) (tf : BitVec 3) (ss : BitVec 5) (sd : BitVec 5)
    (sh : BitVec 5) (se : BitVec 5) (gb : Bool) (sg : BitVec 5) : Statement (.vnorm k b sf tf ss sd sh se gb sg) := by
  intro h x hx
  cases hx; rfl

theorem sfswap (k : CoreId) (b : Bundle) : Statement (.sfswap k b) := by
  intro h x hx
  cases hx; rfl

theorem vboxd (k : CoreId) (b : Bundle) (ss : BitVec 5) (sd : BitVec 5) (sh : BitVec 5) (sp : BitVec 5) : Statement
    (.vboxd k b ss sd sh sp) := by
  intro h x hx
  cases hx; rfl

theorem vnms (k : CoreId) (b : Bundle) (ss : BitVec 5) (sd : BitVec 5) (sh : BitVec 5) (sp : BitVec 5) : Statement
    (.vnms k b ss sd sh sp) := by
  intro h x hx
  cases hx; rfl

theorem vrng (k : CoreId) (b : Bundle) (vd : BitVec 5) (si : BitVec 5) (stream : BitVec 4) : Statement
    (.vrng k b vd si stream) := by
  intro h x hx
  cases hx; rfl

theorem vgetst (k : CoreId) (b : Bundle) (vd : BitVec 5) (sel : BitVec 2) (slot : BitVec 4) : Statement
    (.vgetst k b vd sel slot) := by
  intro h x hx
  cases hx; rfl

theorem sld (k : CoreId) (b : Bundle) (sd : BitVec 5) (sa : BitVec 5) (off : BitVec 20) : Statement
    (.sld k b sd sa off) := by
  intro h x hx
  cases hx; exact h

theorem sst (k : CoreId) (b : Bundle) (ss : BitVec 5) (sa : BitVec 5) (off : BitVec 20) : Statement
    (.sst k b ss sa off) := by
  intro h x hx
  cases hx; exact h

theorem vld (k : CoreId) (b : Bundle) (vd : BitVec 5) (fmt : BitVec 3) (sa : BitVec 5) (off : BitVec 20) : Statement
    (.vld k b vd fmt sa off) := by
  intro h x hx
  cases hx; exact h

theorem vst (k : CoreId) (b : Bundle) (vs : BitVec 5) (fmt : BitVec 3) (sa : BitVec 5) (off : BitVec 20)
    (pr : BitVec 4) : Statement (.vst k b vs fmt sa off pr) := by
  intro h x hx
  cases hx; exact h

theorem dmaq (k : CoreId) (b : Bundle) (q : BitVec 2) (sd : BitVec 5) (sa : BitVec 5) : Statement
    (.dmaq k b q sd sa) := by
  intro h x hx
  cases hx; exact h

theorem dwait (k : CoreId) (b : Bundle) (q : BitVec 2) (sa : BitVec 5) : Statement (.dwait k b q sa) := by
  intro h x hx
  cases hx; exact h

theorem asend (k : CoreId) (b : Bundle) (route : BitVec 12) (ns : BitVec 8) (ss : BitVec 5) (sd : BitVec 5)
    (cen : Bool) (sc : BitVec 5) : Statement (.asend k b route ns ss sd cen sc) := by
  intro h x hx
  cases hx; exact h

theorem add (k : CoreId) (b : Bundle) (sd : BitVec 5) (sa : BitVec 5) (sb : BitVec 5) : Statement
    (.add k b sd sa sb) := by
  intro h x hx
  cases hx; exact h

theorem sub (k : CoreId) (b : Bundle) (sd : BitVec 5) (sa : BitVec 5) (sb : BitVec 5) : Statement
    (.sub k b sd sa sb) := by
  intro h x hx
  cases hx; exact h

theorem mul (k : CoreId) (b : Bundle) (sd : BitVec 5) (sa : BitVec 5) (sb : BitVec 5) : Statement
    (.mul k b sd sa sb) := by
  intro h x hx
  cases hx; exact h

theorem and (k : CoreId) (b : Bundle) (sd : BitVec 5) (sa : BitVec 5) (sb : BitVec 5) : Statement
    (.and k b sd sa sb) := by
  intro h x hx
  cases hx; exact h

theorem or (k : CoreId) (b : Bundle) (sd : BitVec 5) (sa : BitVec 5) (sb : BitVec 5) : Statement
    (.or k b sd sa sb) := by
  intro h x hx
  cases hx; exact h

theorem xor (k : CoreId) (b : Bundle) (sd : BitVec 5) (sa : BitVec 5) (sb : BitVec 5) : Statement
    (.xor k b sd sa sb) := by
  intro h x hx
  cases hx; exact h

theorem shl (k : CoreId) (b : Bundle) (sd : BitVec 5) (sa : BitVec 5) (sb : BitVec 5) : Statement
    (.shl k b sd sa sb) := by
  intro h x hx
  cases hx; exact h

theorem shr (k : CoreId) (b : Bundle) (sd : BitVec 5) (sa : BitVec 5) (sb : BitVec 5) : Statement
    (.shr k b sd sa sb) := by
  intro h x hx
  cases hx; exact h

theorem sar (k : CoreId) (b : Bundle) (sd : BitVec 5) (sa : BitVec 5) (sb : BitVec 5) : Statement
    (.sar k b sd sa sb) := by
  intro h x hx
  cases hx; exact h

theorem addi (k : CoreId) (b : Bundle) (sd : BitVec 5) (sa : BitVec 5) (imm : BitVec 32) : Statement
    (.addi k b sd sa imm) := by
  intro h x hx
  cases hx; exact h

theorem movi (k : CoreId) (b : Bundle) (sd : BitVec 5) (imm : BitVec 32) : Statement (.movi k b sd imm) := by
  intro h x hx
  cases hx; exact h

theorem movhi (k : CoreId) (b : Bundle) (sd : BitVec 5) (imm : BitVec 32) : Statement (.movhi k b sd imm) := by
  intro h x hx
  cases hx; exact h

theorem scmp (k : CoreId) (b : Bundle) (pd : BitVec 3) (sa : BitVec 5) (sb : BitVec 5) (cc : BitVec 3) : Statement
    (.scmp k b pd sa sb cc) := by
  intro h x hx
  cases hx; exact h

theorem pand (k : CoreId) (b : Bundle) (pd : BitVec 3) (pa : BitVec 3) (pb : BitVec 3) : Statement
    (.pand k b pd pa pb) := by
  intro h x hx
  cases hx; exact h

theorem por (k : CoreId) (b : Bundle) (pd : BitVec 3) (pa : BitVec 3) (pb : BitVec 3) : Statement
    (.por k b pd pa pb) := by
  intro h x hx
  cases hx; exact h

theorem pxor (k : CoreId) (b : Bundle) (pd : BitVec 3) (pa : BitVec 3) (pb : BitVec 3) : Statement
    (.pxor k b pd pa pb) := by
  intro h x hx
  cases hx; exact h

theorem pnot (k : CoreId) (b : Bundle) (pd : BitVec 3) (pa : BitVec 3) : Statement (.pnot k b pd pa) := by
  intro h x hx
  cases hx; exact h

theorem pmov (k : CoreId) (b : Bundle) (pd : BitVec 3) (sa : BitVec 5) : Statement (.pmov k b pd sa) := by
  intro h x hx
  cases hx; exact h

theorem smovp (k : CoreId) (b : Bundle) (sd : BitVec 5) (pa : BitVec 3) : Statement (.smovp k b sd pa) := by
  intro h x hx
  cases hx; exact h

theorem br (k : CoreId) (b : Bundle) (cond : BitVec 2) (pn : BitVec 3) (tgt : BitVec 12) : Statement
    (.br k b cond pn tgt) := by
  intro h x hx
  cases hx; exact h

theorem ssig (k : CoreId) (b : Bundle) (sc : BitVec 5) (inc : BitVec 16) : Statement (.ssig k b sc inc) := by
  intro h x hx
  cases hx; exact h

theorem swait (k : CoreId) (b : Bundle) (pd : BitVec 3) (consume : Bool) (tmode : Bool) (sc : BitVec 5)
    (st : BitVec 5) (timeout : BitVec 24) : Statement (.swait k b pd consume tmode sc st timeout) := by
  intro h x hx
  cases hx; exact h

theorem yield (k : CoreId) (b : Bundle) : Statement (.yield k b) := by
  intro h x hx
  cases hx; exact h

theorem halt (k : CoreId) (b : Bundle) : Statement (.halt k b) := by
  intro h x hx
  cases hx; exact h

theorem fclr (k : CoreId) (b : Bundle) (mask : BitVec 4) : Statement (.fclr k b mask) := by
  intro h x hx
  cases hx; exact h

theorem sgetst (k : CoreId) (b : Bundle) (sd : BitVec 5) (sel : BitVec 2) (slot : BitVec 4) (entry : BitVec 6)
    : Statement (.sgetst k b sd sel slot entry) := by
  intro h x hx
  cases hx; exact h

theorem sstep (k : CoreId) (b : Bundle) (sd : BitVec 5) : Statement (.sstep k b sd) := by
  intro h x hx
  cases hx; exact h

theorem illegalEncoding (k : CoreId) (w : BitVec 256) : Statement (.illegalEncoding k w) :=
  fun _ _ h => nomatch h

theorem instructionRange (k : CoreId) : Statement (.instructionRange k) :=
  fun _ _ h => nomatch h

theorem resultLand (k : CoreId) : Statement (.resultLand k) :=
  fun _ _ h => nomatch h

theorem syncSignalApply (id : BitVec 15) : Statement (.syncSignalApply id) :=
  fun _ _ h => nomatch h

theorem syncWaitTimeout (k : CoreId) : Statement (.syncWaitTimeout k) :=
  fun _ _ h => nomatch h

theorem armatureFrameStart : Statement .armatureFrameStart :=
  fun _ _ h => nomatch h

theorem asendSlotLand (k : CoreId) : Statement (.asendSlotLand k) :=
  fun _ _ h => nomatch h

theorem refreshWindow (p : Fin 20) (bank : Fin 64) (errs : List (BitVec 32 × Bool)) : Statement
    (.refreshWindow p bank errs) :=
  fun _ _ h => nomatch h

theorem jobStart (j : BitVec 32) : Statement (.jobStart j) :=
  fun _ _ h => nomatch h

theorem jobComplete (j : BitVec 32) : Statement (.jobComplete j) :=
  fun _ _ h => nomatch h

theorem jobStoppedComplete (j : BitVec 32) : Statement (.jobStoppedComplete j) :=
  fun _ _ h => nomatch h

theorem jobSuspend (j : BitVec 32) : Statement (.jobSuspend j) :=
  fun _ _ h => nomatch h

theorem jobResume (j : BitVec 32) : Statement (.jobResume j) :=
  fun _ _ h => nomatch h

theorem stopInPlace (j : BitVec 32) : Statement (.stopInPlace j) :=
  fun _ _ h => nomatch h

theorem jobTimeLimit (j : BitVec 32) : Statement (.jobTimeLimit j) :=
  fun _ _ h => nomatch h

theorem copy (q : QRef) (seq : BitVec 32) (n : Nat) (e : HostErr) : Statement (.copy q seq n e) :=
  fun _ _ h => nomatch h

theorem fill (q : QRef) (seq : BitVec 32) (n : Nat) : Statement (.fill q seq n) :=
  fun _ _ h => nomatch h

theorem dmaDescriptorCheck (q : QRef) : Statement (.dmaDescriptorCheck q) :=
  fun _ _ h => nomatch h

theorem dmaEntryBegin (q : QRef) (seq : BitVec 32) : Statement (.dmaEntryBegin q seq) :=
  fun _ _ h => nomatch h

theorem dmaEntryComplete (q : QRef) (seq : BitVec 32) : Statement (.dmaEntryComplete q seq) :=
  fun _ _ h => nomatch h

theorem dmaEntryRetire (q : QRef) : Statement (.dmaEntryRetire q) :=
  fun _ _ h => nomatch h

theorem resume (k : CoreId) (q : Fin 4) : Statement (.resume k q) :=
  fun _ _ h => nomatch h

theorem retry (k : CoreId) (q : Fin 4) : Statement (.retry k q) :=
  fun _ _ h => nomatch h

theorem cancel (k : CoreId) (q : Fin 4) : Statement (.cancel k q) :=
  fun _ _ h => nomatch h

theorem reliefCommandStart (c : ClusId) : Statement (.reliefCommandStart c) :=
  fun _ _ h => nomatch h

theorem reliefCommandComplete (c : ClusId) : Statement (.reliefCommandComplete c) :=
  fun _ _ h => nomatch h

theorem ctxset (g : EngId) (n : Fin 32) : Statement (.ctxset g n) :=
  fun _ _ h => nomatch h

theorem encframe (g : EngId) (rows : Nat) : Statement (.encframe g rows) :=
  fun _ _ h => nomatch h

theorem decframe (g : EngId) (rows : Nat) : Statement (.decframe g rows) :=
  fun _ _ h => nomatch h

theorem recon (g : EngId) (rows : Nat) : Statement (.recon g rows) :=
  fun _ _ h => nomatch h

theorem ctxget (g : EngId) : Statement (.ctxget g) :=
  fun _ _ h => nomatch h

theorem pixRowBoundary (g : EngId) : Statement (.pixRowBoundary g) :=
  fun _ _ h => nomatch h

theorem pixRtailWrite (g : EngId) (c : Fin 4) (v : BitVec 16) : Statement (.pixRtailWrite g c v) :=
  fun _ _ h => nomatch h

theorem pixResume (g : EngId) (c : Fin 4) : Statement (.pixResume g c) :=
  fun _ _ h => nomatch h

theorem pixCancel (g : EngId) (c : Fin 4) : Statement (.pixCancel g c) :=
  fun _ _ h => nomatch h

theorem latentEntryTake (g : EngId) (stream : BitVec 12) : Statement (.latentEntryTake g stream) :=
  fun _ _ h => nomatch h

theorem decodeEntryTake (g : EngId) (stream : BitVec 12) : Statement (.decodeEntryTake g stream) :=
  fun _ _ h => nomatch h

theorem tblrdyTake (g : EngId) (stream : BitVec 12) : Statement (.tblrdyTake g stream) :=
  fun _ _ h => nomatch h

theorem unitWrite (g : EngId) (stream : BitVec 12) : Statement (.unitWrite g stream) :=
  fun _ _ h => nomatch h

theorem ectxset (g : EngId) : Statement (.ectxset g) :=
  fun _ _ h => nomatch h

theorem etabload (g : EngId) : Statement (.etabload g) :=
  fun _ _ h => nomatch h

theorem decunit (g : EngId) : Statement (.decunit g) :=
  fun _ _ h => nomatch h

theorem aencode (g : EngId) : Statement (.aencode g) :=
  fun _ _ h => nomatch h

theorem estream (g : EngId) : Statement (.estream g) :=
  fun _ _ h => nomatch h

theorem entRtailWrite (g : EngId) (c : Fin 4) (v : BitVec 16) : Statement (.entRtailWrite g c v) :=
  fun _ _ h => nomatch h

theorem entResume (g : EngId) (c : Fin 4) : Statement (.entResume g c) :=
  fun _ _ h => nomatch h

theorem entCancel (g : EngId) (c : Fin 4) : Statement (.entCancel g c) :=
  fun _ _ h => nomatch h

theorem compress (p : Fin 20) (n : Nat) : Statement (.compress p n) :=
  fun _ _ h => nomatch h

theorem decompress (p : Fin 20) (n : Nat) : Statement (.decompress p n) :=
  fun _ _ h => nomatch h

theorem skimBlockBoundary (p : Fin 20) : Statement (.skimBlockBoundary p) :=
  fun _ _ h => nomatch h

theorem skmRtailWrite (p : Fin 20) (c : Fin 4) (v : BitVec 16) : Statement (.skmRtailWrite p c v) :=
  fun _ _ h => nomatch h

theorem skmResume (p : Fin 20) (c : Fin 4) : Statement (.skmResume p c) :=
  fun _ _ h => nomatch h

theorem skmCancel (p : Fin 20) (c : Fin 4) : Statement (.skmCancel p c) :=
  fun _ _ h => nomatch h

theorem sqFetch (n : Fin 512) (e : HostErr) : Statement (.sqFetch n e) :=
  fun _ _ h => nomatch h

theorem jobrun (n : Fin 512) (e : HostErr) : Statement (.jobrun n e) :=
  fun _ _ h => nomatch h

theorem castload (n : Fin 512) : Statement (.castload n) :=
  fun _ _ h => nomatch h

theorem castdrop (n : Fin 512) : Statement (.castdrop n) :=
  fun _ _ h => nomatch h

theorem hostReadTimeout (n : Fin 512) (seq : Option (BitVec 32)) : Statement (.hostReadTimeout n seq) :=
  fun _ _ h => nomatch h

theorem hifSqtailWrite (f : Bool) (n : Fin 512) (v : BitVec 32) : Statement (.hifSqtailWrite f n v) :=
  fun _ _ h => nomatch h

theorem hifCqheadWrite (f : Bool) (n : Fin 512) (v : BitVec 32) : Statement (.hifCqheadWrite f n v) :=
  fun _ _ h => nomatch h

theorem hifSqcfgWrite (f : Bool) (n : Fin 512) (v : BitVec 32) : Statement (.hifSqcfgWrite f n v) :=
  fun _ _ h => nomatch h

theorem hifCqcfgWrite (f : Bool) (n : Fin 512) (v : BitVec 32) : Statement (.hifCqcfgWrite f n v) :=
  fun _ _ h => nomatch h

theorem sqResume (f : Bool) (n : Fin 512) : Statement (.sqResume f n) :=
  fun _ _ h => nomatch h

theorem sqCancel (f : Bool) (n : Fin 512) : Statement (.sqCancel f n) :=
  fun _ _ h => nomatch h

theorem sqStart (f : Bool) (n : Fin 512) : Statement (.sqStart f n) :=
  fun _ _ h => nomatch h

theorem cqStart (f : Bool) (n : Fin 512) : Statement (.cqStart f n) :=
  fun _ _ h => nomatch h

theorem msixAggregationEnd (n : Fin 512) : Statement (.msixAggregationEnd n) :=
  fun _ _ h => nomatch h

theorem hifEvcfgWrite (f : Bool) (v : BitVec 32) : Statement (.hifEvcfgWrite f v) :=
  fun _ _ h => nomatch h

theorem hifEvlostRead (f : Bool) : Statement (.hifEvlostRead f) :=
  fun _ _ h => nomatch h

theorem bar2Read (f : Bool) (off : BitVec 64) (len : Nat) : Statement (.bar2Read f off len) :=
  fun _ _ h => nomatch h

theorem bar2Write (f : Bool) (off : BitVec 64) (bs : List Byte) (ep : Bool) : Statement (.bar2Write f off bs ep) :=
  fun _ _ h => nomatch h

theorem bar2Resize (f : Bool) (n : Fin 7) : Statement (.bar2Resize f n) :=
  fun _ _ h => nomatch h

theorem linkDown (f : Bool) : Statement (.linkDown f) :=
  fun _ _ h => nomatch h

theorem linkUp (f : Bool) : Statement (.linkUp f) :=
  fun _ _ h => nomatch h

theorem functionLevelReset (f : Bool) : Statement (.functionLevelReset f) :=
  fun _ _ h => nomatch h

theorem perstN (f : Bool) (high : Bool) : Statement (.perstN f high) :=
  fun _ _ h => nomatch h

theorem configurationSpaceWrite (f : Bool) (w : CfgWrite) : Statement (.configurationSpaceWrite f w) :=
  fun _ _ h => nomatch h

theorem mbxH2mData (f : Bool) (v : Word) : Statement (.mbxH2mData f v) :=
  fun _ _ h => nomatch h

theorem send (f : Bool) : Statement (.send f) :=
  fun _ _ h => nomatch h

theorem clear (f : Bool) : Statement (.clear f) :=
  fun _ _ h => nomatch h

theorem mbxM2hDataRead (f : Bool) : Statement (.mbxM2hDataRead f) :=
  fun _ _ h => nomatch h

theorem mbxM2hAck (f : Bool) (v : Word) : Statement (.mbxM2hAck f v) :=
  fun _ _ h => nomatch h

theorem m2hMessageSend (f : Bool) : Statement (.m2hMessageSend f) :=
  fun _ _ h => nomatch h

theorem nicheSet (f : Bool) : Statement (.nicheSet f) :=
  fun _ _ h => nomatch h

theorem nicheClear (f : Bool) : Statement (.nicheClear f) :=
  fun _ _ h => nomatch h

theorem slotLoad (f : Bool) : Statement (.slotLoad f) :=
  fun _ _ h => nomatch h

theorem takeover (f : Bool) : Statement (.takeover f) :=
  fun _ _ h => nomatch h

theorem fwStage (f : Bool) : Statement (.fwStage f) :=
  fun _ _ h => nomatch h

theorem fwInstall (f : Bool) : Statement (.fwInstall f) :=
  fun _ _ h => nomatch h

theorem fwActivate (f : Bool) : Statement (.fwActivate f) :=
  fun _ _ h => nomatch h

theorem fwActivateTimeout : Statement .fwActivateTimeout :=
  fun _ _ h => nomatch h

theorem mgtStatus (f : Bool) : Statement (.mgtStatus f) :=
  fun _ _ h => nomatch h

theorem cfgSet (f : Bool) : Statement (.cfgSet f) :=
  fun _ _ h => nomatch h

theorem dbgUnlock (f : Bool) : Statement (.dbgUnlock f) :=
  fun _ _ h => nomatch h

theorem nonce (f : Bool) : Statement (.nonce f) :=
  fun _ _ h => nomatch h

theorem heartbeatCheck (beat : Bool) : Statement (.heartbeatCheck beat) :=
  fun _ _ h => nomatch h

theorem mailboxAcknowledgement (f : Bool) : Statement (.mailboxAcknowledgement f) :=
  fun _ _ h => nomatch h

theorem portTrain (n : Fin 16) : Statement (.portTrain n) :=
  fun _ _ h => nomatch h

theorem retrain (f : Bool) (n : Fin 16) : Statement (.retrain f n) :=
  fun _ _ h => nomatch h

theorem trainingComplete (n : Fin 16) (ls : List TrainLane) : Statement (.trainingComplete n ls) :=
  fun _ _ h => nomatch h

theorem trainingRetry (n : Fin 16) : Statement (.trainingRetry n) :=
  fun _ _ h => nomatch h

theorem lpresN (n : Fin 16) (high : Bool) : Statement (.lpresN n high) :=
  fun _ _ h => nomatch h

theorem linkBlockReceive (n : LaneId) (ctl : BitVec 20) (data : List Byte) (ok : Bool) (corrected : Bool)
    : Statement (.linkBlockReceive n ctl data ok corrected) :=
  fun _ _ h => nomatch h

theorem linkReplayTimeout (n : Fin 16) : Statement (.linkReplayTimeout n) :=
  fun _ _ h => nomatch h

theorem alignmentMarkerSend (n : Fin 16) : Statement (.alignmentMarkerSend n) :=
  fun _ _ h => nomatch h

theorem alignmentMarkerReceive (n : Fin 16) (ctl : BitVec 20) (data : List Byte) (depth : Option (BitVec 8))
    : Statement (.alignmentMarkerReceive n ctl data depth) :=
  fun _ _ h => nomatch h

theorem lthModidWrite (f : Bool) (v : Word) : Statement (.lthModidWrite f v) :=
  fun _ _ h => nomatch h

theorem packetForward : Statement .packetForward :=
  fun _ _ h => nomatch h

theorem writePacket : Statement .writePacket :=
  fun _ _ h => nomatch h

theorem signalPacket : Statement .signalPacket :=
  fun _ _ h => nomatch h

theorem ackPacket : Statement .ackPacket :=
  fun _ _ h => nomatch h

theorem nakPacket : Statement .nakPacket :=
  fun _ _ h => nomatch h

theorem nackPacket : Statement .nackPacket :=
  fun _ _ h => nomatch h

theorem discReq : Statement .discReq :=
  fun _ _ h => nomatch h

theorem discRsp : Statement .discRsp :=
  fun _ _ h => nomatch h

theorem barArrive : Statement .barArrive :=
  fun _ _ h => nomatch h

theorem barRelease : Statement .barRelease :=
  fun _ _ h => nomatch h

theorem barrierArriveSend (j : BitVec 32) : Statement (.barrierArriveSend j) :=
  fun _ _ h => nomatch h

theorem barrierJobStart (j : BitVec 32) : Statement (.barrierJobStart j) :=
  fun _ _ h => nomatch h

theorem barrierTimeout (j : BitVec 32) : Statement (.barrierTimeout j) :=
  fun _ _ h => nomatch h

theorem ackTimer (flow : BitVec 12) : Statement (.ackTimer flow) :=
  fun _ _ h => nomatch h

theorem tqEntryTake (t : BitVec 8) : Statement (.tqEntryTake t) :=
  fun _ _ h => nomatch h

theorem e2eTimeout (t : BitVec 8) : Statement (.e2eTimeout t) :=
  fun _ _ h => nomatch h

theorem tqResume (f : Bool) (t : BitVec 8) : Statement (.tqResume f t) :=
  fun _ _ h => nomatch h

theorem tqCancel (f : Bool) (t : BitVec 8) : Statement (.tqCancel f t) :=
  fun _ _ h => nomatch h

theorem lthTqcfgWrite (f : Bool) (t : BitVec 8) (v : Word) : Statement (.lthTqcfgWrite f t v) :=
  fun _ _ h => nomatch h

theorem lthRetryRead (f : Bool) (n : Fin 16) : Statement (.lthRetryRead f n) :=
  fun _ _ h => nomatch h

theorem portDown (n : Fin 16) : Statement (.portDown n) :=
  fun _ _ h => nomatch h

theorem resetCore (f : Bool) (k : CoreId) : Statement (.resetCore f k) :=
  fun _ _ h => nomatch h

theorem resetCluster (f : Bool) (c : ClusId) : Statement (.resetCluster f c) :=
  fun _ _ h => nomatch h

theorem resetMedia (f : Bool) (p : Fin 20) (u : Fin 5) : Statement (.resetMedia f p u) :=
  fun _ _ h => nomatch h

theorem resetPedestal (f : Bool) (p : Fin 20) : Statement (.resetPedestal f p) :=
  fun _ _ h => nomatch h

theorem resetPort (f : Bool) (n : Fin 16) : Statement (.resetPort f n) :=
  fun _ _ h => nomatch h

theorem resetHbm (f : Bool) (k : Fin 12) : Statement (.resetHbm f k) :=
  fun _ _ h => nomatch h

theorem resetComplete : Statement .resetComplete :=
  fun _ _ h => nomatch h

theorem testCore (f : Bool) (k : CoreId) : Statement (.testCore f k) :=
  fun _ _ h => nomatch h

theorem testCluster (f : Bool) (c : ClusId) : Statement (.testCluster f c) :=
  fun _ _ h => nomatch h

theorem testPixel (f : Bool) (g : EngId) : Statement (.testPixel f g) :=
  fun _ _ h => nomatch h

theorem testEntropy (f : Bool) (g : EngId) : Statement (.testEntropy f g) :=
  fun _ _ h => nomatch h

theorem testSkim (f : Bool) (p : Fin 20) : Statement (.testSkim f p) :=
  fun _ _ h => nomatch h

theorem testHbm (f : Bool) (k : Fin 12) : Statement (.testHbm f k) :=
  fun _ _ h => nomatch h

theorem testEnd (p : Fin 20) (x : TestFind) : Statement (.testEnd p x) :=
  fun _ _ h => nomatch h

theorem substitute (f : Bool) (k : CoreId) : Statement (.substitute f k) :=
  fun _ _ h => nomatch h

theorem evcClear (f : Bool) (off : BitVec 24) (src : BitVec 8) : Statement (.evcClear f off src) :=
  fun _ _ h => nomatch h

theorem evcSelect (f : Bool) (off : BitVec 24) (src : BitVec 8) : Statement (.evcSelect f off src) :=
  fun _ _ h => nomatch h

theorem clearall (f : Bool) : Statement (.clearall f) :=
  fun _ _ h => nomatch h

theorem freeze (f : Bool) (on : Bool) : Statement (.freeze f on) :=
  fun _ _ h => nomatch h

theorem sycSet (f : Bool) (id : BitVec 15) (v : Word) : Statement (.sycSet f id v) :=
  fun _ _ h => nomatch h

theorem sycAdd (f : Bool) (id : BitVec 15) (v : Word) : Statement (.sycAdd f id v) :=
  fun _ _ h => nomatch h

theorem sycValRead (f : Bool) (id : BitVec 15) : Statement (.sycValRead f id) :=
  fun _ _ h => nomatch h

theorem reg64LowRead (f : Bool) (a : BitVec 32) (n : Nat) : Statement (.reg64LowRead f a n) :=
  fun _ _ h => nomatch h

theorem registerWrite (f : Bool) (a : BitVec 32) (bs : List Byte) : Statement (.registerWrite f a bs) :=
  fun _ _ h => nomatch h

theorem errorInjectionArm (f : Bool) (a : BitVec 32) (v : Word) : Statement (.errorInjectionArm f a v) :=
  fun _ _ h => nomatch h

theorem envInjection (f : Bool) (a : BitVec 32) (v : Word) : Statement (.envInjection f a v) :=
  fun _ _ h => nomatch h

theorem modPgRise (bif0 : Bool) (bif1 : Bool) (smb : Bool) (vin : BitVec 16) : Statement
    (.modPgRise bif0 bif1 smb vin) :=
  fun _ _ h => nomatch h

theorem modPgFall : Statement .modPgFall :=
  fun _ _ h => nomatch h

theorem orderlyShutdownStage (done : Bool) : Statement (.orderlyShutdownStage done) :=
  fun _ _ h => nomatch h

theorem modRstNLow : Statement .modRstNLow :=
  fun _ _ h => nomatch h

theorem modRstNHigh : Statement .modRstNHigh :=
  fun _ _ h => nomatch h

theorem startupPhase (x : PhaseEnd) : Statement (.startupPhase x) :=
  fun _ _ h => nomatch h

theorem vinLow (vin : BitVec 16) : Statement (.vinLow vin) :=
  fun _ _ h => nomatch h

theorem vinHigh (vin : BitVec 16) : Statement (.vinHigh vin) :=
  fun _ _ h => nomatch h

theorem railShort (p : Fin 20) (r : Rail) : Statement (.railShort p r) :=
  fun _ _ h => nomatch h

theorem senseOpen (p : Fin 20) (r : Rail) : Statement (.senseOpen p r) :=
  fun _ _ h => nomatch h

theorem refclkLoss (ref : Bool) : Statement (.refclkLoss ref) :=
  fun _ _ h => nomatch h

theorem droopTrip (p : Fin 20) (vmem : Bool) (beyond : Bool) : Statement (.droopTrip p vmem beyond) :=
  fun _ _ h => nomatch h

theorem droopClear (edges : Nat) : Statement (.droopClear edges) :=
  fun _ _ h => nomatch h

theorem gateRunLimit : Statement .gateRunLimit :=
  fun _ _ h => nomatch h

theorem throttleSample (pin : BitVec 16) (vin : BitVec 16) (iin : BitVec 16) : Statement
    (.throttleSample pin vin iin) :=
  fun _ _ h => nomatch h

theorem caplimit : Statement .caplimit :=
  fun _ _ h => nomatch h

theorem pwrCapWrite (f : Bool) (v : Word) : Statement (.pwrCapWrite f v) :=
  fun _ _ h => nomatch h

theorem coolantSample (flow : BitVec 16) (inlet : BitVec 16) (outlet : BitVec 16) (r0 : Nat) (r1 : Nat) : Statement
    (.coolantSample flow inlet outlet r0 r1) :=
  fun _ _ h => nomatch h

theorem thermalSample (tj : List (BitVec 16)) (hbm : List (BitVec 16)) : Statement (.thermalSample tj hbm) :=
  fun _ _ h => nomatch h

theorem emergencyShutdownStage : Statement .emergencyShutdownStage :=
  fun _ _ h => nomatch h

theorem vinInRange (vin : BitVec 16) : Statement (.vinInRange vin) :=
  fun _ _ h => nomatch h

theorem vmgtOffRestart : Statement .vmgtOffRestart :=
  fun _ _ h => nomatch h

theorem setEndpointId (eid : BitVec 8) : Statement (.setEndpointId eid) :=
  fun _ _ h => nomatch h

theorem getEndpointId : Statement .getEndpointId :=
  fun _ _ h => nomatch h

theorem getMctpVersionSupport (ty : BitVec 8) : Statement (.getMctpVersionSupport ty) :=
  fun _ _ h => nomatch h

theorem getMessageTypeSupport : Statement .getMessageTypeSupport :=
  fun _ _ h => nomatch h

theorem getPdrRepositoryInfo : Statement .getPdrRepositoryInfo :=
  fun _ _ h => nomatch h

theorem getPdr (h : Nat) : Statement (.getPdr h) :=
  fun _ _ h => nomatch h

theorem getSensorReading (id : BitVec 16) : Statement (.getSensorReading id) :=
  fun _ _ h => nomatch h

theorem getStateSensorReadings (id : BitVec 16) : Statement (.getStateSensorReadings id) :=
  fun _ _ h => nomatch h

theorem setEventReceiver (on : Bool) (eid : BitVec 8) : Statement (.setEventReceiver on eid) :=
  fun _ _ h => nomatch h

theorem getTid : Statement .getTid :=
  fun _ _ h => nomatch h

theorem getPldmTypes : Statement .getPldmTypes :=
  fun _ _ h => nomatch h

theorem getPldmCommands (ty : BitVec 8) : Statement (.getPldmCommands ty) :=
  fun _ _ h => nomatch h

theorem getPldmVersion (ty : BitVec 8) : Statement (.getPldmVersion ty) :=
  fun _ _ h => nomatch h

theorem getVersion (c : Fin 3) : Statement (.getVersion c) :=
  fun _ _ h => nomatch h

theorem getCapabilities (c : Fin 3) : Statement (.getCapabilities c) :=
  fun _ _ h => nomatch h

theorem negotiateAlgorithms (c : Fin 3) (ok : Bool) : Statement (.negotiateAlgorithms c ok) :=
  fun _ _ h => nomatch h

theorem getDigests (c : Fin 3) : Statement (.getDigests c) :=
  fun _ _ h => nomatch h

theorem getCertificate (c : Fin 3) (slot : Fin 8) (off : Nat) (len : Nat) : Statement
    (.getCertificate c slot off len) :=
  fun _ _ h => nomatch h

theorem challenge (c : Fin 3) (slot : Fin 8) (n : BitVec 256) : Statement (.challenge c slot n) :=
  fun _ _ h => nomatch h

theorem getMeasurements (c : Fin 3) (idx : BitVec 8) (signed : Bool) (n : BitVec 256) : Statement
    (.getMeasurements c idx signed n) :=
  fun _ _ h => nomatch h

theorem keyExchange (c : Fin 3) : Statement (.keyExchange c) :=
  fun _ _ h => nomatch h

theorem finish (c : Fin 3) (id : Nat) (ok : Bool) : Statement (.finish c id ok) :=
  fun _ _ h => nomatch h

theorem endSession (c : Fin 3) (id : Nat) : Statement (.endSession c id) :=
  fun _ _ h => nomatch h

theorem spdmHeartbeat (c : Fin 3) (id : Nat) : Statement (.spdmHeartbeat c id) :=
  fun _ _ h => nomatch h

theorem ideKeyManagement (c : Fin 3) (id : Nat) (stream : Fin 2) (go : Bool) : Statement
    (.ideKeyManagement c id stream go) :=
  fun _ _ h => nomatch h

end Sys2Proof.Laws.Bundled
end

