-- ==== Sys2Proof/Laws/Read.lean ====
section
/-! SUPPORT. What a read of plinth memory answers when no injection is armed and no segment is poisoned. -/
namespace Sys2Proof.Machine
open Sys2Proof

/-- Nothing armed, nothing poisoned. -/
def State.Quiet (s : State) : Prop := s.arms = [] ∧ s.poison = []

/-- `n` bytes at `a` lie in the plinth memory of pedestal `p`, which is not substituted. -/
def State.InPlinth (s : State) (p a n : Nat) : Prop :=
  p < 20 ∧ plinthBase p ≤ a ∧ a + n ≤ plinthBase p + 0xA0000000 ∧ s.bad p hPlinth = false

theorem State.arm_quiet {s : State} (h : s.Quiet) (off tgt : Nat) : s.arm off tgt = 0 := by simp [State.arm, h.1]

theorem State.poisoned_quiet {s : State} (h : s.Quiet) (a : Nat) : s.poisoned a = false := by simp [State.poisoned, h.2]

theorem State.anyPoison_quiet {s : State} (h : s.Quiet) (a n : Nat) : s.anyPoison a n = false := by
  simp [State.anyPoison, State.poisoned_quiet h]

theorem State.loc_plinth {s : State} {p a n : Nat} (h : s.InPlinth p a n) {b : Nat} (h1 : a ≤ b) (h2 : b < a + n) :
    s.loc b = .plinth p (b - plinthBase p) := by
  obtain ⟨hp, hlo, hhi, hb⟩ := h
  have e1 : (b - 0x10000000000) / 0x100000000 = p := by unfold plinthBase at *; omega
  have e2 : (b - 0x10000000000) % 0x100000000 = b - plinthBase p := by unfold plinthBase at *; omega
  have l : b - plinthBase p < 0xA0000000 := by unfold plinthBase at *; omega
  unfold State.loc
  rw [if_neg (by unfold plinthBase at *; omega), if_pos (by unfold plinthBase at *; omega), e1, e2, if_pos ⟨l, by simp [hb]⟩]

theorem State.segRead_quiet {s : State} (hq : s.Quiet) {p a n : Nat} (h : s.InPlinth p a n) {b m : Nat} (h1 : a ≤ b) (h2 : b < a + n)
    (r : Rec) : s.segRead r b m = (cDone, s) := by
  simp [State.segRead, State.segFind, State.injFind, State.loc_plinth h h1 h2, State.arm_quiet hq, State.anyPoison_quiet hq,
    cDone, cPoisonedInput]

theorem State.mpaBytes_plinth {s : State} {p a n : Nat} (h : s.InPlinth p a n) (m b : Nat) (h1 : a ≤ b) (h2 : b + m ≤ a + n) :
    s.mpaBytes b m = s.mpa.bytes b m := by
  induction m generalizing b with
  | zero => rfl
  | succ m ih =>
    have e := ih (b + 1) (by omega) (by omega)
    unfold State.mpaBytes at e
    have c : s.mpaByte b = s.mpa.byte b := by simp [State.mpaByte, State.loc_plinth h h1 (show b < a + n by omega)]
    simp [State.mpaBytes, rangeFrom, Memory.bytes, e, c]

theorem Memory.bytes_append (m : Memory) (a i j : Nat) : m.bytes a i ++ m.bytes (a + i) j = m.bytes a (i + j) := by
  induction i generalizing a with
  | zero => simp [Memory.bytes]
  | succ i ih =>
    have e := ih (a + 1)
    rw [show a + 1 + i = a + (i + 1) by omega] at e
    rw [show i + 1 + j = (i + j) + 1 by omega]
    simp [Memory.bytes, e]

/-- The pieces of a run that are read quietly: the bytes in order, each DONE. -/
theorem State.runRead_fold {s : State} (hq : s.Quiet) {p a n : Nat} (h : s.InPlinth p a n) (r : Rec) (fuel b m : Nat)
    (hf : m < fuel) (h1 : a ≤ b) (h2 : b + m ≤ a + n) (acc : List (List Byte × Nat)) :
    ∃ ps, (segPieces fuel b m).foldl (fun (acc : List (List Byte × Nat) × State) q =>
        let (c, s) := acc.2.segRead r q.1 q.2
        (acc.1 ++ [(s.mpaBytes q.1 q.2, c)], s)) (acc, s) = (acc ++ ps, s) ∧
      ps.flatMap (·.1) = s.mpa.bytes b m ∧ ∀ x ∈ ps, x.2 = cDone := by
  induction fuel generalizing b m acc with
  | zero => omega
  | succ fuel ih =>
    unfold segPieces
    by_cases h0 : m = 0
    · subst h0; exact ⟨[], by simp [Memory.bytes]⟩
    · rw [if_neg h0]
      have hk : 0 < min m (64 - b % 64) := by omega
      have hle : min m (64 - b % 64) ≤ m := by omega
      generalize min m (64 - b % 64) = k at hk hle ⊢
      obtain ⟨ps, e, f, g⟩ := ih (b + k) (m - k) (by omega) (by omega) (by omega) (acc ++ [(s.mpa.bytes b k, cDone)])
      refine ⟨(s.mpa.bytes b k, cDone) :: ps, ?_, ?_, ?_⟩
      · simp only [List.foldl_cons, State.segRead_quiet hq h h1 (show b < a + n by omega), State.mpaBytes_plinth h k b h1 (by omega)]
        rw [e]; simp
      · rw [List.flatMap_cons, f, Memory.bytes_append]; congr 1; omega
      · intro x hx
        rcases List.mem_cons.mp hx with rfl | hx
        · rfl
        · exact g x hx

/-- A quiet read of plinth memory answers its bytes and changes nothing. -/
theorem State.readRun_quiet {s : State} (hq : s.Quiet) {p a n : Nat} (h : s.InPlinth p a n) (r : Rec) :
    s.readRun r a n = (s.mpa.bytes a n, cDone, s) := by
  obtain ⟨ps, e, f, g⟩ := State.runRead_fold hq h r (n + 1) a n (by omega) (Nat.le_refl _) (Nat.le_refl _) []
  have e' : s.runRead r a n = (ps, s) := by unfold State.runRead; rw [e]; simp
  have hc : firstCode (ps.map (·.2)) = cDone := by
    have : (ps.map (·.2)).find? (· ≠ cDone) = none := by
      simp only [List.find?_eq_none, List.mem_map]
      rintro x ⟨y, hy, rfl⟩
      simp [g y hy]
    unfold firstCode; rw [this]; rfl
  simp [State.readRun, e', f, hc]

/-- With nothing armed no slot is lost. -/
theorem State.dynCross_quiet {s : State} (hq : s.Quiet) (r : Rec) (a b : Nat) : s.dynCross r a b = (false, s) := by
  have e : s.slotFails (dynOuts 9 a b) = (false, s) := by
    unfold State.slotFails
    rw [List.find?_eq_none.mpr (fun x _ => by simp [State.arm_quiet hq])]
  unfold State.dynCross; split
  · rfl
  · simp [e]

/-- A quiet read for a unit of another pedestal answers the same. -/
theorem State.farRead_quiet {s : State} (hq : s.Quiet) {p a n : Nat} (h : s.InPlinth p a n) (u : Nat) (r : Rec) :
    s.farRead u r a n = (s.mpa.bytes a n, cDone, s) := by
  simp [State.farRead, State.readRun_quiet hq h, State.dynCross_quiet hq]

theorem State.readPlinth_quiet {s : State} (hq : s.Quiet) {p a n : Nat} (h : s.InPlinth p a n) (hn : 0 < n) (only : Option Nat)
    (ho : only = none ∨ only = some p) : s.readPlinth only a n = (cDone, s.mpa.bytes a n, s) := by
  unfold State.readPlinth
  have e : only.getD p = p := by rcases ho with rfl | rfl <;> rfl
  rw [State.loc_plinth h (Nat.le_refl a) (by omega), State.loc_plinth h (b := a + n - 1) (by omega) (by omega)]
  simp [e, State.farRead_quiet hq h]

/-! ## A record of bytes read -/

/-- Bytes read and kept as a record read as they did, and zero past them. -/
theorem recordOf_byte (bs : List Byte) (i : Nat) : (recordOf bs).byte i = bs.getD i 0 := by
  unfold recordOf
  by_cases h : i < bs.length
  · have := Memory.byte_write_inside bs 0 i h []
    simpa [List.getD, h] using this
  · rw [Memory.byte_write_other bs 0 i (by omega)]
    simp [Memory.byte, Memory.unlisted, List.getD, h]

/-- A record that lies in memory shifted by `a`, everything past its `n` bytes zero, is what a read of it keeps. -/
theorem recordOf_shifted {m : Memory} (hm : m.wf = true) (a n : Nat) (hn : ∀ e ∈ m, e.1 < n) :
    recordOf (Memory.bytes (List.map (fun e => (e.1 + a, e.2)) m) a n) = m := by
  have shift : ∀ (t : Memory) (i : Nat), Memory.byte (List.map (fun e => (e.1 + a, e.2)) t) (a + i) = Memory.byte t i := by
    intro t i
    induction t with
    | nil => rfl
    | cons e t ih =>
      simp only [Memory.byte, List.map_cons, Tbl.get] at ih ⊢
      rw [ih]
      by_cases h : e.1 = i
      · rw [if_pos h, if_pos (by omega)]
      · rw [if_neg h, if_neg (by omega)]
  have get : ∀ (k b i : Nat) (t : Memory), (Memory.bytes t b k).getD i 0 = if i < k then t.byte (b + i) else 0 := by
    intro k
    induction k with
    | zero => intro b i t; simp [Memory.bytes]
    | succ k ih =>
      intro b i t
      cases i with
      | zero => simp [Memory.bytes]
      | succ i => simp only [Memory.bytes, List.getD_cons_succ, ih]; simp only [Nat.add_lt_add_iff_right, show b + 1 + i = b + (i + 1) by omega]
  have zero : ∀ (t : Memory) (i : Nat), (∀ e ∈ t, e.1 < n) → n ≤ i → Memory.byte t i = 0 := by
    intro t i ht hi
    induction t with
    | nil => rfl
    | cons e t ih =>
      have := ht e (by simp)
      simp only [Memory.byte, Tbl.get] at ih ⊢
      rw [if_neg (by omega)]
      exact ih (fun x hx => ht x (by simp [hx]))
  refine Tbl.ext_of_wf Memory.unlisted (Memory.wf_write _ _ _ rfl) hm (fun i => ?_)
  have e := recordOf_byte (Memory.bytes (List.map (fun e => (e.1 + a, e.2)) m) a n) i
  rw [get, shift] at e
  show (recordOf _).byte i = m.byte i
  rw [e]
  split
  · rfl
  · exact (zero m i hn (by omega)).symm

end Sys2Proof.Machine
end

