-- ==== Sys2Proof/Tests/Slice0.lean ====
section
/-! SUPPORT. Tests of the model: states on which the hypotheses of the statements hold, checks of well-formedness, and slot words
written out from Tables 07.4 to 07.7. -/
namespace Sys2Proof.Tests
open Sys2Proof Sys2Proof.Machine

section
-- one thread: each theorem is small, and a thread for each would need its own stack
set_option Elab.async false

/-! ## States -/

/-- A function whose link is up, with bus mastering. -/
def hifUp : Hif := { Hif.reset with linkUp := true, bme := true, perstN := true, msixEn := true }

/-- A module that is ready: both links up, the controller active, every rail on. -/
def up : State :=
  { State.reset with
    now := 100
    hif0 := hifUp, hif1 := hifUp
    pwr := { Pwr.reset with pg := true, phase := 11, state := 1, vmgt := true, lock := true, refok := true, ready := true, vin := 5400 }
    mgt := { Mgt.reset with phase := 1, eid := 8 } }

/-- A cast of one core in cluster 0, and a job of it. -/
def img0 : CoreImg := ⟨64, [], [], []⟩
def cast0 : Cast := ⟨1, [0], 0, 0, [], [img0], [[]]⟩
def job0 : Job :=
  ⟨.running, 0, 0, cast0, [5, 6], 7, 0, false, 0, 0, false, 0, 0, none, none, none, false, [], [], 1⟩

/-- A core in service on which job 1 runs, its first sixteen bundles supplied. -/
def core0 : Core :=
  { Core.reset with st := .run, insvc := true, job := some 1, stepFrom := some 90, supplied := (rangeFrom 0 16).map (fun i => (i, true)) }

/-- Core 0 of the module, running. -/
def k0 : CoreId := ⟨0, 0, 0⟩
def running : State :=
  { up with cores := [(0, core0)], jobs := [(1, some job0)], niches := [(0, ⟨some false, 0, 1, (rangeFrom 0 20).map (fun p => (p, 0x04000000))⟩)] }
/-- Slot tables in which the last slot of the frame carries route 0 of cluster 0 to the own pedestal for niche 0. -/
def image0 : Memory := Memory.write (0xC8000 + 4095 * 2) [0, 0x80] (Memory.write ((4095 * 5 + 4) * 2) [5, 0x80] [])

/-- The running core with data to work on. -/
def loaded : State :=
  { running.updCore 0 (fun c => { c with
      sreg := [(1, 7), (2, 0x100), (3, 100), (4, 5), (5, 0x800000), (6, 0x40), (7, 0x100000000080), (8, 0x200002), (9, 0x4000000400), (10, 0xFFFFFFFF), (11, 1029)],
      preg := [(1, 5), (2, 7)], vreg := [(64 * 2, 0x3F800000), (64 * 2 + 1, 0x40000000), (64 * 3, 0x7F800000), (64 * 3 + 1, 0x3F000000)],
      cstore := (rangeFrom 0 300).map (fun a => (a, BitVec.ofNat 8 (a % 7 + 1))) }) with
    dshare := 4095, slots := some image0 }

/-- A descriptor of zeros, and an entry of it. -/
def desc0 : Desc :=
  { op := 0, sk := 0, dk := 0, cen := false, fence := false, nonres := false, bar := false, bad := false, len := 0, src := 0, dst := 0
    rows := 0, sstride := 0, dstride := 0, ctr := 0, inc := 0, fillv := 0, tag := 0, handle := 0, args := 0, seed := 0, tlimit := 0, bgrp := 0 }
def entry0 : Entry := Entry.new 0 desc0 90
/-- A staged job on cluster 0, whose core 0 is free. -/
def staged : State := { up with
  cores := [(0, { Core.reset with insvc := true, sreg := [(9, 9)] })], jobs := [(1, some { job0 with st := .staged })]
  niches := running.niches, sqs := [(0, { Sq.reset with entries := [{ entry0 with phase := .accepted, job := some 1 }] })] }
def halted : State := running.updCore 0 (fun c => { c with st := .halted })
def stopping : State := { running with jobs := [(1, some { job0 with st := .stopping, stopCode := cTimeout })] }
def limited : State := { running with jobs := [(1, some { job0 with tlimit := 5 })] }
def parkedQ : DQueue := { DQueue.reset with entries := [{ entry0 with phase := .parked }] }
def preempted : State := { running.updCore 0 (fun c => { c with q0 := parkedQ }) with
  jobs := [(1, some { job0 with stopIdx := some 4 })] }
def suspending : State := { running.updCore 0 (fun c => { c with st := .suspended, sreg := [(3, 33)] }) with
  jobs := [(1, some { job0 with stopIdx := some 4 })] }
def saved0 : SavedCore :=
  { key := 0, ctx := some (Core.context 0 { Core.reset with sreg := [(3, 33)], pc := 7, stepHeld := 40 }), halted := false, istore := [], supplied := []
    bank0 := .zero, bank1 := .zero, active := false, upto := 0, cstore := [], q0 := .reset, q1 := .reset, q2 := .reset, q3 := .reset, sends := []
    hold := none, wait := none }
def suspended : State := { up with
  cores := [(0, { Core.reset with insvc := true })], niches := running.niches
  jobs := [(1, some { job0 with st := .suspended, saved := [saved0], savedClus := [⟨0, [(3, 1)], 16, 5⟩] })] }
/-- A window of niche 0 on pedestal 0: the first 2 MiB of its DVAs lie at offset 0x200000 of the pedestal's plinth. -/
def map0 : BitVec 128 := BitVec.ofNat 128 (0xF + 2 ^ 64 * (0x10000100000 + 2 ^ 48))
def paged (mem : List (Nat × List Byte)) : State :=
  let s := running.updPed 0 (fun d => { d with win := [(0, map0)] })
  { s with mpa := mem.foldl (fun m x => Memory.write x.1 x.2 m) (Memory.write 0x10000100000 (leBytes 0x10000200003 8) []) }
/-- MPA of a DVA of that window. -/
def dva (a : Nat) : Nat := 0x10000200000 + a
/-- A context record that R446 accepts: 64 by 64, blocks of 8. -/
def ctxBytes : List Byte :=
  let m := Memory.write 0 (leBytes 1 4 ++ [64, 0, 64, 0, 1, 2, 0, 1, 128, 0]) []
  (Memory.write 0x28 [2] (Memory.write 0x44 [1] (Memory.write 0x50 [1] m))).bytes 0 512
def g00 : EngId := ⟨0, 0⟩
/-- A ring of one command: its entry lies at offset 0x1000 of the plinth. -/
def ringed (key op : Nat) (arg : Nat) (mem : List (Nat × List Byte)) : State :=
  (paged ((0x10000001000, leBytes op 8 ++ leBytes 0 8 ++ leBytes arg 8) :: mem)).updPed 0 (fun d =>
    { d with rings := [(key, { Ring.reset with base := 0x1000, cfg := 4, tail := 1 })]
             pixCtxBase := 0x40000, entCtxBase := 0x60000 })
def srecBytes (cfg : Nat) : List Byte :=
  (Memory.write 0x18 [2] (Memory.write 0x30 [2] (Memory.write 0x0A [1] (Memory.write 0x0C [15] [(0, BitVec.ofNat 8 cfg)])))).bytes 0 128
def entRing (op arg cfg : Nat) (mem : List (Nat × List Byte)) : State :=
  (ringed (ringKey 1 0 0) op arg ([(0x10000040000, ctxBytes), (0x10000060000, srecBytes cfg)] ++ mem)).updPed 0 (fun d => { d with counters := [(0, 5)] })
def t1 := entRing 1 0x3000 1 [(dva 0x3000, srecBytes 1)]
def frameCtx : Memory := Memory.write 0 (leBytes 1 4 ++ [8, 0, 16, 0, 1, 2, 0, 1, 128, 0]) []
def frameRec : Memory := Memory.write 0 [0x0C] []
def pixCmd0 (op : Nat) : PixCmd := ⟨⟨0, 0, op, false, 0, 0, 0, 0⟩, frameCtx, frameRec, [⟨0, 0x10000, 0x10000200000⟩], 0, [], 0, []⟩
def sqEn : Sq := { Sq.reset with cfg := 0x80000004, base := 0x10000, owner := some false, tail := 1 }
def hostMem (bs : List (Nat × List Byte)) : Memory := bs.foldl (fun m x => Memory.write x.1 x.2 m) []
/-- SQ 0 and CQ 0 of function 0 enabled, an entry in the host's memory. -/
def hosted (q : Sq) (mem : List (Nat × List Byte)) : State :=
  { running with hif0 := { hifUp with mem := hostMem mem }, sqs := [(0, q)], cqs := [(0, { Cq.reset with cfg := 0x80000004, base := 0x20000, owner := some false })] }
def mb (ws : List Word) (f : Mbx → Mbx) : State := { up with hif0 := { hifUp with mbx := f { Mbx.reset with h2m := ws } } }

/-- Do these bundles all issue in state `s` on core 0? -/
def allIssue (s : State) (bs : List Bundle) : Bool := bs.all (fun b => (s.issuable 0 b).isSome)
def bV (v : VSlot) : Bundle := { Bundle.nop with v := v }
def bM (m : MSlot) : Bundle := { Bundle.nop with m := m }
def bC (c : CSlot) : Bundle := { Bundle.nop with c := c }
def bT (t : TSlot) : Bundle := { Bundle.nop with t := t }

/-! ## The states are sound -/

theorem test_states_sound : [State.reset, up, running, loaded, staged, halted, stopping, limited, preempted, suspending, suspended,
    paged [], hosted sqEn []].all State.wf = true := by decide +kernel
theorem test_unsound : State.wf { up with mpa := [(3, 0)] } = false ∧ State.wf { up with mpa := [(3, 1), (3, 2)] } = false := by decide +kernel

/-! ## The queue -/

theorem witness_StepRunsFront : ({ up with pending := [.yield k0 .nop, .clear false] } : State).pending = [.yield k0 .nop, .clear false] := rfl
theorem test_step_idle : step State.reset = .next State.reset := rfl
theorem test_withFetchWord : State.reset.withFetchWord 8 3 = State.reset := rfl
/-- The state after a command. -/
def after (i : Instr) (s : State) : State :=
  match exec i s with
  | .next t => t
  | _ => s
theorem witness_StepKeepsQueueRest : step { up with pending := [.clear false, .yield k0 .nop] } = .next (after (.clear false) { up with pending := [.yield k0 .nop] }) ∧
    (after (.clear false) { up with pending := [.yield k0 .nop] }).pending = [.yield k0 .nop] := ⟨rfl, by decide +kernel⟩
theorem witness_StepKeepsSound : up.wf = true ∧ (after (.clear false) up).wf = true := by decide +kernel

/-! ## Slot words of Tables 07.4 to 07.7, and slots that R283 refuses -/

/-- A slot word from its opcode and its fields, each a low bit number and a value. -/
def word (op : Nat) (fs : List (Nat × Nat)) : BitVec 64 := BitVec.ofNat 64 (fs.foldl (fun a f => a + f.2 * 2 ^ f.1) (op * 2 ^ 56))

/-- Table 07.4: TMMA t1 INIT PP 2 FA 3 FB 2 MR 31 NR 4 KM 4,095 SA 5 SB 6 SP 7; TST t6 s9. -/
theorem test_decode_t :
    decodeT (word 0x01 [(53, 1), (52, 1), (50, 2), (47, 3), (44, 2), (39, 31), (34, 4), (22, 4095), (17, 5), (12, 6), (7, 7)]) =
      some (.tmma 1 true 2 3 2 31 4 4095 5 6 7) ∧
    decodeT (word 0x02 [(53, 2), (50, 4), (45, 9)]) = some (.tld 2 4 9) ∧
    decodeT (word 0x03 [(53, 6), (45, 9)]) = some (.tst 6 9) ∧
    decodeT (word 0x04 [(53, 5), (50, 2), (46, 9), (45, 1), (41, 6), (24, 0xBEEF), (19, 3), (14, 4), (9, 17), (4, 18)]) =
      some (.tcvt 5 2 ⟨9, true, false, 6, false, 0xBEEF⟩ 3 4 17 18) := by decide +kernel

/-- Table 07.5: VFMA v1 = v2 × v3 + v4 under PR 0b1010; VSAR; VCVT; VSFU 0x26; VNORM; VGETST. -/
theorem test_decode_v :
    decodeV (word 0x05 [(51, 1), (46, 2), (41, 3), (36, 4), (32, 10)]) = some (.farith .fma 1 2 3 4 10) ∧
    decodeV (word 0x18 [(51, 31), (46, 2), (41, 3), (32, 1)]) = some (.iarith .sar 31 2 3 1) ∧
    decodeV (word 0x08 [(53, 7), (46, 2), (41, 3), (38, 6), (32, 1)]) = some (.cmp 7 2 3 6 1) ∧
    decodeV (word 0x20 [(51, 1), (46, 2), (43, 4), (40, 2), (36, 5), (30, 63), (28, 1), (25, 3), (8, 0x1234), (3, 30)]) =
      some (.cvt 1 2 4 2 63 ⟨5, false, true, 3, false, 0x1234⟩ 30) ∧
    decodeV (word 0x30 [(50, 0x26), (45, 3), (40, 4), (37, 2), (34, 3), (30, 8)]) = some (.sfu 0x26 3 4 2 3 8) ∧
    decodeV (word 0x32 [(53, 3), (50, 2), (45, 1), (40, 2), (35, 3), (30, 4), (29, 1), (24, 5)]) = some (.norm 3 2 1 2 3 4 true 5) ∧
    decodeV (word 0x4A [(51, 2), (49, 3), (45, 15)]) = some (.getst 2 3 15) := by decide +kernel

/-- Table 07.6: SLD with OFF −8; VST with PR; DMAQ of queue 3; ASEND of 256 slots. -/
theorem test_decode_m :
    decodeM (word 0x01 [(51, 1), (46, 2), (26, 0xFFFF8)]) = some (.sld 1 2 0xFFFF8) ∧
    decodeM (word 0x04 [(51, 1), (48, 3), (43, 2), (23, 0x40), (19, 9)]) = some (.vst 1 3 2 0x40 9) ∧
    decodeM (word 0x08 [(54, 3), (49, 4), (44, 5)]) = some (.dmaq 3 4 5) ∧
    decodeM (word 0x10 [(44, 0xABC), (36, 255), (31, 1), (26, 2), (25, 1), (20, 3)]) = some (.asend 0xABC 255 1 2 true 3) := by
  decide +kernel

/-- Table 07.7: SUB, ADDI, PXOR, BR on a clear predicate, SSIG, SWAIT, FCLR, SGETST. -/
theorem test_decode_c :
    decodeC (word 0x02 [(51, 1), (46, 2), (41, 3)]) = some (.alu .sub 1 2 3) ∧
    decodeC (word 0x0A [(51, 1), (46, 2), (14, 0x80000001)]) = some (.addi 1 2 0x80000001) ∧
    decodeC (word 0x12 [(53, 1), (50, 2), (47, 3)]) = some (.palu .xor 1 2 3) ∧
    decodeC (word 0x20 [(54, 2), (51, 5), (0, 0x123)]) = some (.br 2 5 0x123) ∧
    decodeC (word 0x28 [(51, 9), (35, 0xFFFF)]) = some (.ssig 9 0xFFFF) ∧
    decodeC (word 0x29 [(53, 1), (52, 1), (46, 4), (41, 5), (17, 0xABCDEF)]) = some (.swait 1 true false 4 5 0xABCDEF) ∧
    decodeC (word 0x30 [(52, 5)]) = some (.fclr 5) ∧
    decodeC (word 0x31 [(51, 3), (49, 2), (45, 7), (39, 33)]) = some (.sgetst 3 2 7 33) := by decide +kernel

/-- R281, R283. Opcodes that no table lists and reserved bits are refused in their slot alone. -/
theorem test_decode_refused :
    decodeBundle (0xFF <<< 120) = (Bundle.nop, [1]) ∧ decodeBundle 1 = (Bundle.nop, [0]) ∧
    decodeBundle (0x05 <<< 184) = (Bundle.nop, [2]) ∧ decodeBundle ((0x33 <<< 248) ||| (0x05 <<< 56)) = (Bundle.nop, [0, 3]) ∧
    decodeV (word 0x01 [(36, 4)]) = none ∧ decodeC (word 0x2A [(0, 1)]) = none := by decide +kernel

theorem witness_BundleRoundTrip :
    Bundle.wf ⟨.tld 2 4 9, .farith .fma 1 2 3 4 10, .sld 1 2 8, .alu .sub 1 2 3⟩ = true ∧
    decodeBundle (encodeBundle ⟨.tld 2 4 9, .farith .fma 1 2 3 4 10, .sld 1 2 8, .alu .sub 1 2 3⟩) =
      (⟨.tld 2 4 9, .farith .fma 1 2 3 4 10, .sld 1 2 8, .alu .sub 1 2 3⟩, []) := by decide +kernel
theorem witness_BundleWordUnique : decodeBundle (0x2A <<< 248) = (bC .yield, []) := by decide +kernel

/-! ## Well-formedness: an ill-formed term for each check, and its neighbour that passes -/

theorem test_wf_bundle :
    Instr.wf (.sfswap k0 (bV (.farith .add 1 2 3 4 0))) = false ∧ Instr.wf (.sfswap k0 (bV (.farith .fma 1 2 3 4 0))) = true := by
  decide +kernel
theorem test_wf_counter :
    Instr.wf (.syncSignalApply 20480) = false ∧ Instr.wf (.syncSignalApply 20479) = true ∧ Instr.wf (.sycSet false 20480 0) = false ∧
    Instr.wf (.sycAdd false 20480 0) = false ∧ Instr.wf (.sycValRead false 20480) = false := by decide +kernel
theorem test_wf_refresh :
    Instr.wf (.refreshWindow 0 0 [(0xA0000000, true)]) = false ∧ Instr.wf (.refreshWindow 0 0 [(0x9FFFF000, true)]) = true := by
  decide +kernel
theorem test_wf_lengths :
    Instr.wf (.bar2Read false 0 0) = false ∧ Instr.wf (.bar2Read false 0 4097) = false ∧ Instr.wf (.bar2Read false 0 4096) = true ∧
    Instr.wf (.bar2Write false 0 [] false) = false ∧ Instr.wf (.registerWrite false 0 []) = false ∧
    Instr.wf (.reg64LowRead false 0 0) = false := by decide +kernel
theorem test_wf_lath :
    Instr.wf (.trainingComplete 0 (List.replicate 9 laneOpen)) = false ∧
    Instr.wf (.linkBlockReceive ⟨0, 0⟩ 0 (List.replicate 641 0) true false) = false ∧
    Instr.wf (.linkBlockReceive ⟨0, 0⟩ 0 (List.replicate 640 0) true false) = true ∧
    Instr.wf (.alignmentMarkerReceive 0 0 (List.replicate 641 0) none) = false := by decide +kernel
theorem test_wf_tests :
    Instr.wf (.testEnd 0 ⟨0, 0, 0, 0, List.replicate 4097 (0, 0, 0), false, []⟩) = false ∧
    Instr.wf (.startupPhase ⟨false, [false, true, false], [], []⟩) = false ∧
    Instr.wf (.startupPhase ⟨false, [], [], [(0, 0, ⟨0, 0, 0, 0, List.replicate 4097 (0, 0, 0), false, []⟩)]⟩) = false := by decide +kernel
theorem test_wf_others :
    Instr.wf (.evcClear false 8 0) = false ∧ Instr.wf (.evcSelect false 8 0) = false ∧ Instr.wf (.evcSelect false 16 0) = true ∧
    Instr.wf (.thermalSample (List.replicate 21 0) []) = false ∧ Instr.wf (.thermalSample [] (List.replicate 13 0)) = false ∧
    Instr.wf (.getPdr 0) = false := by decide +kernel

/-! ## Number formats (worked values of R65 to R67) -/

theorem test_formats :
    readFloat .fe8 0x38 = .num ⟨8, -4⟩ ∧ readFloat .fe8 0x80 = .nan ∧ readFloat .fa32 0x3F800000 = .num ⟨2 ^ 23, -23⟩ ∧
    readFloat .fe16 0xFFFF = .num ⟨-1023, 22⟩ := by decide +kernel
theorem witness_FormatCodes : (0 < 8 ∧ 0 < 512 ∧ 0 < 2 ^ 23) ∧ (7 < 8 ∧ 511 < 512 ∧ 2 ^ 23 - 1 < 2 ^ 23) ∧ (1 ≤ 15 ∧ 1 ≤ 63 ∧ 1 ≤ 254) := by decide
/-- R171: 1.0 + 2.0, 1.5 × 2.0, and −1 / 0, which is the largest magnitude with OVF. -/
theorem test_float_ops :
    fadd 0x3F800000 0x40000000 = (0x40400000, Flag.none) ∧ fmul 0x3FC00000 0x40000000 = (0x40400000, Flag.none) ∧
    fdiv 0xBF800000 0 = (0xFF7FFFFF, Flag.ovf) ∧ fmin 0x80000000 0 = (0, Flag.none) := by decide +kernel

/-! ## Slot commands: bundles that issue -/

theorem witness_SlotCommandsIssue :
    Instr.issues (.vadd k0 Bundle.nop 1 2 3 0) = some (k0, bV (.farith .add 1 2 3 0 0)) ∧
    loaded.issuable (coreKey k0) (bV (.farith .add 1 2 3 0 0)) = some job0 := by decide +kernel
theorem witness_SlotCommandsFrame :
    Instr.issues (.dmaq k0 Bundle.nop 1 12 6) = some (k0, bM (.dmaq 1 12 6)) ∧ loaded.issuable (coreKey k0) (bM (.dmaq 1 12 6)) = some job0 := by
  decide +kernel
theorem witness_FloatLanes :
    allIssue loaded ([.add, .sub, .mul, .div, .min, .max].map (fun o => bV (.farith o 1 2 3 0 8)) ++ [bV (.farith .fma 1 2 3 4 1)]) = true := by
  decide +kernel
theorem witness_IntegerLanes :
    allIssue loaded ([.add, .sub, .mul, .and, .or, .xor, .shl, .shr, .sar, .min, .max].map (fun o => bV (.iarith o 1 2 3 9))) = true := by
  decide +kernel
theorem witness_LaneMoves :
    allIssue loaded [bV (.cmp 1 3 4 7 0), bV (.cmp 1 3 4 0 0), bV (.sel 2 3 4 9), bV (.bcast 2 5), bV (.ext 6 3 63), bV (.ipsum 2 3 9),
      bV (.rng 2 7 15), bV (.getst 2 0 1), bV (.getst 2 2 15)] = true := by decide +kernel
theorem witness_LaneConversions :
    Fmt.ofCode 4 = some .fa32 ∧ Fmt.ofCode 2 = some .fe8 ∧ Fmt.ofCode 0 = some .fq8 ∧
    allIssue loaded [bV (.cvt 2 3 4 2 3 ⟨1, true, false, 0, false, 5⟩ 6), bV (.cvt 2 3 4 0 3 ⟨1, true, true, 1, true, 5⟩ 6),
      bV (.cvt 2 3 2 0 3 ⟨1, true, true, 1, true, 5⟩ 6), bV (.sfu 1 2 3 4 2 0), bV (.sfu 1 2 3 2 4 9)] = true := by decide +kernel

/-- Registers for row operations. -/
def rows : State := loaded.updCore 0 (fun c => { c with
  sreg := [(2, 0x4000000100), (3, 0x3F800000), (6, 0x8000000040), (7, 0x1000), (8, 0x20002), (12, 0x10002), (13, 2)]
  cstore := (rangeFrom 0 600).map (fun a => (a, BitVec.ofNat 8 (a % 7 + 1))) })
theorem witness_RowOperations :
    allIssue rows [bV (.cvtr 4 0 ⟨1, true, true, 0, true, 5⟩ false 2 6 7 8), bV (.cvtr 4 2 ⟨1, true, false, 0, true, 5⟩ false 2 6 7 8),
      bV (.smax 4 2 2 6 12), bV (.norm 4 2 2 6 12 3 true 6), bV (.norm 4 2 2 6 12 3 false 6), bV (.boxd 2 6 13 6), bV (.nms 2 6 13 6)] = true := by
  decide +kernel

/-- Operands of the tensor slot. -/
def tens : State := loaded.updCore 0 (fun c => { c with
  sreg := [(2, 0x0000010000), (6, 0x400000000), (7, 0x1000)], cstore := (rangeFrom 0 600).map (fun a => (a, BitVec.ofNat 8 (a % 7 + 1)))
  tile := [(1024, 0x3F800000), (1024 + 32, 0x40000000)] })
theorem witness_TensorOperations :
    pairKind .fe8 .fe8 = some false ∧ passesOf .fe8 1 = some 1 ∧ pairKind .fq8 .fq8 = some true ∧ passesOf .fq8 1 = some 1 ∧
    allIssue tens [bT (.tmma 0 true 1 2 2 1 1 1 2 6 7), bT (.tmma 0 true 1 0 0 1 1 1 2 6 7), bT (.tmma 1 false 1 2 2 1 1 1 2 6 7),
      bT (.tld 0 4 2), bT (.tst 1 6), bT (.tcvt 1 2 ⟨1, true, false, 0, true, 5⟩ 1 1 6 7), bT (.tcvt 1 0 ⟨1, true, true, 0, true, 5⟩ 1 1 6 7)] = true := by
  decide +kernel
theorem witness_ScalarArithmetic :
    allIssue loaded ([.add, .sub, .mul, .and, .or, .xor, .shl, .shr, .sar].map (fun o => bC (.alu o 1 2 3)) ++
      [bC (.addi 1 2 0xFFFFFFFF), bC (.movi 1 5), bC (.movhi 1 5)]) = true := by decide +kernel
theorem witness_PredicatesAndStatus :
    allIssue loaded ([0, 1, 2, 3, 4, 5].map (fun cc => bC (.scmp 1 4 5 cc)) ++ [bC (.palu .and 1 2 3), bC (.palu .or 1 2 3),
      bC (.palu .xor 1 2 3), bC (.pnot 1 2), bC (.pmov 1 5), bC (.smovp 4 2), bC (.sgetst 4 0 2 3), bC (.sstep 4)]) = true := by decide +kernel
theorem witness_LoadsAndStores :
    lanesFormat 2 = some .fe8 ∧ lanesFormat 4 = some .fa32 ∧
    allIssue loaded [bM (.sld 1 2 8), bM (.sld 1 5 0x10), bM (.sst 2 2 8), bM (.sst 2 5 0x10), bM (.vld 5 2 6 0x10), bM (.vld 5 4 5 0x20),
      bM (.vst 2 2 6 0x10 0), bM (.vst 2 4 5 0x20 9)] = true := by decide +kernel
theorem witness_QueueInstructions :
    allIssue loaded [bM (.dmaq 1 12 6), bM (.dwait 3 10), bM (.asend 0 0 6 5 true 4)] = true := by decide +kernel
theorem witness_ControlInstructions :
    allIssue loaded [bC (.br 0 1 20), bC (.br 1 1 20), bC (.br 2 1 20), bC (.ssig 4 1), bC (.ssig 11 1), bC (.swait 1 true false 4 4 9),
      bC (.swait 1 true true 4 20 9), bC .yield, bC .halt, bC (.fclr 5), bV .sfswap, Bundle.nop] = true := by decide +kernel

/-- A bundle whose V slot no table lists. -/
theorem witness_InstructionFaults :
    decodeBundle (0xFF <<< 120) = (Bundle.nop, [1]) ∧ loaded.issuable 0 Bundle.nop = some job0 ∧ (loaded.coreAt 0).job = some 1 ∧
    ([77, 4095, 4096].all (fun pc =>
      let s := loaded.updCore 0 (fun c => { c with pc := pc })
      (s.running 0).isSome && ((s.atIssue 0).running 0).isSome && ((s.coreAt 0).job == some 1) &&
      (decide (4096 ≤ (s.coreAt 0).pc) || !Tbl.get false (s.coreAt 0).supplied (s.coreAt 0).pc))) = true := by decide +kernel

/-! ## Time and jobs -/

/-- The running core with one result in flight. -/
def inFlight (w : Wr) : State := loaded.updCore 0 (fun c => { c with flights := [⟨110, 3, [w], 2⟩] })
theorem witness_ResultLands :
    ([.sreg 31 5, .preg 7 9, .vreg 31 [(63, 3)], .cstore 0x1FFFFF [1], .clstore 0x67FFFF [2]] : List Wr).all (fun w =>
      (inFlight w).wf && (inFlight w).oneDue && decide (((inFlight w).core 0).flights = [⟨110, 3, [w], 2⟩]) &&
      decide ((inFlight w).now ≤ 110)) = true := by decide +kernel
theorem test_result_lands :
    ((after (.resultLand k0) (inFlight (.sreg 31 5))).core 0).s 31 = 5 ∧ (after (.resultLand k0) (inFlight (.sreg 31 5))).now = 111 ∧
    ((after (.resultLand k0) (inFlight (.cstore 0x1FFFFF [9]))).core 0).cstore.byte 0x1FFFFF = 9 := by decide +kernel

def signalled (id inc : Nat) (s : State) : State := { s with sigs := [⟨id, inc, false, 120, some 3, 0, 0, 0, false, 0⟩] }
def wait0 (tm : Bool) (timeout : Nat) : WaitRec := ⟨5, 9, timeout, 2, true, tm, 80, none⟩
def waiting (tm : Bool) (timeout : Nat) : State := running.updCore 0 (fun c => { c with st := .wait, wait := some (wait0 tm timeout) })
theorem witness_CountersAndTimeouts :
    ([(0, 1), (5, 0xFFFF), (20479, 3)] : List (Nat × Nat)).all (fun x => let s := signalled x.1 x.2 up
      s.wf && s.oneDue && !s.gated && (s.waiters x.1).isEmpty && !s.ctrDeaf x.1) = true ∧
    ([1, 9].all (fun n => let s := signalled 5 n (waiting false 0)
      s.wf && s.oneDue && (s.waiters 5 == [0]) && ((s.core 0).wait == some (wait0 false 0)) && s.unarmed && !s.ctrDeaf 5)) = true ∧
    ([false, true].all (fun tm => (waiting tm 50).wf && (waiting tm 50).oneDue && decide ((waiting tm 50).now ≤ 80 + 50) &&
      ((waiting tm 50).core 0).wait == some (wait0 tm 50) && ((waiting tm 50).core 0).job == some 1 &&
      (waiting tm 50).job 1 == some job0)) = true := by decide +kernel
theorem test_signal : (after (.syncSignalApply 5) (signalled 5 0xFFFF up)).ctrVal 5 = 0xFFFF ∧
    ((after (.syncSignalApply 5) (signalled 5 9 (waiting false 0))).core 0).st = .run ∧
    ((after (.syncSignalApply 5) (signalled 5 8 (waiting false 0))).core 0).st = .wait := by decide +kernel
theorem test_timeout : ((after (.syncWaitTimeout k0) (waiting false 50)).core 0).st = .run ∧
    ((after (.syncWaitTimeout k0) (waiting true 50)).job 1).map (·.stopCode) = some cTimeout := by decide +kernel

def shadow : State := { up with slotShadow := some (image0, 50) }
def gatedUp : State := { up with pwr := { up.pwr with droop := true } }
def slot0 : SendSlot := ⟨8000, 16006, 0x800000, List.replicate 1024 9⟩
def send0 : SendRec := ⟨0, 8000, [slot0], none⟩
def sending : State := running.updCore 0 (fun c => { c with sends := [send0] })
theorem witness_FramesSlotsRefresh :
    (shadow.calm = true ∧ shadow.gated = false ∧ shadow.slotShadow = some (image0, 50) ∧ 50 < shadow.now / 8192 * 8192 + 8192) ∧
    gatedUp.gated = true ∧
    (sending.wf = true ∧ sending.oneDue = true ∧ (sending.core 0).sends = [send0] ∧ send0.slots = [slot0] ∧ sending.unarmed = true) ∧
    (up.calm = true ∧ up.unarmed = true ∧ (0x5040 < 0xA0000000) ∧ 0x5040 / 4096 % 64 = 5 ∧ up.now % 8192 ≤ 128 * 5) := by decide +kernel
theorem test_frame : (after .armatureFrameStart shadow).now = 8192 ∧ after .armatureFrameStart gatedUp = gatedUp := by decide +kernel
theorem test_refresh : ((after (.refreshWindow 3 5 [(0x5040, true)]) up).ped 3).plnErr = 0x5040 := by decide +kernel

/-- What may start, be saved or resumed, in terms that evaluate. -/
theorem State.clustersFree_one {s : State} {clus : List Nat} {n : Nat} {v : Job} (hj : s.jobs = [(n, some v)])
    (h : ¬ (v.st = .running ∨ (v.st = .stopping ∧ s.jobCores n ≠ []))) : s.clustersFree clus := by
  intro m w hm hs
  rw [hj] at hm
  simp only [List.mem_singleton, Prod.mk.injEq, Option.some.injEq] at hm
  obtain ⟨rfl, rfl⟩ := hm
  exact absurd hs h
theorem staged_may_start : staged.jobMayStart { job0 with st := .staged } := by
  refine ⟨rfl, ⟨0, { entry0 with phase := .accepted, job := some 1 }, rfl, rfl, by simp, rfl, rfl, by decide, by simp [entry0]⟩, rfl,
    State.clustersFree_one (n := 1) (v := { job0 with st := .staged }) rfl (by decide), ?_, by decide +kernel, ?_⟩
  · intro m v hm hs
    have h : (m, some v) ∈ [(1, some { job0 with st := .staged })] := hm
    simp only [List.mem_singleton, Prod.mk.injEq, Option.some.injEq] at h
    obtain ⟨rfl, rfl⟩ := h
    exact absurd rfl hs
  · have h : ({ job0 with st := .staged } : Job).cast.places = [(0, 0, 0)] := by decide +kernel
    rw [h]
    intro pl hp
    rw [List.mem_singleton] at hp
    subst hp
    rfl
theorem witness_JobStarts :
    [staged, { staged with now := 8192 * 3 - 1 }, { staged with now := 8192 * 3 }].all (fun s => s.wf && (s.job 1).isSome &&
      s.calm && !s.gated && s.ras.rsts.isEmpty && s.fresh.isEmpty && (s.physOf 0 0 == some 0)) = true ∧
    job0.cast.places = [(0, 0, 0)] ∧ State.jobMayStart staged { job0 with st := .staged } := ⟨by decide +kernel, by decide +kernel, staged_may_start⟩
theorem test_job_start :
    (after (.jobStart 1) staged).now = 8192 ∧ ((after (.jobStart 1) staged).core 0).st = .run ∧
    ((after (.jobStart 1) staged).core 0).s 1 = 6 ∧ ((after (.jobStart 1) staged).core 0).s 9 = 0 := by decide +kernel
/-- A reset of cluster 0 at the edge. -/
def stagedReset : State := { staged with ras := { staged.ras with rsts := [⟨2, 0, 0, 0, true, false⟩] } }
theorem witness_JobStarts_busy : stagedReset.calm = true ∧ (stagedReset.toEdge (frameEdge stagedReset.now)).inTest job0 = true := by decide +kernel
theorem witness_JobsEnd :
    (halted.wf && (halted.job 1 == some job0)) = true ∧ halted.jobCores 1 = [0] ∧ (halted.core 0).st = .halted ∧
    ([0, 1, 2, 3].all (fun q => ((halted.core 0).dq q).entries.isEmpty && ((stopping.core 0).dq q).entries.isEmpty)) = true ∧
    (halted.clu 0).relQ = [] ∧ (halted.clu 0).relRun = none ∧
    (stopping.wf = true ∧ (stopping.job 1).map (·.st) = some .stopping ∧ (stopping.clu 0).relQ = [] ∧ (stopping.sq 0).releasing = false) ∧
    (limited.job 1 = some { job0 with tlimit := 5 } ∧ (limited.core 0).st ≠ .halted) := by decide +kernel
theorem test_job_complete : (after (.jobComplete 1) halted).job 1 = none ∧ ((after (.jobComplete 1) halted).core 0).st = .idle ∧
    (after (.jobStoppedComplete 1) stopping).job 1 = none := by decide +kernel
theorem witness_JobsPreempt :
    (preempted.wf && preempted.calm && (preempted.job 1 == some { job0 with stopIdx := some 4 }) && (preempted.jobCores 1 == [0]) &&
      ((preempted.core 0).dq 0).entries.any (fun x => x.phase == .parked)) = true ∧
    (suspending.wf && suspending.calm && (suspending.jobCores 1 == [0]) && ((suspending.core 0).st == .suspended) &&
      ([0, 1, 2, 3].all (fun q => ((suspending.core 0).dq q).entries.isEmpty)) && (suspending.clu 0).relQ.isEmpty &&
      (suspending.clu 0).relRun.isNone) = true ∧
    (suspended.wf && suspended.calm && suspended.unarmed && (suspended.physOf 0 0).isSome) = true ∧
    ([saved0].map (·.key)).Nodup ∧ saved0.wait = none ∧
    State.clustersFree suspended [0] :=
  ⟨by decide +kernel, by decide +kernel, by decide +kernel, by decide +kernel, rfl, State.clustersFree_one rfl (by decide)⟩
theorem test_job_resume : ((after (.jobResume 1) suspended).core 0).pc = 7 ∧ ((after (.jobResume 1) suspended).core 0).s 3 = 33 ∧
    ((after (.jobSuspend 1) suspending).job 1).map (·.st) = some .suspended := by decide +kernel

/-! ## DMA and relief -/

def fillD : Desc := { desc0 with op := 2, dk := 1, len := 64, rows := 1, dst := 0x100, fillv := 0xAB }
def q00 : QRef := .core k0 0
def queued (e : Entry) : State := running.updCore 0 (fun c => { c with q0 := { DQueue.reset with entries := [e], next := 1 } })
def eFill : Entry := { entry0 with desc := fillD, issuedAt := 110 }
def eBad : Entry := { eFill with desc := { fillD with rows := 0 } }
/-- The same entry in SQ 0. -/
def sqQueued (e : Entry) : State := hosted { sqEn with tail := 0, entries := [e], next := 1 } []
theorem witness_DescriptorCheck :
    [eFill, eBad].all (fun e => (queued e).wf && (queued e).oneDue && !(queued e).gated && (queued e).unarmed && (queued e).ras.rsts.isEmpty &&
      ((queued e).qEntries q00 == [e]) && (e.phase == .waiting) && (queued e).qHeld q00 == none && (((queued e).core 0).dq 0).chk.isNone &&
      decide ((queued e).now ≤ (((queued e).core 0).dq 0).checkStart e)) = true ∧
    [eFill, eBad].all (fun e => ((sqQueued e).nextCheck (.sq 0) == some e) && ((sqQueued e).qEntry (.sq 0) 0 == some e) &&
      (e.desc.op == 2) && (sqQueued e).ras.rsts.isEmpty && (sqQueued e).qHeld (.sq 0) == none) = true ∧
    ((queued eFill).checkDma q00 0 eFill.desc).code = none ∧ ((queued eBad).checkDma q00 0 eBad.desc).code ≠ none ∧
    ((sqQueued eBad).checkDma (.sq 0) 0 eBad.desc).code ≠ none := by decide +kernel
theorem test_check : ((after (.dmaDescriptorCheck q00) (queued eBad)).qEntries q00) = [] ∧
    (((after (.dmaDescriptorCheck q00) (queued eFill)).qEntry q00 0).map (·.phase)) = some .accepted := by decide +kernel
def eReady : Entry := { eFill with phase := .accepted, stamp := 110 }
theorem witness_EntryBegins :
    ((queued eReady).qEntry q00 0 == some eReady && (queued eReady).mayBegin q00 eReady && !(queued eReady).qRt8 q00 &&
      (queued eReady).onChip q00 eReady && !(queued eReady).gated && (queued eReady).oneDue &&
      decide ((queued eReady).now ≤ (queued eReady).onChipAt q00 eReady)) = true ∧
    ((sqQueued eReady).qEntry (.sq 0) 0 == some eReady && (sqQueued eReady).mayBegin (.sq 0) eReady &&
      !(sqQueued eReady).onChip (.sq 0) eReady) = true := by decide +kernel
def mapped : Entry :=
  { entry0 with phase := .running, desc := { fillD with op := 1, sk := 0, dk := 0, src := 0x20000, dst := 0x10000 }
                srcMap := [⟨0x20000, 0x10000, plinthBase 0⟩], dstMap := [⟨0x10000, 0x10000, plinthBase 0 + 0x10000⟩] }
def moving : State := { queued mapped with mpa := [(plinthBase 0 + 3, 7)] }
def filling : Entry := { mapped with desc := { mapped.desc with op := 2 } }
/-- A copy from host memory, and one that is accepted only. -/
def fromHost : Entry := { mapped with desc := { mapped.desc with sk := 2 } }
def waitingCopy : Entry := { mapped with phase := .accepted }
theorem witness_EntriesMoveBytes :
    (moving.qEntry q00 0 = some mapped ∧ mapped.phase = .running ∧ mapped.moved < mapped.desc.bytes ∧ mapped.aheadBad = [] ∧ moving.qRt8 q00 = false ∧
      moving.unarmed = true ∧ moving.poison = [] ∧
      moving.spots q00 mapped.fn 0 mapped.dstMap 0x10000 64 = [(some (.mpa (plinthBase 0 + 0x10000)), 64)] ∧
      moving.inDram (plinthBase 0 + 0x10000) 64 = true ∧
      moving.spots q00 mapped.fn 0 mapped.srcMap 0x20000 64 = [(some (.mpa (plinthBase 0)), 64)] ∧ moving.inDram (plinthBase 0) 64 = true) ∧
    ((queued filling).qEntry q00 0 = some filling ∧ (queued filling).poison = [] ∧ filling.desc.op = 2) ∧
    ((queued fromHost).qEntry q00 0 = some fromHost ∧
      (queued fromHost).spots q00 fromHost.fn 2 fromHost.srcMap 0x20000 64 = [(some (.host false 0x20000), 64)]) ∧
    ((queued waitingCopy).qEntry q00 0 = some waitingCopy ∧ waitingCopy.ahead < waitingCopy.desc.bytes) := by decide +kernel
theorem test_copy : (after (.copy q00 0 1 .ok) moving).mpa = [(plinthBase 0 + 3, 7), (plinthBase 0 + 0x10003, 7)] ∧
    (((after (.copy q00 0 1 .ok) (queued waitingCopy)).qEntry q00 0).map (·.ahead)) = some 64 := by decide +kernel
def landed : Entry := { mapped with moved := 64 }
def complete : Entry := { mapped with moved := 64, phase := .complete }
theorem witness_EntriesComplete :
    ((sqQueued landed).qEntry (.sq 0) 0 == some landed && landed.job.isNone && decide (landed.desc.bytes ≤ landed.moved) &&
      (landed.phase == .running) && !(sqQueued landed).onChip (.sq 0) landed) = true ∧
    ((queued complete).wf = true ∧ (queued complete).qEntries q00 = [complete] ∧ retireCode [complete] ((queued complete).qHeld q00) = some (0, false) ∧
      retireCode [] ((queued complete).qHeld q00) = none) ∧
    (let s := sqQueued complete
     s.wf && ((s.sq 0).entries == [complete]) && !complete.blind && (retireCode [complete] (s.sq 0).held == some (0, false)) &&
      !(s.sq 0).releasing && ((s.cq (bits (s.sq 0).cfg.toNat 16 8)).owner == some false) && (s.cq (bits (s.sq 0).cfg.toNat 16 8)).room &&
      (s.cq (bits (s.sq 0).cfg.toNat 16 8)).heldC.isEmpty) = true := by decide +kernel
theorem test_retire : (((after (.dmaEntryRetire q00) (queued complete)).core 0).cstore.bytes 0x1FC000 8) = leBytes 0 8 ∧
    ((after (.dmaEntryRetire (.sq 0)) (sqQueued complete)).cq 0).tail = 1 := by decide +kernel
def heldQ : State := running.updCore 0 (fun c => { c with q0 := { parkedQ with held := some 3 } })
def parked0 : Entry := { entry0 with phase := .parked }
def notReady : State := { up with pwr := { up.pwr with phase := 3 } }
theorem witness_QueueCommands :
    heldQ.coreInReset 0 = false ∧ heldQ.qEntries q00 = [parked0] ∧ parked0.job = none ∧
    (heldQ.qEntries q00).find? (fun e => e.phase == .parked) = some parked0 ∧ heldQ.qEntry q00 0 = some parked0 ∧
    (let s0 := (heldQ.qUpd q00 0 (fun e => { e with phase := .running })).updCore 0
        (fun c => c.setDq 0 { c.dq 0 with faultWrite := false, faultDva := 0 })
     (s0.reach q00 0 false).1 = true ∧ ((s0.reach q00 0 false).2.reach q00 0 true).1 = true) ∧
    notReady.coreInReset 0 = true := by decide +kernel
/-- DWAIT on an entry that is outstanding. -/
theorem test_dwait : ((after (.dwait k0 Bundle.nop 0 20) (queued eFill)).core 0).hold = some (.retire 0 0) := by decide +kernel

def relCl (recb : List Byte) : State :=
  { up with clus := [(0, { Cluster.reset with relQ := [0, 3], store := Memory.write (relBase 0) recb [(0x100, 7)] })] }
def moveRec : List Byte :=
  (Memory.write 0x30 [4, 0, 4, 0] (Memory.write 0x1C [2] (Memory.write 0x14 [2, 0, 2, 0, 1, 0] (Memory.write 0x10 [0, 2]
    (Memory.write 8 [0, 1] [(0, 4)]))))).bytes 0 64
def rel0 : RelRun := ⟨2, false, 0, 90, 130, 0, 3, [(0x40, [1, 2, 3])]⟩
def relDone : State :=
  { up with clus := [(0, { Cluster.reset with relRun := some rel0, store := Memory.write (relBase 2 + 0x3C) [1] [(0x100, 7)] })] }
theorem witness_ReliefCommands :
    [relCl moveRec, relCl []].all (fun s => s.oneDue && !s.gated && s.unarmed && (s.clu 0).relRun.isNone && ((s.clu 0).relQ == [0, 3])) = true ∧
    relDone.wf = true ∧ relDone.oneDue = true ∧ (relDone.clu 0).relRun = some rel0 := by decide +kernel
theorem test_relief : ((after (.reliefCommandComplete ⟨0, 0⟩) relDone).clu 0).relCount = 1 ∧
    ((after (.reliefCommandComplete ⟨0, 0⟩) relDone).clu 0).store.bytes 0x40 3 = [1, 2, 3] := by decide +kernel

/-! ## Media engines -/

def ctxSet : State := ringed (ringKey 0 0 0) 1 0x3000 [(dva 0x3000, ctxBytes)]
def ctxGet : State := ringed (ringKey 0 0 0) 5 0x3000 [(0x10000040000, ctxBytes)]
def cmdOf (op arg : Nat) (ring : Nat) : RingCmd := ⟨ring, 0, op, false, 0, 0, 0, arg⟩
/-- Is the state's command the next of pixel engine 0? -/
def nextPix (s : State) (op arg : Nat) : Prop := s.clean = true ∧ s.pixNext 0 0 (cmdOf op arg 0)
def ctxRead : List Byte × Nat × State := (ctxSet.pixRead 0 0 (cmdOf 1 0x3000 0)).fetchDva 0 0 0x3000 512
theorem witness_ContextCommands_next : nextPix ctxSet 1 0x3000 ∧ nextPix ctxGet 5 0x3000 := by
  unfold nextPix State.pixNext State.ringsFree; decide +kernel
theorem witness_ContextCommands_set :
    (!ctxValid (ctxSet.ctxOf 0 0) && !ctxSet.streamBusy 0 0 && (ctxRead.2.1 == cDone) && ctxOk 0 (recordOf ctxRead.1) &&
      (ctxClass (recordOf ctxRead.1) == 0) && (ctxPeng (recordOf ctxRead.1) == 0) &&
      !ctxSet.badWithPlinth 0 (hPix (ctxPeng (recordOf ctxRead.1))) && !ctxSet.bad 0 (hEnt (ctxEeng (recordOf ctxRead.1)))) = true := by
  decide +kernel
theorem witness_ContextCommands_get :
    (ctxValid (ctxGet.ctxOf 0 0) && (ctxClass (ctxGet.ctxOf 0 0) == 0) && (ctxPeng (ctxGet.ctxOf 0 0) == 0)) = true := by decide +kernel
/-- A record that is not there, a width of 0, and an unknown class are refused. -/
theorem test_ctx_refused : ctxOk 0 (recordOf (ctxBytes.set 4 0)) = false ∧ ctxOk 0 (recordOf (ctxBytes.set 5 255)) = false := by decide +kernel

def framing (op row : Nat) : State := (paged []).updPed 0 (fun d => { d with pixRun := [(0, some { pixCmd0 op with row := row })] })
def lower : PixCmd := { pixCmd0 2 with cmd := ⟨2, 0, 2, false, 0, 0, 0, 0⟩ }
def higher : State := (ringed (ringKey 0 0 0) 1 0x3000 []).updPed 0 (fun d => { d with pixRun := [(0, some lower)] })
/-- Frame commands of a valid stream: RECON, and FORCE_INTRA ENCFRAME and DECFRAME. -/
def frmD (op : Nat) : State := ringed (ringKey 0 0 0) op 0x3000 [(0x10000040000, ctxBytes), (dva 0x3000, [4])]
theorem witness_FrameBegins :
    ∀ op ∈ [2, 3, 4], (frmD op).clean = true ∧ (frmD op).pixNext 0 0 (cmdOf op 0x3000 0) ∧ ctxValid ((frmD op).ctxOf 0 0) = true ∧
      ctxClass ((frmD op).ctxOf 0 0) = 0 ∧ ctxPeng ((frmD op).ctxOf 0 0) = 0 ∧
      (((frmD op).pixRead 0 0 (cmdOf op 0x3000 0)).pixBegin 0 (cmdOf op 0x3000 0) ((frmD op).ctxOf 0 0)).2.1.isSome = true := by
  unfold State.pixNext State.ringsFree; decide +kernel
theorem test_frame_begins : [(2, Instr.encframe g00 0), (3, .decframe g00 0), (4, .recon g00 0)].all (fun x =>
    (Tbl.get none ((after x.2 (frmD x.1)).ped 0).pixRun 0).map (fun k => (k.cmd.op, k.row)) == some (x.1, 0)) = true := by decide +kernel
theorem witness_FrameRows :
    ([(2, 0), (2, 1), (3, 0), (3, 1), (4, 0), (4, 1)] : List (Nat × Nat)).all (fun x =>
      let k : PixCmd := { pixCmd0 x.1 with row := x.2 }
      let s := framing x.1 x.2
      let r := s.pixRow 0 0 k
      (Tbl.get none (s.ped 0).pixRun 0 == some k) && !s.pixHigher 0 0 k && lostCode s r.2.2 r.1 == cDone &&
        decide (ctxRows r.2.1.ctx = 2)) = true ∧
    (Tbl.get none (higher.ped 0).pixRun 0 = some lower ∧ higher.pixHigher 0 0 lower = true) := by decide +kernel

def ringSk : State := up.updPed 0 (fun d => { d with
  skmRun := some ⟨⟨17, 0, 1, false, 0, 0, 0, 0⟩, [], [], 0, 0, 0, false⟩
  rings := (rangeFrom 0 24).map (fun k => (k, { Ring.reset with base := 0x1000, cfg := 4, tail := 3, take := 1, out := [0], held := true })) })
def engReset : State := { up with ras := { up.ras with rsts := [⟨3, 0, 0, 0, true, false⟩] } }
theorem witness_RingRegisters :
    ([0, 1, 2].all (fun k => !ringSk.engInReset 0 k 0)) = true ∧ 11 ≤ ringSk.pwr.phase ∧ engReset.engInReset 0 0 0 = true ∧
    (ringSk.ring 0 (ringKey 0 0 1)).cap = 16 ∧ ((16 - (ringSk.ring 0 (ringKey 0 0 1)).head : BitVec 16)).toNat ≤ 16 ∧
    ¬ ((17 - (ringSk.ring 0 (ringKey 0 0 1)).head : BitVec 16)).toNat ≤ 16 ∧
    (ringSk.ped 0).skmRun.map (·.cmd.ring) = some (ringKey 2 0 1) := by decide +kernel
theorem test_ring_tail :
    ((after (.pixRtailWrite g00 1 16) ringSk).ring 0 (ringKey 0 0 1)).tail = 16 ∧
    ((after (.pixRtailWrite g00 1 17) ringSk).ring 0 (ringKey 0 0 1)).overrun = true := by decide +kernel

def tabLoad : State := entRing 2 0x3000 1 [(dva 0x3000, leBytes 0x4000 8 ++ [1, 0, 3]), (dva 0x4000, [9, 8, 7])]
def audio : State := entRing 4 0 1 []
def stream : State := entRing 5 0 1 []
/-- Is the state's command the next of entropy engine 0, of a valid stream? -/
def nextEnt (s : State) (op arg : Nat) : Prop :=
  s.clean = true ∧ s.entNext 0 0 (cmdOf op arg 8) ∧
    entStream 0 (cmdOf op arg 8) ((s.entPreempt 0 0).ctxOf 0 0) ((s.entPreempt 0 0).srecOf 0 0) = true
theorem witness_EntropyCommands :
    (nextEnt t1 1 0x3000 ∧ t1.inFlight 0 0 = false ∧ ((t1.entRead 0 0 (cmdOf 1 0x3000 8)).fetchDva 0 0 0x3000 128).2.1 = cDone ∧
      srecOk 0 (recordOf ctxBytes) (recordOf ((t1.entRead 0 0 (cmdOf 1 0x3000 8)).fetchDva 0 0 0x3000 128).1) = true) ∧
    (nextEnt tabLoad 2 0x3000 ∧
      (let b := (tabLoad.entRead 0 0 (cmdOf 2 0x3000 8)).fetchDva 0 0 0x3000 16
       b.1 = leBytes 0x4000 8 ++ [1, 0, 3, 0, 0, 0, 0, 0] ∧ b.2.1 = cDone ∧ between 1 126 1 = true ∧ tabLoad.slotUsed 0 0 3 = false ∧
       (b.2.2.fetchDva 0 0 0x4000 520).2.1 = cDone)) ∧
    nextEnt stream 5 0 := by
  unfold nextEnt State.entNext State.ringsFree; decide +kernel
theorem test_etabload : Tbl.get 0 ((after (.etabload g00) tabLoad).ped 0).etabN 3 = 1 ∧
    ((after (.estream g00) stream).ped 0).units.map (fun v => v.bytes.length) = [52] := by decide +kernel
theorem witness_AudioCommand :
    nextEnt audio 4 0 ∧
    (let r := audio.entRead 0 0 (cmdOf 4 0 8)
     let y := (audio.entPreempt 0 0).srecOf 0 0
     r.counterReady (srAlqfill y) = true ∧
     (let q := ((r.took (srAlqfill y)).updPed 0 (fun d => { d with alqIdx := Tbl.set 0 0 1 d.alqIdx })).lqRead 0 0 (srAlatq y)
      q.1.map (·.nsym) = some 0 ∧ (q.2.2.fetchDva 0 0 ((q.1.map (·.sym)).getD 0) 0).2.1 = cDone)) ∧
    (encElements ⟨0, 0, 0, 0, 0, 0⟩ [] ⟨cDone, [], 0, audio⟩ Enc.init).1.code = cDone := by
  unfold nextEnt State.entNext State.ringsFree; decide +kernel
theorem test_aencode : ((after (.aencode g00) audio).ped 0).units.map (fun v => v.audio) = [true] := by decide +kernel

def ent0 : RingCmd := ⟨8, 0, 0, false, 0, 0, 0, 0⟩
def encF : EncFrame := ⟨pixCmd0 2, 0, 0, [], [Enc.init], 0, 0, 0, [], some 0, 1⟩
def rowing : State := (paged []).updPed 0 (fun d => { d with counters := [(0, 5)], frames := [encF] })
theorem witness_LatentEntryTake :
    (rowing.ped 0).frames.find? (fun f => f.eeng == 0 && f.pix.cmd.stream == 0 && decide (f.row < f.rows)) = some encF ∧
    rowing.counterReady (ctxLqfill encF.ctx) = true ∧
    (((rowing.took (ctxLqfill encF.ctx)).updPed 0 (fun x => { x with lqIdx := Tbl.set 0 0 1 x.lqIdx })).lqRead 0 (ctxNiche encF.ctx)
      (ctxLatq encF.ctx)).1.map (·.row) = some encF.row ∧ encF.carry.isSome = true := by decide +kernel
theorem test_latent_take : ((after (.latentEntryTake g00 0) rowing).ped 0).frames.map (·.row) = [1] := by decide +kernel

def unitPay : List Byte := [0, 0, 0, 0, 0, 0, 0, 0, 0x80, 0, 0, 1, 0, 0, 0, 0, 0, 0, 0, 0, 0, 4, 1, 2, 3, 4]
def unitBytes : List Byte := [2, 1, 0, 0] ++ beBytes unitPay.length 4 ++ beBytes (crc32 unitPay).toNat 4 ++ unitPay
def unitRec : List Byte := leBytes 0x5000 8 ++ leBytes unitBytes.length 8 ++ leBytes 0x6000 8 ++ leBytes 0x7000 8
def decoding : State := entRing 3 0x3000 3 [(dva 0x3000, unitRec), (dva 0x5000, unitBytes)]
theorem witness_UnitBegins :
    nextEnt decoding 3 0x3000 ∧
    (let r := (decoding.entRead 0 0 (cmdOf 3 0x3000 8)).fetchDva 0 0 0x3000 32
     let x := (decoding.entPreempt 0 0).ctxOf 0 0
     r.1 = unitRec ∧ r.2.1 = cDone ∧ (r.2.2.fetchDva 0 0 0x5000 38).1 = unitBytes ∧ (r.2.2.fetchDva 0 0 0x5000 38).2.1 = cDone ∧
     unitOf unitBytes = some (2, unitPay) ∧ (videoParts x unitPay).isSome = true ∧
     (epochSlot ((decoding.entPreempt 0 0).srecOf 0 0) (beNat ((unitPay.drop 14).take 2))).isSome = true ∧
     ((r.2.2.fetchDva 0 0 0x5000 38).2.2.needs 0 0
       [⟨0x6000, ctxMfBytes x, true⟩, ⟨0x7000, 64, true⟩, ⟨ctxQmap x, ctxCols x * ctxRows x, true⟩,
        ⟨ctxLatq x, 64 * 2 ^ ctxLqk x, true⟩]).1 = none) := by
  unfold nextEnt State.entNext State.ringsFree; decide +kernel
theorem test_decunit : ((after (.decunit g00) decoding).ped 0).decs.map (fun d => (d.row, d.subs)) = [(0, [[0, 1, 2, 3, 4]])] ∨
    ((after (.decunit g00) decoding).ped 0).decs.length = 1 := by decide +kernel
def dec0 (e : Option Nat) : DecUnit := ⟨0, ent0, recordOf ctxBytes, [], false, [], [], [], 0, 0, 0, none, [], e, false⟩
def decg (e : Option Nat) : State := (paged []).updPed 0 (fun d => { d with counters := [(0, 5)], decs := [dec0 e] })
def unit0 : PendUnit := ⟨0, 0, .cmd ent0, [1, 2, 3], false, false, none⟩
def unitg : State := (entRing 5 0 1 []).updPed 0 (fun d => { d with units := [unit0] })
theorem witness_EntropyRows :
    ((decg none).ped 0).decs.find? (fun d => d.eeng == 0 && d.cmd.stream == 0 && d.entry.isNone && !d.saved) = some (dec0 none) ∧
    (decg none).entPick 0 0 = none ∧ (decg none).counterReady (dec0 none).free = true ∧
    ((decg (some 0)).ped 0).decs.find? (fun d => d.eeng == 0 && d.cmd.stream == 0 && d.entry.isSome && !d.saved) = some (dec0 (some 0)) ∧
    ((decg (some 0)).lqRead 0 (dec0 none).niche 0).1.map (fun q => ((decg (some 0)).lqRead 0 (dec0 none).niche 0).2.2.counterReady q.tblrdy)
      = some true ∧
    (unitg.ped 0).units.find? (fun u => u.eeng == 0 && u.stream == 0) = some unit0 ∧
    unitg.counterReady (srOqfree (unitg.srecOf 0 0)) = true := by decide +kernel
theorem test_unit_write : ((after (.unitWrite g00 0) unitg).ped 0).units = [] ∧ Tbl.get 0 ((after (.unitWrite g00 0) unitg).ped 0).oqIdx 0 = 1 := by
  decide +kernel

def skim0 (op slen : Nat) (stop : Bool) : SkimJob :=
  ⟨⟨18, 0, op, false, 0, 0, 0, 0⟩, Memory.write 0x10 (leBytes slen 8 ++ leBytes 0x1000 8 ++ leBytes 0x100 8) [],
   [⟨0, 0x10000, 0x10000200000⟩], 0, 0, 0, stop⟩
def skimming (j : SkimJob) (mem : List (Nat × List Byte)) : State := (paged mem).updPed 0 (fun d => { d with skmRun := some j })
def packing : State := skimming (skim0 1 8 false) [(dva 0, [1, 1, 1, 1, 2, 2, 2, 2])]
def packed : List Byte := (packing.packBlock 0 (skim0 1 8 false)).2.2.mpa.bytes (dva 0x1000) 20
def unpacking : State := skimming (skim0 2 20 false) [(dva 0, packed)]
def giving : State := (ringed (ringKey 2 0 0) 1 0 []).updPed 0 (fun d => { d with skmRun := some (skim0 1 8 false) })
/-- A job of each kind that Skim takes next: 8 bytes to compress, 20 to decompress. -/
def skimRing (op slen : Nat) : State :=
  ringed (ringKey 2 0 0) op 0x3000 [(dva 0x3000, leBytes 1 8 ++ leBytes 0 8 ++ leBytes slen 8 ++ leBytes 0x1000 8 ++ leBytes 0x100 8)]
theorem witness_SkimBegins :
    ∀ x ∈ [(1, 8), (2, 20)], 
      let s := skimRing x.1 x.2
      let c := cmdOf x.1 0x3000 16
      let t := s.ringTake 0 16
      let en := t.readRun (Rec.base 0 1 0 (some 0) none) (ringAddr 0 (t.ring 0 16) 0) 64
      let b := en.2.2.fetchDva 0 (skmNiche c) 0x3000 64
      let j := recordOf b.1
      s.clean = true ∧ s.skmNext 0 c ∧ b.2.1 = cDone ∧ skimCheck (skimEntryBad en.1) false j = none ∧ skimOutside (x.1 == 1) j = false ∧
        (b.2.2.needs 0 (skmNiche c) (skimNeeds (x.1 == 1) 0x3000 j)).1 = none := by
  unfold State.skmNext State.ringsFree; decide +kernel
theorem test_skim_begins : ((after (.compress 0 0) (skimRing 1 8)).ped 0).skmRun.map (fun j => (j.cmd.op, j.block)) = some (1, 0) := by
  decide +kernel
theorem witness_SkimCommands :
    (packing.packBlock 0 (skim0 1 8 false)).1 = cDone ∧ (skim0 1 8 false).finished = false ∧ packing.skmHigher 0 (skim0 1 8 false) = false ∧
    (unpacking.unpackBlock 0 (skim0 2 20 false)).1 = cDone ∧ (skim0 2 20 false).finished = false ∧
    unpacking.skmHigher 0 (skim0 2 20 false) = false ∧
    ((skimming (skim0 1 8 true) []).ped 0).skmRun = some (skim0 1 8 true) ∧ giving.skmHigher 0 (skim0 1 8 false) = true := by decide +kernel
/-- What Skim packs it unpacks. -/
theorem test_skim_round : (unpacking.unpackBlock 0 (skim0 2 20 false)).2.2.mpa.bytes (dva 0x1000) 8 = [1, 1, 1, 1, 2, 2, 2, 2] := by
  decide +kernel

/-! ## Host queues, links and mailboxes -/


def sqFetched : State := hosted sqEn [(0x10000, [8, 0, 0, 0])]
theorem witness_QueueFetch : (sqFetched.mayFetch 0 false ∧ sqFetched.unarmed = true ∧ ∀ e ∈ (sqFetched.sq 0).entries, e.seq ≠ (sqFetched.sq 0).next.toNat) ∧
    (sqFetched.hif false).cfg.ctoOff = false ∧
    (let s : State := { sqFetched with hif0 := { sqFetched.hif0 with cfg := { sqFetched.hif0.cfg with ctoOff := true } } }
     s.mayFetch 0 false ∧ s.unarmed = true ∧ (s.sq 0).entries = [] ∧ (s.hif false).cfg.ctoOff = true) := by
  unfold State.mayFetch; decide +kernel
theorem test_fetch : ((after (.sqFetch 0 .ok) sqFetched).sq 0).head = 1 ∧
    ((after (.sqFetch 0 .ok) sqFetched).sq 0).entries.map (fun e => e.desc.op) = [8] := by decide +kernel

def jr : Entry := { entry0 with desc := { desc0 with op := 8, handle := 3, args := 0x30000, seed := 9, tlimit := 7 } }
def jobbed (e : Entry) (cs : Tbl (Option Cast)) : State :=
  { hosted { sqEn with tail := 0, entries := [e], next := 1 } [(0x30000, [1, 2, 3, 4, 5, 6, 7, 8, 9])] with
    casts := cs, jobs := [], cores := [(0, { Core.reset with insvc := true })] }
theorem witness_JobrunCommand :
    ((jobbed jr [(3, some cast0)]).wf = true ∧ (jobbed jr [(3, some cast0)]).unarmed = true ∧ (jobbed jr [(3, some cast0)]).checksNext 0 8 jr ∧
      (jobbed jr [(3, some cast0)]).jobrunOk 0 jr.desc cast0 ∧ (jobbed jr [(3, some cast0)]).ras.rsts = [] ∧
      (jobbed jr [(3, some cast0)]).qHeld (.sq 0) = none ∧ (0 : BitVec 32).toNat = jr.seq ∧
      ((jobbed jr [(3, some cast0)]).sq 0).owner = some false ∧ ((jobbed jr [(3, some cast0)]).hif false).cfg.ctoOff = false) ∧
    ((jobbed jr []).wf = true ∧ (jobbed jr []).unarmed = true ∧ (jobbed jr []).checksNext 0 8 jr ∧
      (jobbed jr []).jobrunCode 0 jr.desc = some cBadDescriptor) := by
  unfold State.checksNext State.jobrunOk; decide +kernel
theorem test_jobrun : ((after (.jobrun 0 .ok) (jobbed jr [(3, some cast0)])).job 1).map (fun j => (j.st, j.args.headD 0, j.tlimit)) =
    some (.staged, 0x0807060504030201, 7) := by decide +kernel

/-- A cast of one core and cluster 0 whose cluster list and slot list lie in zeros of its header; one bundle of code. -/
def castBytes : List Byte :=
  leBytes 0x43435946 4 ++ [0, 0, 1, 0, 1, 0, 1, 0, 1, 0, 0, 0] ++ leBytes 0 4 ++ leBytes 0x2C 4 ++ leBytes 0x2C 4 ++ leBytes 0x30 4 ++
    leBytes 0x40 4 ++ leBytes 0x70 4 ++ leBytes 0x45996047 4 ++ List.replicate 20 0 ++ leBytes 1 4 ++ leBytes 0x40 4 ++ List.replicate 40 0
def castD (len : Nat) : Desc := { desc0 with op := 9, seed := 3, len := len, src := 0x4000 }
def loading (len : Nat) : State := { paged [(dva 0x4000, castBytes)] with
  sqs := [(0, { Sq.reset with cfg := 0x80000004, owner := some false, next := 1, entries := [{ entry0 with desc := castD len }] })]
  cqs := [(0, { Cq.reset with cfg := 0x80000004, base := 0x20000, owner := some false })] }
def dropE : Entry := { entry0 with desc := { desc0 with op := 10, seed := 3 } }
def dropBad : Entry := { dropE with desc := { dropE.desc with bad := true } }
def castE (len : Nat) : Entry := { entry0 with desc := castD len }
theorem witness_CastCommands :
    [0x70, 0].all (fun n => (loading n).fenceMet (.sq 0) (castE n) && ((loading n).qHeld (.sq 0)).isNone &&
      ((loading n).nextCheck (.sq 0) == some (castE n)) && ((loading n).qEntry (.sq 0) 0 == some (castE n)) &&
      !(castD n).bad && !(castD n).cen && !(loading n).castBusy 0 (castD n).castHandle) = true ∧
    ((loading 0).castRead (.sq 0) 0 (castD 0)).1 = cDone ∧ ((loading 0).loadCast 0 0 []).1 ≠ cDone ∧
    [dropE, dropBad].all (fun e => let s := jobbed e [(3, some cast0)]
      s.fenceMet (.sq 0) e && (s.nextCheck (.sq 0) == some e) && (s.qEntry (.sq 0) 0 == some e) && (s.qHeld (.sq 0)).isNone &&
        !s.castBusy 0 e.desc.castHandle) = true ∧
    dropE.desc.bad = false ∧ (jobbed dropBad [(3, some cast0)]).castCode 0 dropBad.desc = some cBadDescriptor := by decide +kernel
/-- The cast that `castBytes` holds. -/
theorem witness_CastLoads :
    (let r := (loading 0x70).castRead (.sq 0) 0 (castD 0x70)
     let l := r.2.2.loadCast 0 0x70 r.2.1
     (r.1 == cDone) && (r.2.1 == castBytes) && (l.1 == cDone) && l.2.isSome) = true := by decide +kernel
theorem test_castload : ((after (.castload 0) (loading 0x70)).cast 0 3).map (fun c => (c.ncore, c.clus)) = some (1, [0]) ∧
    ((after (.castdrop 0) (jobbed dropE [(3, some cast0)])).cast 0 3) = none := by decide +kernel

/-- CQ 0 enabled for function 0, its configuration word given. -/
def cqs0 (cfg : Word) (f : Cq → Cq) : Tbl Cq := [(0, f { Cq.reset with cfg := cfg, base := 0x20000, owner := some false })]
def stoppedQs : State := { up with sqs := [(0, { sqEn with stopped := true, tail := 0 })], cqs := cqs0 0x80000004 (fun c => { c with stopped := true }) }
def heldQs : State := { up with
  sqs := [(0, { sqEn with held := some 3, entries := [entry0], tail := 0 })], cqs := cqs0 0xC0000004 (fun c => { c with aggBusy := true }) }
def aggQs : State := { heldQs with
  hif0 := { hifUp with unmasked := [(0, true)] }, cqs := cqs0 0xC0000004 (fun c => { c with aggBusy := true, aggPend := true }) }
theorem witness_HostQueueRegisters :
    up.hostActs false true = true ∧ mayWrite false (up.sq 3).owner = true ∧ (up.sq 3).releasing = false ∧ bitAt (up.sq 3).cfg.toNat 31 = false ∧
    (hosted sqEn []).hostActs false true = true ∧ (hosted sqEn []).sqCfgOk false 0x80000004 = true ∧ (hosted sqEn []).sqCfgOk false 0x80000003 = false ∧
    mayWrite false ((hosted sqEn []).sq 0).owner = true ∧ bitAt ((hosted sqEn []).sq 0).cfg.toNat 31 = true ∧ ((hosted sqEn []).sq 0).entries = [] ∧
    ((hosted sqEn []).sq 0).stopped = false ∧ ((16 - ((hosted sqEn []).sq 0).head : BitVec 16)).toNat ≤ 2 ^ sqSize sqEn ∧
    ¬ ((17 - ((hosted sqEn []).sq 0).head : BitVec 16)).toNat ≤ 2 ^ sqSize sqEn ∧ mayWrite false (up.cq 3).owner = true ∧
    bitAt (up.cq 3).cfg.toNat 31 = false ∧ bitAt ((hosted sqEn []).cq 0).cfg.toNat 31 = true ∧ ((hosted sqEn []).cq 0).releasing = false := by
  decide +kernel
theorem test_sqcfg : ((after (.hifSqcfgWrite false 3 0x80000004) (hosted sqEn [])).sq 3).owner = some false ∧
    ((after (.hifSqcfgWrite false 3 0x80000003) (hosted sqEn [])).sq 3).cfgerr = true := by decide +kernel
theorem witness_HostQueueCommands :
    (stoppedQs.hostActs false true = true ∧ (stoppedQs.sq 0).owner = some false ∧ (stoppedQs.sq 0).stopped = true ∧ (stoppedQs.sq 0).releasing = false ∧
      stoppedQs.jobs = [] ∧ (stoppedQs.sq 0).entries = [] ∧
      (stoppedQs.cq 0).owner = some false ∧ (stoppedQs.cq 0).stopped = true ∧ (stoppedQs.cq 0).releasing = false ∧ (stoppedQs.cq 0).heldC = []) ∧
    (heldQs.hostActs false true = true ∧ (heldQs.sq 0).owner = some false ∧ (heldQs.sq 0).entries = [entry0] ∧ entry0.job = none ∧ heldQs.jobs = [] ∧
      (heldQs.cq 0).aggBusy = true ∧ (heldQs.cq 0).aggPend = false) ∧
    (aggQs.hostActs false true = true ∧ (aggQs.cq 0).aggPend = true ∧ bitAt (aggQs.cq 0).cfg.toNat 30 = true ∧ (aggQs.cq 0).owner = some false ∧
      (aggQs.hif false).canSend (bits (aggQs.cq 0).cfg.toNat 18 8) = true) := by decide +kernel
/-- What the function may be set to, and what it may not. -/
theorem test_config :
    ((after (.configurationSpaceWrite false (.completionTimeout 6 true)) up).hif false).cfg.ctoRange = 6 ∧
    ((after (.configurationSpaceWrite false (.completionTimeout 3 true)) up).hif false).cfg.ctoRange = 0 ∧
    ((after (.configurationSpaceWrite false (.maxPayload 3)) up).hif false).cfg = (up.hif false).cfg ∧
    ((after (.hifCqheadWrite false 3 1) up).cq 3).overrun = true := by decide +kernel
theorem witness_HostRegistersFrame : exec (.hifEvlostRead false) up = .next (after (.hifEvlostRead false) up) := rfl

theorem witness_EventRing : up.hostActs false true = true ∧ (up.hif false).taken = none ∧ evSize (up.hif false) = 0 ∧
    ([0, 4, 12].all (fun n => decide (n = 0 ∨ (4 ≤ n ∧ n ≤ 12)))) = true ∧ ([3, 13].all (fun n => decide ¬ (n = 0 ∨ (4 ≤ n ∧ n ≤ 12)))) = true := by
  decide +kernel
theorem test_evcfg : ((after (.hifEvcfgWrite false 12) up).hif false).evcfg = 12 ∧ after (.hifEvcfgWrite false 13) up = up := by decide +kernel
def b2 : State := { up with hif0 := { hifUp with b2base := 0x10000000000, b2log := 30 }, mpa := [(0x10000000003, 9)] }
theorem witness_Bar2Commands : b2.hostActs false true = true ∧ b2.inDram (0x10000000000 + (2 ^ 30 - 4)) 4 = true ∧ b2.poison = [] ∧
    2 ^ 30 - 4 + 4 ≤ 2 ^ (b2.hif false).b2log ∧ b2.inDram (0x10000000000 + 2) 5 = true := by decide +kernel
theorem test_bar2 : (after (.bar2Write false 2 [1, 2, 0, 4] false) b2).mpa = [(0x10000000002, 1), (0x10000000003, 2), (0x10000000005, 4)] ∧
    ((after (.bar2Resize false 6) b2).hif false).b2log = 36 := by decide +kernel
theorem witness_LinkCommands :
    (hosted sqEn []).wf = true ∧ ((hosted sqEn []).hif false).linkUp = true ∧ ((hosted sqEn []).sq 0).owner = some false ∧
    ((hosted sqEn []).cq 0).owner = some false ∧
    (stoppedQs.jobs = [] ∧ (stoppedQs.sq 0).entries = []) ∧
    (let s : State := { up with hif0 := { hifUp with linkUp := false } }
     s.wf = true ∧ (s.hif false).linkUp = false ∧ (s.hif false).perstN = true ∧ 6 ≤ s.pwr.phase ∧ s.pwr.stop = 0 ∧ s.bad 16 hPcie = false) := by decide +kernel
theorem test_link_down : ((after (.linkDown false) (hosted sqEn [])).sq 0).stopped = true := by decide +kernel

theorem witness_MailboxCommandWords :
    ([[], List.replicate 16 0, [0x12340243, 5, 6], [0x12340041], [0x12340099]] : List (List Word)).all (fun ws => (mb ws id).hostActs false false &&
      (mb ws id).allUp && (mb ws id).mgt.work.isNone && decide ((mb ws id).mgt.phase ≠ 4)) = true ∧
    knownOp 0x41 = true ∧ knownOp 0x99 = false := by decide +kernel
theorem test_send :
    ((after (.send false) (mb [0x12340243, 5, 6] id)).mbx false).cmd = some [0x12340243, 5, 6] ∧
    ((after (.send false) (mb [0x12340243, 5] id)).mbx false).stat = 2 ∧
    ((after (.send false) (mb [0x12340099] id)).mbx false).reply = some (ackOf cUnsupported 0) := by decide +kernel
def answered : State := mb [] (fun m => { m with cmd := some [0x12340043], reply := some 0, m2h := [1, 2], waiting := [[7]] })
def presented : State := mb [] (fun m => { m with m2h := [1, 2], sent := true })
theorem witness_MailboxMessages :
    answered.hostActs false false = true ∧ (answered.mbx false).waiting = [[7]] ∧ (answered.mbx false).sent = false ∧
    (answered.mbx false).cmd = some [0x12340043] ∧ (answered.mbx false).reply = some 0 ∧ (answered.mbx false).drop = false ∧ answered.mgt.work = none ∧
    cmdOp [0x12340043] = 0x43 ∧ presented.hostActs false false = true ∧ (presented.mbx false).sent = true := by decide +kernel
theorem test_ack : ((after (.mailboxAcknowledgement false) answered).mbx false).ack = 0x12340000 ∧
    ((after (.mbxM2hDataRead false) presented).mbx false).m2h = [2] := by decide +kernel

def taken (ws : List Word) : State := mb [] (fun m => { m with cmd := some ws })
def nicheW : List Word := [0x12340301, 5, 0, 0x100]
/-- NICHE_SET of niche 5 with its record, and states in which it answers otherwise. -/
def nicheSet : State := { taken nicheW with mpa := Memory.write 0x10000000000 ((Memory.write 0x20 (leBytes 0x00400000 4) (Memory.write 4 [2] [(0, 1)])).bytes 0 0x60) [] }
theorem witness_NicheCommands :
    (nicheSet.commanded false 0x01 nicheW ∧ 4 ≤ nicheW.length ∧ cmdWord nicheW 1 ≤ 31 ∧ (nicheSet.niche 5).owner ≠ some true ∧ nicheSet.clean = true) ∧
    ((taken [0x12340301, 32, 0, 0x100]).commanded false 0x01 [0x12340301, 32, 0, 0x100] ∧ 31 < cmdWord [0x12340301, 32, 0, 0x100] 1) ∧
    (({ nicheSet with niches := [(5, ⟨some true, 0, 0, []⟩)] } : State).commanded false 0x01 nicheW ∧
      (({ nicheSet with niches := [(5, ⟨some true, 0, 0, []⟩)] } : State).niche 5).owner = some true) ∧
    (let s : State := { taken [0x12340102, 5] with niches := [(5, ⟨some false, 0, 1, []⟩)] }
     s.commanded false 0x02 [0x12340102, 5] ∧ (s.niche 5).owner = some false ∧ s.nicheBusy 5 ⟨0, 0, [], []⟩ = false ∧ s.sqNames 5 = false) := by
  unfold State.commanded; decide +kernel
def takeover : State := { taken [0x12340104, 0x21] with
  niches := [(0, ⟨some true, 0, 1, []⟩), (5, ⟨some true, 0, 2, []⟩), (6, ⟨some true, 0, 4, []⟩)]
  sqs := [(3, { Sq.reset with cfg := 0x800A0704, owner := some true, head := 5, tail := 7 })], cqs := [(7, { Cq.reset with owner := some true, cfg := 0x80000004 })] }
theorem witness_Takeover :
    takeover.wf = true ∧ takeover.commanded false 0x04 [0x12340104, 0x21] ∧
    ((rangeFrom 0 32).all (fun n => !bitAt (cmdWord [0x12340104, 0x21] 1) n || (takeover.niche n).owner == some true)) = true ∧
    (takeover.sq 3).owner.isSome = true ∧ bits (takeover.sq 3).cfg.toNat 21 17 = 5 ∧ bits (takeover.sq 3).cfg.toNat 16 8 = 7 ∧
    (takeover.cq 7).owner.isSome = true := by unfold State.commanded; decide +kernel
theorem test_takeover : ((after (.takeover false) takeover).niche 5).owner = some false ∧ ((after (.takeover false) takeover).sq 3).stopped = true ∧
    ((after (.takeover false) takeover).niche 6).owner = some true := by decide +kernel

def wk (i : Bool) (slot : Option Bool) : MgtWork := ⟨false, i, 0, slot⟩
def withMgt (ws : List Word) (g : Mgt → Mgt) : State := { taken ws with mgt := g up.mgt }
def shortStage : List Word := [0x12340340, 0, 0x100, 1]
theorem witness_FirmwareCommands :
    ((taken shortStage).commanded false 0x40 shortStage ∧ cmdWord shortStage 3 ≠ 0 ∧ (taken shortStage).clean = true ∧
      ((taken shortStage).readImage (cmdAddr shortStage 1) (cmdWord shortStage 3)).1 = cDone ∧
      ((taken shortStage).readImage (cmdAddr shortStage 1) (cmdWord shortStage 3)).2.1.formed 1 = false) ∧
    (let s := withMgt [0x12340241, 0, 0] (fun m => { m with staged := some ⟨[], []⟩ })
     s.commanded false 0x41 [0x12340241, 0, 0] ∧ s.otherBusy false = false ∧ s.mgt.opened ≠ 2 ∧ s.mgt.staged = some ⟨[], []⟩) ∧
    (let s := withMgt [0x12340042] (fun m => { m with work := some (wk false none) })
     s.commanded false 0x42 [0x12340042] ∧ s.otherBusy false = false ∧ s.mgt.work = some (wk false none)) ∧
    (withMgt [0x12340042] (fun m => { m with work := some (wk false (some true)) })).mgt.work = some (wk false (some true)) := by
  unfold State.commanded; decide +kernel
/-- A header that row 1 of Table 18.2 passes, and the fields whose change it does not. -/
def goodImg : FwImg := ⟨(Memory.write 0x10 (leBytes 1 4 ++ leBytes 1 4) (Memory.write 0 (leBytes 0x57464B46 4 ++ leBytes 1 4) [])).bytes 0 2048, [7]⟩
theorem test_formed : goodImg.formed 1 = true ∧ goodImg.formed 2 = false ∧ ({ goodImg with body := [] } : FwImg).formed 1 = false := by decide +kernel
def unlockW : List Word := [0x12340248, 0, 0x100]
theorem witness_ControllerCommands :
    (taken [0x12340043]).commanded false 0x43 [0x12340043] ∧
    (∀ ws ∈ ([[0x12340244, 1, 2], [0x12340244, 1, 3], [0x12340244, 2, 512], [0x12340244, 2, 513]] : List (List Word)),
      (taken ws).commanded false 0x44 ws ∧ 3 ≤ ws.length) ∧
    ((taken unlockW).commanded false 0x48 unlockW ∧ (taken unlockW).mgt.clearing = false ∧ (taken unlockW).clean = true ∧
      (taken unlockW).jobs = [] ∧ ((taken unlockW).readImage (cmdAddr unlockW 1) 2072).1 = cDone) ∧
    up.hostActs false false = true ∧
    ([0, 48, 49].all (fun n => let s := withMgt [0x12340043] (fun m => { m with misses := n })
      s.mgt.phase == 1 && s.unarmed && (s.mbx false).cmd.isSome)) = true := by unfold State.commanded; decide +kernel
theorem test_heartbeat : (after (.heartbeatCheck false) (withMgt [0x12340043] (fun m => { m with misses := 49 }))).mgt.standby = true ∧
    (after (.heartbeatCheck false) (withMgt [0x12340043] (fun m => { m with misses := 48 }))).mgt.misses = 49 := by decide +kernel

/-! ## Records read from plinth memory -/

def nicheRec : Memory := [(0, 1), (4, 2), (34, 0x40)]
def fwRec : Memory := [(0, 0x46), (1, 0x4B), (2, 0x46), (3, 0x57), (4, 1), (16, 1), (20, 1), (2048, 7)]
/-- Pedestal 0's plinth memory holding a record at its base. -/
def reading (ws : List Word) (m : Memory) : State := { taken ws with mpa := List.map (fun e => (e.1 + 0x10000000000, e.2)) m, dshare := 4095 }
theorem reading_plinth (ws : List Word) (m : Memory) (hm : m.wf = true) (n : Nat) (h0 : 0 < n) (h1 : n ≤ 0xA0000000) (hn : ∀ e ∈ m, e.1 < n)
    (only : Option Nat) (ho : only = none ∨ only = some 0) :
    ∃ bs, (reading ws m).readPlinth only 0x10000000000 n = (cDone, bs, reading ws m) ∧ recordOf bs = m ∧
      bs = Memory.bytes (List.map (fun e => (e.1 + 0x10000000000, e.2)) m) 0x10000000000 n :=
  ⟨_, State.readPlinth_quiet (s := reading ws m) (p := 0) ⟨rfl, rfl⟩ ⟨by omega, by decide, by unfold plinthBase; omega, rfl⟩ h0 only ho,
    recordOf_shifted hm _ _ hn, rfl⟩
theorem witness_NicheSetRecord :
    ∃ bs, (reading nicheW nicheRec).readPlinth none (cmdAddr nicheW 2) 0x5080 = (cDone, bs, reading nicheW nicheRec) ∧
      recordOf bs = nicheRec ∧ nicheRecBad nicheRec = false ∧ (reading nicheW nicheRec).nicheClash 5 (nicheRecOf nicheRec) = false ∧
      (clusOfMask (nicheRecOf nicheRec).clus).all (reading nicheW nicheRec).clusUsable = true ∧
      (reading nicheW nicheRec).nicheBusy 5 (nicheRecOf nicheRec) = false :=
  let ⟨bs, h, e, _⟩ := reading_plinth nicheW nicheRec (by decide) 0x5080 (by omega) (by omega) (by decide) none (.inl rfl)
  ⟨bs, h, e, by decide +kernel, by decide +kernel, by decide +kernel, by decide +kernel⟩
/-- The same record with a reserved bit, and with its cluster in use. -/
def nicheRecR : Memory := [(0, 1), (4, 2), (24, 1), (34, 0x40)]
def inUse : State := { reading nicheW nicheRec with jobs := [(1, some { job0 with cast := { cast0 with clus := [1] } })] }
theorem witness_NicheSetRefused :
    (∃ bs, (reading nicheW nicheRecR).readPlinth none (cmdAddr nicheW 2) 0x5080 = (cDone, bs, reading nicheW nicheRecR) ∧
      nicheRecBad (recordOf bs) = true) ∧
    (∃ bs, inUse.readPlinth none (cmdAddr nicheW 2) 0x5080 = (cDone, bs, inUse) ∧ recordOf bs = nicheRec ∧
      inUse.clean = true ∧ inUse.nicheClash 5 (nicheRecOf nicheRec) = false ∧ inUse.nicheBusy 5 (nicheRecOf nicheRec) = true) := by
  let ⟨a, h, e, _⟩ := reading_plinth nicheW nicheRecR (by decide) 0x5080 (by omega) (by omega) (by decide) none (.inl rfl)
  refine ⟨⟨a, h, by rw [e]; decide +kernel⟩, _, State.readPlinth_quiet (s := inUse) (p := 0) ⟨rfl, rfl⟩
    ⟨by decide, by decide, by decide, rfl⟩ (by omega) none (.inl rfl), recordOf_shifted (m := nicheRec) (by decide) _ _ (by decide),
    by decide +kernel, by decide +kernel, by decide +kernel⟩
def slotW : List Word := [0x12340203, 0, 0x100]
def oneSlot : Memory := [(0xC8000 + 4095 * 2 + 1, 0x80)]
theorem witness_SlotLoad : (reading slotW []).commanded false 0x03 slotW ∧ (reading slotW []).clean = true ∧
    (∃ bs, (reading slotW []).readPlinth none (cmdAddr slotW 1) 0xF0000 = (cDone, bs, reading slotW []) ∧ recordOf bs = [] ∧
      imageBad (some []) 4095 = false ∧ (reading slotW []).slotsBusy (some []) = false) ∧
    (∃ bs, (reading slotW oneSlot).readPlinth none (cmdAddr slotW 1) 0xF0000 = (cDone, bs, reading slotW oneSlot) ∧ recordOf bs = oneSlot ∧
      imageBad (some oneSlot) 4095 = true) :=
  let ⟨a, h, e, _⟩ := reading_plinth slotW [] (by decide) 0xF0000 (by omega) (by omega) (by decide) none (.inl rfl)
  let ⟨b, k, g, _⟩ := reading_plinth slotW oneSlot (by decide) 0xF0000 (by omega) (by omega) (by decide) none (.inl rfl)
  ⟨by unfold State.commanded; decide +kernel, by decide +kernel, ⟨a, h, e, by decide +kernel, by decide +kernel⟩, ⟨b, k, g, by decide +kernel⟩⟩
def stageW : List Word := [0x12340340, 0, 0x100, 2049]
theorem witness_FwStage : (reading stageW fwRec).commanded false 0x40 stageW ∧ (reading stageW fwRec).clean = true ∧
    ∃ i, (reading stageW fwRec).readImage (cmdAddr stageW 1) (cmdWord stageW 3) = (cDone, i, reading stageW fwRec) ∧ i.formed 1 = true := by
  refine ⟨by unfold State.commanded; decide +kernel, by decide +kernel, ?_⟩
  obtain ⟨bs, h, -, e⟩ := reading_plinth stageW fwRec (by decide) 2049 (by omega) (by omega) (by decide) (some 0) (.inr rfl)
  unfold State.readImage
  rw [show cmdAddr stageW 1 = 0x10000000000 from rfl, show cmdWord stageW 3 = 2049 from rfl, h, e]
  exact ⟨_, rfl, by decide +kernel⟩

/-! ## Lath -/

def port0 : Port := { Port.reset with present := true, st := 2, act := 0xFF, lmap := 0x76543210 }
def lath (f : Lath → Lath) (p : Port) : State := ({ up with lath := f { up.lath with id := 7 }, ftOff := some 5 } : State).updPort 3 (fun _ => p)
def goodLane : TrainLane := ⟨0, false, 0, Config.uid + 1, 9, 2, true⟩
theorem uid_next : Config.uid + 1 ≠ Config.uid := by
  generalize Config.uid = u; bv_omega
theorem witness_PortTraining :
    ((lath id port0).portUsable 3 ∧ ((lath id port0).port 3).present = true ∧ (lath id port0).hostActs false true = true) ∧
    ([0, 1, 4, 5, 6].all (fun st => (lath id { port0 with st := st }).mayTrain 3)) = true ∧
    ((lath id port0).port 3).st ≠ pTraining ∧ ((lath id port0).port 3).isUp = true ∧
    (let p := (lath id { port0 with st := pTraining }).port 3; p.st = pTraining ∧ p.expuid = 0) ∧
    ((List.replicate 8 goodLane).length = 8 ∧ Config.uid + 1 ≠ Config.uid ∧
      ∀ l ∈ List.replicate 8 goodLane, l.fault = 0 ∧ l.uid = Config.uid + 1 ∧ l.far = true) := by
  refine ⟨by unfold State.portUsable; decide +kernel, by decide +kernel, by decide +kernel, by decide +kernel, by decide +kernel, rfl, uid_next,
    fun l h => ?_⟩
  rw [List.eq_of_mem_replicate h]
  exact ⟨rfl, rfl, rfl⟩
theorem test_portTrain : ((after (.portTrain 3) (lath id { port0 with st := pDown })).port 3).st = pTraining ∧
    ((after (.lpresN 3 true) (lath id port0)).port 3).st = pDown := by decide +kernel

def blocks : State := lath id { port0 with unack := [(3, [5]), (4, [6])], replays := 2, rxSeq := 511 }
theorem witness_LinkLayer : ((blocks.port 3).isUp = true ∧ blocks.unarmed = true ∧
      (∀ lane : Fin 8, (blocks.port 3).act.getLsbD lane.val = true) ∧ (blocks.port 3).awaits ((blocks.port 3).logOf 0) ∧
      (blocks.port 3).rxMark ≠ some true ∧ (0 : Nat) ≠ (blocks.port 3).logOf 1) ∧
    (blocks.port 3).unack = [(3, [5]), (4, [6])] ∧ (blocks.port 3).txq = [] ∧ (blocks.port 3).replays < 16 ∧
    (0x40003 : BitVec 20).getLsbD 19 = false ∧ (0x40003 : BitVec 20).getLsbD 18 = true ∧ bits (0x40003 : BitVec 20).toNat 8 0 = 3 ∧
    bits (0x40003 : BitVec 20).toNat 17 9 = ((blocks.port 3).rxSeq + 1) % 512 ∧ bits (0x40203 : BitVec 20).toNat 17 9 ≠ 0 ∧
    (let s := lath id { port0 with unack := [(3, [5])], replays := 16 }
     (s.port 3).isUp = true ∧ s.unarmed = true ∧ (s.port 3).unack ≠ [] ∧ 16 ≤ (s.port 3).replays ∧ s.portUsable 3 ∧ (s.port 3).present = true) := by
  unfold Port.awaits State.portUsable; decide +kernel
theorem test_block : ((after (.linkBlockReceive ⟨3, 0⟩ 0x40003 [0] true false) blocks).port 3).unack = [(4, [6])] ∧
    ((after (.linkBlockReceive ⟨3, 0⟩ 0x40203 [0] true false) blocks).port 3).nak = true ∧
    ((after (.linkBlockReceive ⟨3, 0⟩ 0x40003 [0] true false) (after (.linkBlockReceive ⟨3, 1⟩ 0x40203 [0] true false) blocks)).port 3).rxTurn = 2 := by
  decide +kernel

/-- A marker of UID 77 whose T1 is 1600, whose remembered times are 1000 and 1010. -/
def marker : List Byte :=
  leBytes 1 8 ++ leBytes 77 8 ++ leBytes 9 2 ++ leBytes 2 1 ++ leBytes 0 1 ++ leBytes 0 4 ++ leBytes 1600 8 ++ leBytes 1000 8 ++ leBytes 1010 8
theorem witness_AlignmentMarkers : [fun l => { l with tport := 3 }, fun (l : Lath) => { l with root := true }].all (fun g =>
    let s := lath g port0
    (s.port 3).isUp && s.unarmed && ((s.port 3).rxq == []) && (s.port 3).rxOrder.contains (marker.getD 19 0).toNat && s.ftOff.isSome && marker.headD 0 == 1 && leNat ((marker.drop 32).take 8) != 0 && (s.lath.root || s.lath.tport == 3)) = true ∧
    (0 : BitVec 20).getLsbD 18 = false ∧ (0 : BitVec 20).getLsbD 19 = false := by decide +kernel
/-- Markers of the lanes are the next row: with 5 blocks sent, 3 idle ones come first. -/
theorem test_marker_row : ((after (.alignmentMarkerSend 3) (lath id { port0 with txBlk := 5 })).port 3).txBlk = 16 := by decide +kernel
theorem test_marker : ((after (.alignmentMarkerReceive 3 0 marker none) (lath id port0)).port 3).nbruid = 77 := by decide +kernel

def pk (ty : Nat) : Packet := ⟨ty, 5, 7, 9, 1, 0, 0, 0, 0, []⟩
def rcv (ps : List Packet) (f : Lath → Lath) : State := lath (fun l => f { l with rx := ps.map (fun p => (3, p)) }) port0
def away : Packet := { pk 1 with dmod := 9 }
def srAway : Packet := { away with flags := 4, addr := 0x35, aux := 2, hops := 2 }
/-- A discovery request with a return path of one hop, through port 3, and one without. -/
def ask (hops act id : Nat) : Packet := { pk 8 with dmod := 0xFFFF, pay := leBytes 3 8 ++ leBytes hops 1 ++ leBytes act 1 ++ leBytes id 2 }
theorem witness_RoutingCommands :
    (rcv [] id).hostActs false true = true ∧ (rcv [] id).lathBusy = false ∧
    (rcv [] (fun l => { l with tqs := [(0, { Tq.reset with cfg := 0x80000004 })] })).lathBusy = true ∧
    (let s := rcv [away] (fun l => { l with routes := [(9, 0x31)] })
     s.lath.rx = [(3, away)] ∧ s.isLocal away = false ∧ away.sr = false ∧ s.nextHop away = some 3) ∧
    (let s := rcv [{ away with hops := 1 }] (fun l => { l with routes := [(9, 0x31)] })
     s.nextHop { away with hops := 1 } = some 3) ∧
    (rcv [away] id).nextHop away = none ∧
    ((rcv [srAway] id).isLocal srAway = false ∧ srAway.sr = true ∧ srAway.hops ≤ srAway.aux ∧
      srAway.addr / 16 ^ (srAway.aux - srAway.hops) % 16 = 5 ∧ (((rcv [srAway] id).updPort 5 (fun _ => port0)).port 5).isUp = true) ∧
    ([0, 1].all (fun h => (rcv [ask h 0 0] id).isLocal (ask h 0 0) && (((rcv [ask h 0 0] id).discAnswer (ask h 0 0)).hops == h))) = true ∧
    (let a := (rcv [ask 1 0 0] id).discAnswer (ask 1 0 0); a.addr % 16 = 3 ∧ ((rcv [ask 1 0 0] id).port 3).isUp = true) ∧
    (let s := rcv [ask 0 1 5] (fun l => { l with id := 0 })
     s.isLocal (ask 0 1 5) = true ∧ s.lath.id = 0 ∧ s.lathBusy = false ∧ s.written modidOff = false ∧
       leNat (((ask 0 1 5).pay.drop 9).take 1) = 1 ∧ leNat (((ask 0 1 5).pay.drop 10).take 2) = 5) ∧
    (rcv [pk 9] id).isLocal (pk 9) = true := by decide +kernel
theorem test_forward : ((after .packetForward (rcv [{ away with hops := 1 }] (fun l => { l with routes := [(9, 0x31)] }))).lath.stat) = 2 ∧
    (after .discReq (rcv [ask 0 1 5] (fun l => { l with id := 0 }))).lath.id = 5 ∧
    (after (.lthModidWrite false 0x1234) (rcv [] id)).lath.id = 0x1234 := by decide +kernel

/-! ## Flows -/

def lbase (s : State) (f : Lath → Lath) : State :=
  ({ s with lath := f { s.lath with id := 7, routes := [(9, 0x31)] }, ftOff := some 5 } : State).updPort 3 (fun _ => port0)
def rft0 : Rft := { Rft.reset with cfg := BitVec.ofNat 32 (2 ^ 31 + 9), exp := 5, epoch := 2 }
def wp : Packet := ⟨1, 0, 7, 9, 1, 0x201, 5, 0x1000, 3, [1, 2, 3, 4]⟩
def sgp : Packet := { wp with ptype := 2, pay := [] }
def rx (p : Packet) (f : Rft → Rft) : State := lbase (paged []) (fun l => { l with rx := [(3, p)], rfts := [(1, f rft0)] })
def landedAt (p : Packet) : Option Nat × List PageMap × State := ((rx p id).updLath (fun l => { l with rx := [] })).landCheck rft0 p
/-- Is the packet of the flow's sender, and in time? -/
def mine (s : State) (p : Packet) : Bool :=
  let r := s.rft (p.flow % 4096)
  s.isLocal p && r.en && p.smod == r.smod && !bitAt p.flags 1 && p.epoch == r.epoch.toNat && !r.held
theorem witness_ReceiverPackets :
    ([wp, { wp with seq := 4 }, { wp with seq := 6 }, sgp, { wp with addr := 0x7000000000 }].all (fun p => mine (rx p id) p)) = true ∧
    (landedAt wp).1 = none ∧ (landedAt { wp with addr := 0x7000000000 }).1.isSome = true ∧
    (rft0.exp - BitVec.ofNat 32 wp.seq).toNat = 0 ∧ (rft0.exp - BitVec.ofNat 32 4).toNat = 1 ∧ 2 ^ 31 < (rft0.exp - BitVec.ofNat 32 6).toNat ∧
    (rx { wp with smod := 8 } id).isLocal { wp with smod := 8 } = true ∧ (8 : Nat) ≠ rft0.smod ∧ (rx sgp id).ras.rsts = [] ∧
    (let s := rx wp (fun r => { r with since := 31 }); s.unarmed = true ∧ (s.rft 1).since ≠ 0 ∧ (s.rft 1).en = true) := by decide +kernel
theorem test_writePacket : (after .writePacket (rx wp id)).mpa.bytes (dva 0x1000) 4 = [1, 2, 3, 4] ∧
    ((after .writePacket (rx { wp with seq := 6 } id)).rft 1).exp = 5 := by decide +kernel

def tqe (op len : Nat) : List Byte := leBytes op 4 ++ leBytes 0 4 ++ leBytes 0x1000 8 ++ leBytes 0x2FF0 8 ++ leBytes len 4 ++ leBytes 0 4
def tq0 : Tq := { Tq.reset with cfg := 0x80000004, dest := 0x00090001, base := 0x8000, next := 3, acked := 3 }
def tx (op len : Nat) : State := lbase ((paged [(0x10000008000, tqe op len)]).updPed 0 (fun d => { d with counters := [(0, 5)] })) (fun l => { l with tqs := [(2, tq0)] })
def tx1 (op len : Nat) : State := (tx op len).took 0
def txR (op len : Nat) : List Byte × Nat × State := (tx1 op len).readRun (Rec.base 0 1 0 none (some 0)) (tq0.entryAddr 0) 64
def txC (op len : Nat) : Option Nat × List PageMap × State :=
  (txR op len).2.2.tqCheck tq0 (tqEntryOf 0 (txR op len).1).1 (tqEntryOf 0 (txR op len).1).2
def nq (q : Tq) : State := lbase running (fun l => { l with tqs := [(2, q)] })
theorem witness_TransmitQueueEntries :
    ((nq { Tq.reset with pctr := 5 }).hostActs false true = true ∧ ((nq { Tq.reset with pctr := 5 }).tq 2).en = false) ∧
    ((tx 1 40).tqMayTake 2 ∧ (tx 3 40).tqMayTake 2 ∧ ((tx 3 40).tq 2).ents = [] ∧ (txR 1 40).2.1 = cDone ∧ (txR 3 40).2.1 = cDone) ∧
    ((tx 1 40).tq 2 = tq0 ∧ tq0.niche = 0 ∧ tq0.taken = 0) ∧ (txC 1 40).1 = none ∧ (txC 3 40).1 ≠ none := by
  unfold State.tqMayTake; decide +kernel
theorem test_tqEntry : ((after (.tqEntryTake 2) (tx 1 40)).tq 2).ents.map (fun e => (e.seq0, e.npk)) = [(3, 2)] ∧
    ((after (.tqEntryTake 2) (tx 1 40)).tq 2).next = 5 := by decide +kernel

def te : TqEntry := { (tqEntryOf 0 (txR 1 40).1).1 with maps := (txC 1 40).2.1, seq0 := 3, npk := 2 }
def ack (ty seq aux : Nat) : Packet := ⟨ty, 0, 7, 9, 1, 0, seq, 0, aux, []⟩
def sender (p : Packet) (es : List TqEntry) (f : Tq → Tq) : State :=
  lbase (paged []) (fun l => { l with rx := [(3, p)], tqs := [(2, f { tq0 with next := 5, ents := es })] })
theorem witness_SenderPackets :
    ([(ack 3 4 0, [te]), (ack 4 3 0, [te]), (ack 5 3 7, [te, te])].all (fun x =>
      let s := sender x.1 x.2 id
      s.isLocal x.1 && s.tqOf x.1 == some 2 && !(s.tq 2).held)) = true ∧
    ((BitVec.ofNat 32 4 + 1 - 3 : BitVec 32).toNat = 2 ∧ ¬ (5 - 3 : BitVec 32).toNat < 2) ∧ te.done = none ∧ (ack 5 3 7).aux % 256 ≤ cFaultPending ∧
    (BitVec.ofNat 32 9 + 1 - 3 : BitVec 32).toNat = 7 ∧ (5 - 3 : BitVec 32).toNat < 7 ∧
    (BitVec.ofNat 32 3 - te.seq0).toNat < te.npk ∧ ((BitVec.ofNat 32 4 + 1) - (te.seq0 + BitVec.ofNat 32 te.npk)).toNat < 2 ^ 31 ∧
    0 + 1 < (sender (ack 3 4 0) [te] id).retries ∧ (sender (ack 3 4 0) [te] (fun q => { q with expiries := 7 })).retries ≤ 7 + 1 ∧
    (sender (ack 3 4 0) [te] id).hostActs false true = true ∧ ((sender (ack 3 4 0) [te] (fun q => { q with held := true })).tq 2).held = true := by
  refine ⟨by decide +kernel, by decide +kernel, by decide +kernel, by decide +kernel, by decide +kernel, by decide +kernel, by decide +kernel,
    by decide +kernel, by decide +kernel, by decide +kernel, by decide +kernel, by decide +kernel⟩
theorem test_ackPacket : ((after .ackPacket (sender (ack 3 4 0) [te] id)).tq 2).ents = [] ∧
    ((after .ackPacket (sender (ack 3 9 0) [te] id)).tq 2).acked = 5 ∧ ((after .nackPacket (sender (ack 5 3 0x13) [te] id)).tq 2).held = false ∧
    ((after .nackPacket (sender (ack 5 3 7) [te] id)).tq 2).held = true := by decide +kernel

/-! ## Barriers -/

def w0 : BarWait := ⟨1, 0, 5, false, none⟩
def grp0 : Grp := { Grp.reset with bg := BitVec.ofNat 64 (3 + 7 * 65536 + 1 * 2 ^ 32) }
def barWaiting (w : BarWait) (t : Nat) : State :=
  { staged with lath := { staged.lath with id := 7, waits := [w], groups := [(0, grp0)] }, ftOff := some 5, now := t }
def w1 : BarWait := { w0 with sent := true }
def w2 : BarWait := { w1 with frel := some 3 }
def jobSt : Job := { job0 with st := .staged }
def arriving (p : Packet) (w : BarWait) : State := (barWaiting w 100).updLath (fun l => { l with rx := [(3, p)] })
def pa : Packet := ⟨0x0C, 32, 7, 9, 0, 0, 0, 3, 5, []⟩
def pr (fr : Nat) : Packet := ⟨0x0D, 32, 7, 9, 0, 0, 0, 3 * 2 ^ 48 + fr, 5, []⟩
theorem barrier_may_start (t : Nat) : (barWaiting w2 t).jobMayStart jobSt := staged_may_start
theorem witness_BarrierCommands :
    ([w0, w1, w2].all (fun w => (barWaiting w 100).barWait 1 == some w)) = true ∧
    ((barWaiting w0 100).job 1 = some jobSt ∧ w0.sent = false ∧ ((barWaiting w0 100).sq jobSt.sq).mayRun jobSt.seq ∧ grp0.leader = 7 ∧
      (barWaiting w0 100).lath.id ≠ 0) ∧
    ([100, 24576].all (fun t => let s := barWaiting w2 t
      (s.edgeOf 3 == some 24576) && s.wf && s.calm && !s.gated && s.ras.rsts.isEmpty && s.fresh.isEmpty)) = true ∧
    (barWaiting w2 24577).edgeOf 3 = some 24576 ∧
    ((arriving pa w0).isLocal pa = true ∧
      (arriving pa w0).lath.groups.find? (fun kv => kv.2.gid == pa.addr % 65536 && kv.2.leader == 7 && kv.2.nmem != 0) = some (0, grp0)) ∧
    ([0, 3].all (fun fr => (arriving (pr fr) w1).isLocal (pr fr) && ((arriving (pr fr) w1).released 3 (BitVec.ofNat 32 5) == [w1]))) = true ∧
    (pr 0).addr % 2 ^ 48 ≤ (arriving (pr 0) w1).fabricFrame ∧ ¬ (pr 3).addr % 2 ^ 48 ≤ (arriving (pr 3) w1).fabricFrame := by
  refine ⟨by decide +kernel, ⟨by decide +kernel, rfl, (barrier_may_start 100).2.1, by decide +kernel, by decide +kernel⟩, by decide +kernel,
    by decide +kernel, by decide +kernel, by decide +kernel, by decide +kernel, by decide +kernel⟩
theorem test_barrierStart : ((after (.barrierJobStart 1) (barWaiting w2 100)).job 1).map (·.st) = some .running ∧
    (after (.barrierJobStart 1) (barWaiting w2 100000)).job 1 = none := by decide +kernel
theorem test_barArrive : (after .barArrive (arriving pa w0)).lath.arrivals = [⟨3, 5, [9], true⟩] := by decide +kernel

/-! ## Resets, tests and event counters -/

def R (a b c d : Nat) (e f : Bool) : RstRun := ⟨a, b, c, d, e, f⟩
def busyS : State := { loaded.updCore 163 (fun c => { c with cstore := [(5, 1)], sreg := [(2, 2)] }) with casts := [] }
def resetting (r : RstRun) : State := { busyS with ras := { busyS.ras with rsts := [r], rststat := 0x08000000 } }
theorem witness_ResetCommands :
    loaded.hostActs false false = true ∧ loaded.calm = true ∧ loaded.ras.rsts = [] ∧ (loaded.through loaded.now).rstTarget 1 0 0 0 = some (R 1 0 0 0 true false) ∧
    ((loaded.through loaded.now).ras.rsts = [] ∧ ((resetting (R 1 1 2 3 true false)).through 100).ras.rsts ≠ [] ∧
      (resetting (R 1 1 2 3 true false)).hostActs false false = true ∧
      ((resetting (R 1 1 2 3 true false)).through 100).rstTarget 5 2 0 2 = some (R 5 2 0 2 false false)) ∧ loaded.rstTarget 1 0 0 0 = some (R 1 0 0 0 true false) ∧
    loaded.rstTarget 2 0 0 0 = some (R 2 0 0 0 true false) ∧ loaded.rstTarget 3 0 0 3 = some (R 3 0 0 3 false false) ∧
    loaded.rstTarget 5 2 0 2 = some (R 5 2 0 2 false false) ∧ loaded.rstTarget 6 3 0 3 = some (R 6 3 0 3 false false) ∧
    ((loaded.rstTarget 4 3 0 0).isSome = true ∧ 3 ≠ loaded.mgtPed) ∧
    ((resetting (R 1 1 2 3 true false)).ras.rsts ≠ [] ∧ (R 1 1 2 3 true false).test = false) := by decide +kernel
theorem test_resetComplete : ((after .resetComplete (resetting (R 1 1 2 3 true false))).core 163).cstore = [] ∧
    (after .resetComplete (resetting (R 1 1 2 3 true false))).ras.rsts = [] := by decide +kernel
theorem witness_ResetStopsJobs : loaded.hostActs false false = true ∧ loaded.calm = true ∧ loaded.wf = true ∧ loaded.ras.rsts = [] ∧ loaded.coreQueues = [] ∧
    (loaded.through loaded.now).job 1 = some job0 ∧ job0.st = .running ∧
    (loaded.through loaded.now).jobHit ⟨1, 0, 0, 0, ((loaded.through loaded.now).core 0).insvc, false⟩ job0 = true ∧
    (loaded.through loaded.now).jobHit ⟨2, 0, 0, 0, true, false⟩ job0 = true := by decide +kernel
theorem test_resetCore : ((after (.resetCore false k0) loaded).job 1).map (·.st) = some .stopping := by decide +kernel

def tested : State := { running.updPed 0 (fun d => { d with bstRun := some (BitVec.ofNat 32 (2 ^ 31 + 0x105), 1) }) with
  ras := { running.ras with rsts := [R 3 0 0 4 false true] } }
theorem witness_TestCommands :
    running.hostActs false true = true ∧ (running.bounceStarts 0).testRefused 0 1 0 0 = true ∧ (running.bounceStarts 0).testRefused 0 1 0 1 = false ∧
    tested.unarmed = true ∧ (tested.ped 0).bstRun = some (BitVec.ofNat 32 (2 ^ 31 + 0x105), 1) ∧
    tested.ras.rsts.find? (fun r => r.test && r.ped == 0) = some (R 3 0 0 4 false true) := by decide +kernel
theorem test_testCore : ((after (.testCore false k0) running).ped 0).bstStat = 0x40000000 := by decide +kernel
/-- Fifteen cores in service and one spare. -/
def spared : State := { running with
  active := 14
  jobs := []
  cores := ((0, { Core.reset with insvc := true, st := .idle }) ::
    (rangeFrom 1 15).map (fun i => (i, { Core.reset with spare := i = 15, insvc := i < 15, lcore := i }))) }
theorem witness_SubstituteCommand : spared.hostActs false true = true ∧ (spared.bounceStarts 0).substCode (coreKey k0) = cDone ∧
    (running.bounceStarts 0).substCode (coreKey k0) ≠ cDone := by decide +kernel
theorem test_substitute : ((after (.substitute false k0) spared).core 0).st = .outOfService := by decide +kernel
def counted : State := { running with evc := [(0, ⟨3, 7⟩), (1, ⟨4, 9⟩)] }
theorem witness_EventCounterCommands : counted.hostActs false true = true ∧ counted.wf = true ∧ evcValid 0 = true ∧ evcValid 16 = true ∧
    evcValid 8 = false := by decide +kernel
theorem test_evc : (after (.evcClear false 16 5) counted).evc = [(0, ⟨3, 7⟩), (1, ⟨5, 0⟩)] ∧ (after (.clearall false) counted).evc = [(0, ⟨3, 0⟩), (1, ⟨4, 0⟩)] := by
  decide +kernel

/-! ## Registers -/

def regs0 : State := running.updHif false (fun h => { h with capture := Tbl.set none 0x10 (some 7) h.capture })
theorem witness_RegisterAccess :
    regs0.hostActs false false = true ∧
    ([0x10, 0x14, 0x01100004].all (fun a => regs0.decodes a && (sycValAt a).isNone)) = true ∧
    (regs0.rd64 false 0x10).isSome = true ∧ regs0.rd64 false 0x14 = none ∧ Tbl.get none (regs0.hif false).capture 0x10 = some 7 ∧
    regs0.rd64 false 0x01100004 = none ∧ regs0.rd64 false 0x01100000 = none ∧ drawnBy 0x01100004 = false ∧
    (resetting (R 1 1 2 3 true false)).decodes (corePage 163) = false ∧ (resetting (R 1 1 2 3 true false)).hostActs false false = true ∧ regs0.ras.rsts = [] ∧ regs0.allUp = true := by decide +kernel
theorem test_registers : (after (.reg64LowRead false 0x14 4) regs0).sent = [.read (fnNum false) [7, 0, 0, 0] false] ∧
    (after (.registerWrite false 0x01100004 (leBytes 5 4)) regs0).ras.logcfg = 5 := by decide +kernel
def k12 : CoreId := ⟨0, 1, 2⟩
theorem witness_SyncRegistersAndInjections :
    running.hostActs false true = true ∧ running.ras.rsts = [] ∧ running.waiters 1029 = [] ∧ running.calm = true ∧ running.gated = false ∧
    running.badWithPlinth (1029 / 1024) hSync = false ∧ 1029 < 20480 ∧
    (∀ g ∈ ({ running with sigs := [⟨1029, 1, false, 200, none, 0, 0, 0, false, 0⟩] } : State).sigs, g.ctr = 1029 → running.now < g.due) ∧
    Tbl.get false (running.ped 1).ctrBad 5 = false ∧ bitAt 3 0 = true ∧ bitAt 2 0 = false ∧ running.watches = true := by decide +kernel
theorem test_syc : (after (.sycAdd false 1029 5) (after (.sycSet false 1029 0xFFFFFFFE) running)).ctrVal 1029 = 0xFFFFFFFF ∧
    (after (.envInjection false 0x01030020 1) running).pwr.stop = 21 ∧
    (after (.sycSet false 20480 7) running) = running := by decide +kernel
theorem test_errorInjection : (after (.errorInjectionArm false (BitVec.ofNat 32 (corePage (coreKey k12) + 0x400)) 3) running).arms.length = 1 := by
  decide +kernel

/-! ## Power -/

def cold : State := { State.reset with pwr := { Pwr.reset with pg := true, vin := 5400 } }
theorem witness_PowerGood : cold.pwr.pg = true ∧ cold.pwr.vmgt = false ∧ cold.pwr.latched = false ∧ cold.pwr.vin = 5400 ∧
    vinOk 5400 = true ∧ vinOk 100 = false ∧ up.pwr.vmgt = true := by decide +kernel
theorem test_powerGood : (after (.modPgRise false true false 5400) State.reset).pwr.phase = 1 ∧
    (after (.modPgRise false true false 100) State.reset).pwr.vmgt = false := by decide +kernel
def ph (n : Nat) (g : Pwr → Pwr) (m : Mgt → Mgt) : State :=
  { running with pwr := g { up.pwr with phase := n, state := 0, ready := false }, mgt := m up.mgt, mpa := [(5, 5)] }
def pe : PhaseEnd := { ports := [false, true], hbms := [3], fuseErr := false, finds := [] }
theorem witness_StartUp :
    (rangeFrom 1 10).all (fun n => let s := ph n id id; s.pwr.vmgt && s.pwr.stop == 0 && s.unarmed && s.pwr.phase == n) = true ∧
    ((ph 3 id (fun m => { m with phase := 0 })).mgt.phase = 0 ∧ pe.fuseErr = false) ∧
    (ph 10 id id).readyMet = true ∧ ((ph 10 id id).setHealth 3 hSwitch 1).readyMet = false := by decide +kernel
theorem test_startUp : (after (.startupPhase pe) (ph 4 (fun p => { p with okRun := 21 }) id)).pwr.phase = 5 ∧
    (after (.startupPhase pe) (ph 4 (fun p => { p with okRun := 20 }) id)).pwr.phase = 4 := by decide +kernel
def sh (g : Pwr → Pwr) : State := { running with pwr := g { up.pwr with phase := 11 }, mpa := [(5, 5)] }
theorem witness_Shutdown :
    (sh id).pwr.vmgt = true ∧ (sh id).pwr.stop = 0 ∧
    [1, 2, 3, 4, 11, 12, 14, 21, 22, 24].all (fun n => (sh (fun p => { p with stop := n })).pwr.stop == n) = true ∧
    (let s := sh (fun p => { p with stop := 13, rstN := true }); s.pwr.stop = 13 ∧ s.pwr.rstN = true) ∧
    (let s := sh (fun p => { p with stop := 23, fatal := some 0 }); s.pwr.stop = 23 ∧ s.pwr.fatal = some 0) := by decide +kernel
theorem test_shutdown : (after (.orderlyShutdownStage true) (sh (fun p => { p with stop := 1 }))).job 1 = none ∧
    (after .emergencyShutdownStage (sh (fun p => { p with stop := 21 }))).mpa = [] := by decide +kernel
theorem witness_PowerFaults : (sh id).watches = true ∧ (sh id).railsUp = true ∧ (sh id).pwr.pedoff.getLsbD 3 = false ∧ (sh id).pwr.droop = false ∧
    3 ≤ (sh id).pwr.phase ∧ (sh (fun p => { p with droop := true })).pwr.droop = true ∧ (sh id).pwr.lock = true := by decide +kernel
theorem test_droop : (after (.droopClear 65536) (sh (fun p => { p with droop := true }))).pwr.stop = 0 ∧
    (after (.droopClear 65537) (sh (fun p => { p with droop := true }))).pwr.stop = 21 := by decide +kernel
def spent : State := sh (fun p => { p with droop := true, withheld := 750000, stretches := [(0, 750000)] })
theorem test_gate_limit : spent.gateSpent 36432 = 786432 ∧ (after (.droopClear 36432) spent).pwr.stop = 0 ∧
    (after (.droopClear 36433) spent).pwr.stop = 21 := by decide +kernel
theorem test_restart :
    let s := after (.orderlyShutdownStage true) (sh (fun p => { p with stop := 4, pg := true, vin := 5400 }))
    s.pwr.vmgt = false ∧ (after .vmgtOffRestart s).pwr.phase = 1 := by decide +kernel
theorem test_faults : (after (.vinLow 4299) (sh id)).pwr.stop = 21 ∧ (after (.vinLow 4300) (sh id)).pwr.stop = 0 ∧
    (after (.railShort 3 .vcore) (sh id)).pwr.pedoff = 8 := by decide +kernel
theorem witness_ThrottleAndCooling : (sh id).mgtRuns = true ∧ (sh (fun p => { p with atLimit := 10000 })).pwr.atLimit = 10000 ∧
    (sh id).hostActs false false = true ∧ (sh id).unarmed = true ∧ (sh id).watches = true ∧ (sh id).railsUp = true ∧ lineState 99 = 3 ∧ lineState 100 = 1 ∧ lineState 49999 = 1 ∧ lineState 50000 = 0 ∧
    1100 ≤ tempOf ([1200, 5].getD 0 0) ∧ 1 ≤ Tbl.get 0 (sh (fun p => { p with tjRun := [(0, 1)] })).pwr.tjRun 0 := by decide +kernel
theorem test_throttle : (after (.throttleSample 7500 5400 100) (sh id)).pwr.level = 1 ∧
    (after (.thermalSample [1200, 5] [0]) (sh (fun p => { p with tjRun := [(0, 1)] }))).pwr.stop = 21 := by decide +kernel
theorem test_cooling : (after (.coolantSample 139 200 250 60000 60000) (sh id)).pwr.flowRun = 1 ∧
    (after (.pwrCapWrite false 1499) (sh id)) = sh id := by decide +kernel

/-! ## Management -/

theorem witness_ManagementRequests : running.pwr.vmgt = true ∧ running.mgt.phase ≠ 0 ∧ mctpTypes ≠ [] ∧ sensorIds.length = 41 ∧
    (∃ id v, running.reading id = some v) ∧ (∃ id v, running.stateReading id = some v) := by
  refine ⟨by decide +kernel, by decide +kernel, by decide +kernel, by decide +kernel, ?_, ?_⟩
  · exact ⟨(sensorIds.find? (fun i => (running.reading i).isSome)).getD 0,
      (running.reading ((sensorIds.find? (fun i => (running.reading i).isSome)).getD 0)).getD 0, by decide +kernel⟩
  · exact ⟨(sensorIds.find? (fun i => (running.stateReading i).isSome)).getD 0,
      (running.stateReading ((sensorIds.find? (fun i => (running.stateReading i).isSome)).getD 0)).getD 0, by decide +kernel⟩
/-- Events held for a receiver go once there is one, the alert low while they do. -/
theorem test_alert : (after (.setEventReceiver true 9) { running with mgt := { running.mgt with events := [(1, 2, [3])] } }).sent =
    [.mgmt 2 1 250 0 [], .smbAlert false, .pldmEvent 1 2 [3], .smbAlert true] := by decide +kernel
theorem test_mctp : (after (.setEndpointId 9) running).mgt.eid = 9 ∧ (after (.setEndpointId 0xFF) running).mgt.eid = 8 := by decide +kernel
def sp (k : Nat) (ss : List Session) : State := { running with mgt := { running.mgt with spdm := [(0, k)], sessions := ss } }
theorem witness_AttestationRequests :
    [sp 0 [], sp 2 [], sp 3 [⟨7, 0, false⟩], sp 3 [⟨7, 0, true⟩]].all (fun s => s.pwr.vmgt && s.mgt.phase == 1 && (s.hif false).linkUp &&
      s.pcieUp && s.mgt.opened != 2) = true ∧
    (sp 2 []).spdmStep 0 = 2 ∧ (sp 3 []).spdmStep 0 = 3 ∧ (sp 0 []).spdmStep 0 = 0 ∧
    (sp 3 [⟨7, 0, false⟩]).session 0 7 = some ⟨7, 0, false⟩ ∧ (sp 3 [⟨7, 0, true⟩]).session 0 7 = some ⟨7, 0, true⟩ ∧
    (sp 3 [⟨7, 0, true⟩, ⟨8, 0, true⟩, ⟨9, 0, true⟩, ⟨10, 0, true⟩]).mgt.sessions.length = 4 ∧
    (let s := sp 3 []; ({ s with mgt := { s.mgt with opened := 2 } } : State).mgt.opened = 2) := by decide +kernel
theorem test_spdm : ((after (.negotiateAlgorithms 0 true) (sp 2 [])).spdmStep 0 = 3) ∧
    ((after (.finish 0 7 true) (sp 3 [⟨7, 0, false⟩])).session 0 7).map (·.done) = some true := by decide +kernel

end

end Sys2Proof.Tests
end

section
/-! The codes of the floating formats by their fields (Tables 02.1 and 02.7, R65 to R68): a code put together from a sign,
an exponent and a fraction gives these fields back, and so has the value that chapter 02 gives for them. -/
namespace Sys2Proof

/-- The code with the sign, exponent and fraction fields named, as Table 02.1 lays them out. -/
def FloatC.code (c : FloatC) (neg : Bool) (e fr : Nat) : Nat :=
  (if neg then 2 ^ (c.w - 1) else 0) + e * 2 ^ c.f + fr

/-- The significand of an exponent and a fraction field: the leading 1 is there unless the exponent field is 0. -/
def FloatC.significand (c : FloatC) (e fr : Nat) : Nat := if e = 0 then fr else 2 ^ c.f + fr

/-- The exponent of the significand's last bit: exponent field 0 has the weight of exponent field 1. -/
def FloatC.weight (c : FloatC) (e : Nat) : Int := (if e = 0 then 1 else (e : Int)) - (c.bias + c.f)

/-! ### Fields of a code -/

section
variable {c : FloatC} {neg : Bool} {e fr : Nat}

theorem FloatC.code_false : c.code false e fr = e * 2 ^ c.f + fr := by
  rw [FloatC.code, if_neg Bool.false_ne_true, Nat.zero_add]

theorem FloatC.code_true : c.code true e fr = 2 ^ (c.w - 1) + (e * 2 ^ c.f + fr) := by
  rw [FloatC.code, if_pos rfl, Nat.add_assoc]

/-- The exponent and fraction fields fill the bits below the sign. -/
theorem FloatC.magnitude_lt (hw : c.f ≤ c.w - 1) (he : e < 2 ^ (c.w - 1 - c.f)) (hf : fr < 2 ^ c.f) :
    e * 2 ^ c.f + fr < 2 ^ (c.w - 1) :=
  calc e * 2 ^ c.f + fr < (e + 1) * 2 ^ c.f := by rw [Nat.succ_mul]; omega
    _ ≤ 2 ^ (c.w - 1 - c.f) * 2 ^ c.f := Nat.mul_le_mul_right _ he
    _ = 2 ^ (c.w - 1) := by rw [← Nat.pow_add, Nat.sub_add_cancel hw]

theorem FloatC.code_fraction (hw : c.f ≤ c.w - 1) (hf : fr < 2 ^ c.f) : c.code neg e fr % 2 ^ c.f = fr := by
  have hmagnitude : (e * 2 ^ c.f + fr) % 2 ^ c.f = fr := by rw [Nat.mul_add_mod_self_right, Nat.mod_eq_of_lt hf]
  cases neg with
  | false => rw [FloatC.code_false, hmagnitude]
  | true =>
    have hsign : 2 ^ (c.w - 1) % 2 ^ c.f = 0 := Nat.mod_eq_zero_of_dvd (Nat.pow_dvd_pow 2 hw)
    rw [FloatC.code_true, Nat.add_mod, hsign, Nat.zero_add, Nat.mod_mod, hmagnitude]

theorem FloatC.code_mod_signBit (hw : c.f ≤ c.w - 1) (he : e < 2 ^ (c.w - 1 - c.f)) (hf : fr < 2 ^ c.f) :
    c.code neg e fr % 2 ^ (c.w - 1) = e * 2 ^ c.f + fr := by
  have hlt := FloatC.magnitude_lt hw he hf
  cases neg with
  | false => rw [FloatC.code_false, Nat.mod_eq_of_lt hlt]
  | true => rw [FloatC.code_true, Nat.add_mod_left, Nat.mod_eq_of_lt hlt]

theorem FloatC.code_exponent (hw : c.f ≤ c.w - 1) (he : e < 2 ^ (c.w - 1 - c.f)) (hf : fr < 2 ^ c.f) :
    c.code neg e fr / 2 ^ c.f % 2 ^ (c.w - 1 - c.f) = e :=
  calc c.code neg e fr / 2 ^ c.f % 2 ^ (c.w - 1 - c.f)
      = c.code neg e fr % 2 ^ (c.w - 1) / 2 ^ c.f := by
        rw [← Nat.mod_mul_right_div_self, ← Nat.pow_add, Nat.add_sub_cancel' hw]
    _ = (fr + e * 2 ^ c.f) / 2 ^ c.f := by rw [FloatC.code_mod_signBit hw he hf, Nat.add_comm]
    _ = e := by rw [Nat.add_mul_div_right _ _ (Nat.two_pow_pos _), Nat.div_eq_of_lt hf, Nat.zero_add]

theorem FloatC.code_sign (hw : c.f ≤ c.w - 1) (he : e < 2 ^ (c.w - 1 - c.f)) (hf : fr < 2 ^ c.f) :
    c.code neg e fr / 2 ^ (c.w - 1) % 2 = neg.toNat := by
  have hlt := FloatC.magnitude_lt hw he hf
  cases neg with
  | false => rw [FloatC.code_false, Nat.div_eq_of_lt hlt]; rfl
  | true => rw [FloatC.code_true, Nat.add_div_left _ (Nat.two_pow_pos _), Nat.div_eq_of_lt hlt]; rfl

theorem FloatC.magnitude_eq_zero_iff : e * 2 ^ c.f + fr = 0 ↔ e = 0 ∧ fr = 0 := by
  have hpos : 2 ^ c.f ≠ 0 := Nat.ne_of_gt (Nat.two_pow_pos _)
  rw [Nat.add_eq_zero_iff, Nat.mul_eq_zero, or_iff_left hpos]

/-- Of the codes with fields in range, only that of negative zero reads as the sign bit alone. -/
theorem FloatC.code_mod_eq_signBit_iff (hw : c.f ≤ c.w - 1) (hpos : 1 ≤ c.w) (he : e < 2 ^ (c.w - 1 - c.f))
    (hf : fr < 2 ^ c.f) : c.code neg e fr % 2 ^ c.w = 2 ^ (c.w - 1) ↔ neg = true ∧ e = 0 ∧ fr = 0 := by
  have hlt := FloatC.magnitude_lt hw he hf
  have hwidth : 2 ^ c.w = 2 ^ (c.w - 1) * 2 := by rw [← Nat.pow_succ, Nat.succ_eq_add_one, Nat.sub_add_cancel hpos]
  rw [← FloatC.magnitude_eq_zero_iff (c := c), hwidth]
  cases neg with
  | false =>
    rw [FloatC.code_false, Nat.mod_eq_of_lt (by omega)]
    exact ⟨fun h => absurd h (Nat.ne_of_lt hlt), fun h => absurd h.1 Bool.false_ne_true⟩
  | true =>
    rw [FloatC.code_true, Nat.mod_eq_of_lt (by omega)]
    exact ⟨fun h => ⟨rfl, Nat.add_eq_left.mp h⟩, fun h => Nat.add_eq_left.mpr h.2⟩

end

/-! ### Values of codes -/

theorem Fmt.consts_fraction_lt_width (f : Fmt) : f.consts.f ≤ f.consts.w - 1 := by cases f <;> decide

section
variable {f : Fmt} {neg : Bool} {e fr : Nat}

theorem floatValue_code (he : e < 2 ^ (f.consts.w - 1 - f.consts.f)) (hf : fr < 2 ^ f.consts.f) :
    floatValue f (f.consts.code neg e fr) =
      ⟨if neg then -(f.consts.significand e fr : Int) else f.consts.significand e fr, f.consts.weight e⟩ := by
  have hw := f.consts_fraction_lt_width
  rw [floatValue, FloatC.code_sign hw he hf, FloatC.code_exponent hw he hf, FloatC.code_fraction hw hf]
  have hneg : (neg.toNat == 1) = neg := by cases neg <;> rfl
  have hsignificand : (if e = 0 then (fr : Int) else fr + 2 ^ f.consts.f) = f.consts.significand e fr := by
    unfold FloatC.significand
    split
    · rfl
    · rw [Int.natCast_add, Int.natCast_pow, Int.add_comm]; rfl
  have hweight : (if e = 0 then 1 - f.consts.bias - f.consts.f else (e : Int) - f.consts.bias - f.consts.f) =
      f.consts.weight e := by
    unfold FloatC.weight
    split <;> rw [Int.sub_sub]
  simp only [hneg, hsignificand, hweight]

theorem readFloat_code (he : e < 2 ^ (f.consts.w - 1 - f.consts.f)) (hf : fr < 2 ^ f.consts.f)
    (hnum : ¬ isNaN f (f.consts.code neg e fr) = true) :
    readFloat f (f.consts.code neg e fr) =
      .num ⟨if neg then -(f.consts.significand e fr : Int) else f.consts.significand e fr, f.consts.weight e⟩ := by
  rw [readFloat, if_neg hnum, floatValue_code he hf]

/-- The first case of R65 to R67, exponent field 0. -/
theorem readFloat_subnormal (hf : fr < 2 ^ f.consts.f) (hnum : ¬ isNaN f (f.consts.code neg 0 fr) = true) :
    readFloat f ((if neg then 2 ^ (f.consts.w - 1) else 0) + fr) =
      .num ⟨if neg then -(fr : Int) else fr, 1 - (f.consts.bias + f.consts.f)⟩ := by
  have hcode : f.consts.code neg 0 fr = (if neg then 2 ^ (f.consts.w - 1) else 0) + fr := by
    rw [FloatC.code, Nat.zero_mul, Nat.add_zero]
  rw [← hcode, readFloat_code (Nat.two_pow_pos _) hf hnum, FloatC.significand, FloatC.weight, if_pos rfl, if_pos rfl]

/-- The second case of R65 to R67, an exponent field above 0. -/
theorem readFloat_normal (hpos : 1 ≤ e) (he : e < 2 ^ (f.consts.w - 1 - f.consts.f)) (hf : fr < 2 ^ f.consts.f)
    (hnum : ¬ isNaN f (f.consts.code neg e fr) = true) :
    readFloat f (f.consts.code neg e fr) =
      .num ⟨if neg then -((2 ^ f.consts.f + fr : Nat) : Int) else (2 ^ f.consts.f + fr : Nat),
        e - (f.consts.bias + f.consts.f)⟩ := by
  have hne : e ≠ 0 := by omega
  rw [readFloat_code he hf hnum, FloatC.significand, FloatC.weight, if_neg hne, if_neg hne]

end

/-! ### Codes that are no NaN -/

section
variable {neg : Bool} {e fr : Nat}

theorem isNaN_fe8_code_iff (he : e < 16) (hf : fr < 8) :
    isNaN .fe8 (Fmt.fe8.consts.code neg e fr) = true ↔ neg = true ∧ e = 0 ∧ fr = 0 :=
  beq_iff_eq.trans (FloatC.code_mod_eq_signBit_iff (c := Fmt.fe8.consts) (by decide) (by decide) he hf)

theorem isNaN_fe16_code_iff (he : e < 64) (hf : fr < 512) :
    isNaN .fe16 (Fmt.fe16.consts.code neg e fr) = true ↔ neg = true ∧ e = 0 ∧ fr = 0 :=
  beq_iff_eq.trans (FloatC.code_mod_eq_signBit_iff (c := Fmt.fe16.consts) (by decide) (by decide) he hf)

theorem isNaN_fa32_code_iff (he : e < 256) (hf : fr < 2 ^ 23) :
    isNaN .fa32 (Fmt.fa32.consts.code neg e fr) = true ↔ e = 255 := by
  have hexp : Fmt.fa32.consts.code neg e fr / 2 ^ 23 % 256 = e :=
    FloatC.code_exponent (c := Fmt.fa32.consts) (by decide) he hf
  exact beq_iff_eq.trans (by rw [hexp])

end

/-- Settles O8: the values of the FE8, FE16 and FA32 codes that are no NaN are those of their fields. -/
theorem formatCodes : Obligations.FormatCodes := by
  unfold Obligations.FormatCodes
  refine ⟨fun neg e fr hf => ⟨fun hnz => ?_, fun h1 h2 => ?_⟩, fun neg e fr hf => ⟨fun hnz => ?_, fun h1 h2 => ?_⟩,
    fun neg e fr hf => ⟨?_, fun h1 h2 => ?_⟩, rfl, rfl⟩
  · exact readFloat_subnormal (f := .fe8) hf (mt (isNaN_fe8_code_iff (by decide) hf).1 fun ⟨hneg, _, hfr⟩ => hnz ⟨hneg, hfr⟩)
  · have he : e < 16 := by omega
    exact readFloat_normal (f := .fe8) h1 he hf (mt (isNaN_fe8_code_iff he hf).1 (by omega))
  · exact readFloat_subnormal (f := .fe16) hf (mt (isNaN_fe16_code_iff (by decide) hf).1 fun ⟨hneg, _, hfr⟩ => hnz ⟨hneg, hfr⟩)
  · have he : e < 64 := by omega
    exact readFloat_normal (f := .fe16) h1 he hf (mt (isNaN_fe16_code_iff he hf).1 (by omega))
  · exact readFloat_subnormal (f := .fa32) hf (mt (isNaN_fa32_code_iff (by decide) hf).1 (by decide))
  · have he : e < 256 := by omega
    exact readFloat_normal (f := .fa32) h1 he hf (mt (isNaN_fa32_code_iff he hf).1 (by omega))

end Sys2Proof
end

section
/-! The issue of a bundle that nothing keeps from issuing: it meets no hold, no fault and no injected error, so its four plans
are carried out whole and every result of theirs is in flight (R214, R222, R293). -/
namespace Sys2Proof.Machine
open Sys2Proof

/-! ### Reads with no injection armed (R671) -/

/-- A fold stays where each of its steps stays. -/
theorem foldl_of_fixed {σ β : Type} {f : σ → β → σ} {a : σ} (h : ∀ x, f a x = a) (l : List β) : l.foldl f a = a := by
  induction l with
  | nil => rfl
  | cons x l ih => rw [List.foldl_cons, h, ih]

theorem State.core_of_sansEv {a b : State} (h : a.sansEv = b.sansEv) (key : Nat) : a.core key = b.core key :=
  (congrArg (State.core · key) h : _)

theorem State.unarmed_of_sansEv {a b : State} (h : a.sansEv = b.sansEv) : a.unarmed = b.unarmed :=
  (congrArg State.unarmed h : _)

section
variable {s : State} (h : s.unarmed = true)
include h

theorem State.arm_of_unarmed (off tgt : Nat) : s.arm off tgt = 0 := by
  rw [State.arm, List.isEmpty_iff.1 h]
  rfl

theorem State.injRead_of_unarmed (key off tgt det : Nat) : s.injRead key off tgt det = (false, s) := by
  simp only [State.injRead, State.arm_of_unarmed h]

theorem State.injClus_of_unarmed (key : Nat) : s.injClus key = (false, s) := by
  simp only [State.injClus, State.arm_of_unarmed h]

theorem State.injSfu_of_unarmed (key tgt : Nat) : s.injSfu key tgt = (false, s) := by
  simp only [State.injSfu, State.injRead_of_unarmed h, Bool.false_eq_true, if_false]

/-- With nothing armed no read of a slot fails, and only an access to the cluster store is counted. -/
theorem State.slotReads_of_unarmed (key : Nat) (p : Plan) :
    s.slotReads key p = (false, if p.rdClus then s.evK (clusOfCore key) 0x01 1 else s) := by
  have hc : (s.evK (clusOfCore key) 0x01 1).unarmed = true := (State.unarmed_of_sansEv (State.ev_keeps ..)).trans h
  unfold State.slotReads
  dsimp only
  rw [foldl_of_fixed (a := (false, s)) (fun r => by cases r <;> simp only [State.injRead_of_unarmed h, Bool.or_self])]
  have hcore : (if p.rdCore then (false || (s.injRead key 0x400 0 0x01).1, (s.injRead key 0x400 0 0x01).2) else (false, s)) =
      (false, s) := by simp only [State.injRead_of_unarmed h, Bool.or_self, ite_self]
  rw [hcore]
  cases p.rdClus with
  | false => exact foldl_of_fixed (fun x => by simp only [State.injSfu_of_unarmed h, Bool.or_self, Bool.false_eq_true, if_false]) _
  | true =>
    simp only [if_true, State.injClus_of_unarmed hc, Bool.or_self]
    exact foldl_of_fixed (fun x => by simp only [State.injSfu_of_unarmed hc, Bool.or_self]) _

theorem State.slotReads_sansEv (key : Nat) (p : Plan) : (s.slotReads key p).2.sansEv = s.sansEv := by
  rw [State.slotReads_of_unarmed h]
  split
  · exact State.ev_keeps ..
  · rfl

end

/-! ### The plans of a bundle, slot by slot -/

/-- The operand reads of the slots in turn: those that fail, and the state after. -/
def State.readSlots (key : Nat) (ps : List (Nat × Plan)) (acc : List Nat × State) : List Nat × State :=
  ps.foldl (fun acc p => (if (acc.2.slotReads key p.2).1 then acc.1 ++ [p.1] else acc.1, (acc.2.slotReads key p.2).2)) acc

/-- One slot whose reads all succeed: its results are booked and it acts. -/
def State.carrySlot (key t : Nat) (s : State) (p : Nat × Plan) : State :=
  State.doAct key t p.2.act (s.updCore key (Core.book t p.1 p.2))

theorem State.readSlots_of_unarmed (key : Nat) (ps : List (Nat × Plan)) {s : State} (h : s.unarmed = true) :
    (State.readSlots key ps ([], s)).1 = [] ∧ (State.readSlots key ps ([], s)).2.sansEv = s.sansEv := by
  induction ps generalizing s with
  | nil => exact ⟨rfl, rfl⟩
  | cons p ps ih =>
    have hev : (s.slotReads key p.2).2.sansEv = s.sansEv := State.slotReads_sansEv h key p.2
    have hstep : State.readSlots key (p :: ps) ([], s) = State.readSlots key ps ([], (s.slotReads key p.2).2) := by
      simp only [State.readSlots, List.foldl_cons, State.slotReads_of_unarmed h, Bool.false_eq_true, if_false]
    obtain ⟨hfail, hstate⟩ := ih ((State.unarmed_of_sansEv hev).trans h)
    rw [hstep]
    exact ⟨hfail, hstate.trans hev⟩

/-- With nothing armed every slot of the bundle is carried out. -/
theorem State.effects_of_unarmed (key t : Nat) (ps : List (Nat × Plan)) {s : State} (h : s.unarmed = true) :
    ∃ u : State, u.sansEv = s.sansEv ∧ s.effects key t ps = (ps.foldl (State.carrySlot key t) u).updCore key (Core.next t) := by
  obtain ⟨hfail, hstate⟩ := State.readSlots_of_unarmed key ps h
  refine ⟨_, hstate, ?_⟩
  have hdef : s.effects key t ps = (ps.foldl (fun u p => if (State.readSlots key ps ([], s)).1.contains p.1 then u
      else State.carrySlot key t u p) (State.readSlots key ps ([], s)).2).updCore key (Core.next t) := rfl
  rw [hdef, hfail]
  rfl

/-! ### Results in flight -/

theorem Core.setFree_flights (t : Nat) (e : Engine) (c : Core) : (c.setFree t e).flights = c.flights := by cases e <;> rfl

/-- Booking a slot puts each of its results in flight, after those already there. -/
theorem Core.book_flights (t i : Nat) (p : Plan) (c : Core) :
    (c.book t i p).flights = c.flights ++ p.res.map (fun r => ⟨t + r.lat, i, r.wr, r.flags⟩) := by
  have hocc : (p.occ.foldl (fun c e => if e.1 = .send then c else c.setFree (t + e.2) e.1) c).flights = c.flights :=
    foldl_keeps Core.flights _ (fun c e => by
      split
      · rfl
      · exact Core.setFree_flights ..) _ _
  exact congrArg (· ++ _) hocc

theorem Core.setDq_flights (q : Nat) (d : DQueue) (c : Core) : (c.setDq q d).flights = c.flights := by
  unfold Core.setDq
  split <;> rfl

theorem Core.next_flights (t : Nat) (c : Core) : (c.next t).flights = c.flights := by
  unfold Core.next
  dsimp only
  split <;> rfl

theorem State.issueSignal_core (key id inc t : Nat) (s : State) (j : Nat) : (s.issueSignal key id inc t).core j = s.core j := by
  unfold State.issueSignal
  dsimp only
  split <;> rfl

/-- What a slot does besides landing results takes no result out of flight. -/
theorem State.doAct_flights (key t : Nat) (a : Act) (s : State) :
    (s.core key).flights ⊆ ((State.doAct key t a s).core key).flights := by
  cases a with
  | none => exact List.Subset.refl _
  | signal ctr inc => rw [State.doAct, State.issueSignal_core]; exact List.Subset.refl _
  | dmaq q sd addr =>
    simp only [State.doAct, State.issueDmaq, State.updCore_core_self]
    exact List.subset_append_left ..
  | dwait q seq => simp only [State.doAct, State.updCore_core_self]; split <;> exact List.Subset.refl _
  | asend route n src dst ctr =>
    simp only [State.doAct, State.issueSend, State.bookSend, State.updCore_core_self]
    exact List.Subset.refl _
  | branch | wait | yield | halt | fclr | sfswap =>
    simp only [State.doAct, State.updCore_core_self, Core.stopAs, Core.clearFlags]
    exact List.Subset.refl _

section
variable {key t : Nat}

theorem State.carrySlot_flights (s : State) (p : Nat × Plan) :
    (s.core key).flights ++ p.2.res.map (fun r => ⟨t + r.lat, p.1, r.wr, r.flags⟩) ⊆
      ((State.carrySlot key t s p).core key).flights := by
  have hact := State.doAct_flights key t p.2.act (s.updCore key (Core.book t p.1 p.2))
  rwa [State.updCore_core_self, Core.book_flights] at hact

theorem State.foldl_carrySlot_flights (ps : List (Nat × Plan)) (s : State) :
    (s.core key).flights ⊆ ((ps.foldl (State.carrySlot key t) s).core key).flights := by
  induction ps generalizing s with
  | nil => exact List.Subset.refl _
  | cons p ps ih => exact fun f hf => ih _ (State.carrySlot_flights s p (List.mem_append_left _ hf))

theorem State.mem_flights_foldl_carrySlot {ps : List (Nat × Plan)} {p : Nat × Plan} (hp : p ∈ ps) {r : Res} (hr : r ∈ p.2.res)
    (s : State) : (⟨t + r.lat, p.1, r.wr, r.flags⟩ : Flight) ∈ ((ps.foldl (State.carrySlot key t) s).core key).flights := by
  induction ps generalizing s with
  | nil => cases hp
  | cons q ps ih =>
    rcases List.mem_cons.1 hp with rfl | hp
    · exact State.foldl_carrySlot_flights ps _
        (State.carrySlot_flights s p (List.mem_append_right _ (List.mem_map_of_mem hr)))
    · exact ih hp _

/-- With nothing armed every result of every slot is in flight after the bundle. -/
theorem State.mem_flights_effects {ps : List (Nat × Plan)} {p : Nat × Plan} (hp : p ∈ ps) {r : Res} (hr : r ∈ p.2.res)
    {s : State} (h : s.unarmed = true) :
    (⟨t + r.lat, p.1, r.wr, r.flags⟩ : Flight) ∈ ((s.effects key t ps).core key).flights := by
  obtain ⟨u, -, heff⟩ := State.effects_of_unarmed key t ps h
  rw [heff, State.updCore_core_self, Core.next_flights]
  exact State.mem_flights_foldl_carrySlot hp hr u

end

/-! ### A bundle that may issue -/

theorem State.countIssue_keeps (key : Nat) (b : Bundle) (s : State) : (s.countIssue key b).sansEv = s.sansEv := by
  have evC (src : Nat) (s : State) : (s.evC key src 1).sansEv = s.sansEv := State.ev_keeps ..
  unfold State.countIssue
  dsimp only
  split <;> split <;> simp only [evC]

/-- What `State.issuable` asks of a state in which bundle `b` is the next of core `key`, condition by condition. -/
structure State.MayIssue (s : State) (key : Nat) (b : Bundle) (jb : Job) : Prop where
  running : (s.running key).isSome = true
  atIssue : ∃ j, (s.atIssue key).running key = some (j, jb)
  gated : s.gated = false
  wait : (s.core key).wait = none
  pc : ¬ 4096 ≤ (s.coreAt key).pc
  line : (s.atIssue key).linePending key ((s.coreAt key).pc / 16) = false
  supplied : Tbl.get false (s.coreAt key).supplied (s.coreAt key).pc = true
  unarmed : (s.atIssue key).unarmed = true
  noStop : ¬ (b.c = .yield ∧ jb.stopIdx = some (((s.coreAt key).ycount.toNat + 1) % 65536))
  noHold : (s.atIssue key).holdBefore key b = none
  noFault : ((s.atIssue key).faultsOf key (s.issueAt key) []
    ((s.atIssue key).plans key jb.niche jb.seed ((s.coreAt key).step (s.issueAt key)) b)).1 = []

theorem State.mayIssue_of_issuable {s : State} {key : Nat} {b : Bundle} {jb : Job} (h : s.issuable key b = some jb) :
    s.MayIssue key b jb := by
  unfold State.issuable at h
  dsimp only at h
  split at h
  case h_2 => cases h
  case h_1 x j jb' hrun hat =>
    split at h
    case isFalse => cases h
    case isTrue hc =>
      cases h
      simp only [Bool.and_eq_true, Bool.not_eq_true', decide_eq_true_eq, Option.isNone_iff_eq_none, List.isEmpty_iff,
        Bool.and_eq_false_imp, beq_iff_eq, beq_eq_false_iff_ne] at hc
      obtain ⟨⟨⟨⟨⟨⟨⟨⟨⟨hgated, hwait⟩, hpc⟩, hline⟩, hsup⟩, -⟩, harm⟩, hstop⟩, hhold⟩, hfault⟩ := hc
      exact ⟨by rw [hrun]; rfl, ⟨j, hat⟩, hgated, hwait, Nat.not_le.2 hpc, hline, hsup, harm, not_and.2 hstop, hhold, hfault⟩

/-- The planned bundle is counted and its plans are carried out. -/
theorem State.issueBundle_of_mayIssue {s : State} {key : Nat} {b : Bundle} {jb : Job} (h : s.MayIssue key b jb) :
    (s.atIssue key).issueBundle key jb b [] (s.issueAt key) =
      ((s.atIssue key).countIssue key b).effects key (s.issueAt key)
        ((s.atIssue key).plans key jb.niche jb.seed ((s.coreAt key).step (s.issueAt key)) b) := by
  have hfault := h.noFault
  unfold State.coreAt at hfault ⊢
  simp only [State.issueBundle, State.arm_of_unarmed h.unarmed, hfault, List.isEmpty_nil, ne_eq, not_true_eq_false,
    not_false_eq_true, and_self, if_true, if_false]

/-- A bundle that nothing keeps from issuing has its four plans carried out in the issue cycle. -/
theorem State.issue_of_mayIssue {s : State} {key : Nat} {b : Bundle} {jb : Job} (h : s.MayIssue key b jb) :
    s.issue key b [] = ((s.atIssue key).countIssue key b).effects key (s.issueAt key)
      ((s.atIssue key).plans key jb.niche jb.seed ((s.coreAt key).step (s.issueAt key)) b) := by
  obtain ⟨x, hrun⟩ := Option.isSome_iff_exists.1 h.running
  obtain ⟨j, hat⟩ := h.atIssue
  have hcompare : s.afterCompare key = s := by rw [State.afterCompare, h.wait]; rfl
  have hread := State.injRead_of_unarmed h.unarmed key 0x404 0 0x03
  have hbundle := State.issueBundle_of_mayIssue h
  obtain ⟨-, -, hgated, -, hpc, hline, hsup, -, hstop, hhold, -⟩ := h
  unfold State.coreAt at hpc hline hsup hstop hbundle ⊢
  unfold State.atIssue at *
  simp only [State.issue, hgated, Bool.false_eq_true, if_false, hcompare, hrun, hat, if_neg hpc, hline, hsup, Bool.not_true,
    if_neg hstop, hhold, hread]
  exact hbundle

/-- A slot command whose bundle may issue completes, and every result of its four plans is in flight. -/
theorem issues_of_willLand {i : Instr} {k : CoreId} {b : Bundle} {s : State} {post : Core → Nat → Job → State → Prop}
    (hexec : exec i s = .next (s.issue (coreKey k) b []))
    (hpost : ∀ (jb : Job) (u : State),
      (∀ p ∈ (s.atIssue (coreKey k)).plans (coreKey k) jb.niche jb.seed ((s.coreAt (coreKey k)).step (s.issueAt (coreKey k))) b,
        ∀ r ∈ p.2.res, u.willLand k (s.issueAt (coreKey k)) p.1 r.lat r.wr r.flags) →
      post (s.coreAt (coreKey k)) (s.issueAt (coreKey k)) jb u) : Issues i k b s post := by
  intro jb hjb
  have hmay := State.mayIssue_of_issuable hjb
  have harm : ((s.atIssue (coreKey k)).countIssue (coreKey k) b).unarmed = true :=
    (State.unarmed_of_sansEv (State.countIssue_keeps ..)).trans hmay.unarmed
  refine ⟨_, hexec, hpost jb _ fun p hp r hr => ?_⟩
  rw [State.willLand, State.issue_of_mayIssue hmay]
  exact State.mem_flights_effects hp hr harm

end Sys2Proof.Machine
end

section
/-! The integer lanes of the V slot (R302, Table 07.10). -/
namespace Sys2Proof
open Sys2Proof.Machine

/-- A command that issues an integer operation in the V slot puts the operation's value on each active lane in flight, with a
latency of 2 and no flag. -/
theorem issues_iarith {i : Instr} {k : CoreId} {b : Bundle} {op : IOp} {vd va vb : BitVec 5} {pr : BitVec 4} {s : State}
    (hexec : exec i s = .next (s.issue (coreKey k) { b with v := .iarith op vd va vb pr } [])) :
    Issues i k { b with v := .iarith op vd va vb pr } s (fun c t _ u =>
      u.lanesInFlight k t 2 vd ((c.actives pr).map (fun l => (l, (IOp.eval op (c.lane va l) (c.lane vb l)).toNat, Flag.none)))) := by
  refine issues_of_willLand hexec fun jb u hland => ?_
  have hplan : (1, planIarith (s.coreAt (coreKey k)) op vd va vb pr) ∈
      (s.atIssue (coreKey k)).plans (coreKey k) jb.niche jb.seed ((s.coreAt (coreKey k)).step (s.issueAt (coreKey k)))
        { b with v := .iarith op vd va vb pr } := List.mem_cons_of_mem _ List.mem_cons_self
  exact hland _ hplan _ (List.mem_singleton.2 rfl)

/-- Settles O12: each of the eleven commands issues its operation, whose values `IOp.eval` gives. -/
theorem integerLanes : Obligations.IntegerLanes := by
  intro s k b vd va vb pr
  exact ⟨issues_iarith rfl, issues_iarith rfl, issues_iarith rfl, issues_iarith rfl, issues_iarith rfl, issues_iarith rfl,
    issues_iarith rfl, issues_iarith rfl, issues_iarith rfl, issues_iarith rfl, issues_iarith rfl⟩

end Sys2Proof
end

section
/-! What a unit that translates addresses and writes translated bytes leaves alone: the command rings of a pedestal and its running
Skim job (R405 to R408, R456). -/
namespace Sys2Proof.Machine
open Sys2Proof

/-- The command rings of a pedestal and its running Skim job. -/
def State.media (s : State) (p : Nat) : Tbl Ring × Option SkimJob := ((s.ped p).rings, (s.ped p).skmRun)

theorem State.media_of_peds {a b : State} (h : a.peds = b.peds) (p : Nat) : a.media p = b.media p := by
  unfold State.media State.ped
  rw [h]

/-- An update of other fields of some pedestal keeps the rings and the Skim job of every pedestal. -/
theorem State.updPed_media (q : Nat) (f : Ped → Ped) (p : Nat) (s : State)
    (h : ∀ d : Ped, (f d).rings = d.rings ∧ (f d).skmRun = d.skmRun := by exact fun _ => ⟨rfl, rfl⟩) :
    (s.updPed q f).media p = s.media p := by
  unfold State.media
  by_cases hq : p = q
  · subst hq; rw [State.updPed_ped_self, (h _).1, (h _).2]
  · rw [State.updPed_ped_other _ _ _ hq]

section
variable (p : Nat)

theorem State.ite_media {c : Prop} [Decidable c] {a b s : State} (ha : a.media p = s.media p) (hb : b.media p = s.media p) :
    (if c then a else b).media p = s.media p := by
  split <;> assumption

theorem State.ite_answer_media {α β : Type} {c : Prop} [Decidable c] {a b : α × β × State} {s : State}
    (ha : a.2.2.media p = s.media p) (hb : b.2.2.media p = s.media p) : (if c then a else b).2.2.media p = s.media p := by
  split <;> assumption

/-! ### Errors found and flags set -/

theorem State.plnFlag_media (q : Nat) (b : BitVec 3) (s : State) : (s.plnFlag q b).media p = s.media p :=
  State.updPed_media q (fun x => { x with plnStat := x.plnStat ||| b }) p s

theorem State.xltFlag_media (q : Nat) (b : BitVec 3) (s : State) : (s.xltFlag q b).media p = s.media p :=
  State.updPed_media q (fun x => { x with xltStat := x.xltStat ||| b }) p s

theorem State.evP_media (q src n : Nat) (s : State) : (s.evP q src n).media p = s.media p :=
  State.media_of_peds (by simp [State.evP]) p

theorem State.errUE_media (r : Rec) (s : State) : (s.errUE r).media p = s.media p := State.media_of_peds (by simp) p

theorem State.errCE_media (r : Rec) (s : State) : (s.errCE r).media p = s.media p := State.media_of_peds (by simp) p

theorem State.mpaStore_media (a : Nat) (bs : List Byte) (s : State) : (s.mpaStore a bs).media p = s.media p :=
  State.media_of_peds (by simp) p

theorem State.signalNow_media (id inc : Nat) (s : State) : (s.signalNow id inc).media p = s.media p := rfl

theorem State.report_media (f : Found) (s : State) : (s.report f).media p = s.media p := by
  cases f with
  | ce r => exact State.errCE_media p _ s
  | ue r => exact State.errUE_media p r s
  | poison r => exact State.media_of_peds (by simp [State.report]) p

theorem State.injFind_media (off tgt : Nat) (r : Rec) (s : State) : (s.injFind off tgt r).2.2.media p = s.media p := by
  unfold State.injFind
  split <;> rfl

theorem State.segFind_media (r : Rec) (a n : Nat) (s : State) : (s.segFind r a n).2.2.media p = s.media p := by
  unfold State.segFind
  dsimp only
  split
  · refine State.ite_media p ?_ ((State.updPed_media _ _ p _).trans ?_)
    all_goals
      refine State.ite_media p ?_ ((State.plnFlag_media p ..).trans ?_)
      all_goals exact State.ite_answer_media p (State.injFind_media p ..) (State.injFind_media p ..)
  · next k _ =>
    have inj (r : Rec) := (State.injFind_media p (plnBlock k + 0x100) 0 r _).trans (State.evP_media p k 0x0C 1 s)
    exact State.ite_answer_media p (inj _) (inj _)
  · exact State.injFind_media p ..
  · exact State.injFind_media p ..
  · rfl

/-! ### Translation (R407, R456) -/

theorem State.foldl_report_media (fs : List Found) (s : State) : (fs.foldl State.report s).media p = s.media p :=
  foldl_keeps (State.media · p) State.report (fun s f => State.report_media p f s) fs s

theorem State.pteRead_media (r : Rec) (q a : Nat) (s : State) : (s.pteRead r q a).2.2.media p = s.media p := by
  have found (fs : List Found) (t : State) (r : Rec) (ht : t.media p = s.media p) :
      (fs.foldl State.report (t.segFind r a 8).2.2).media p = s.media p :=
    (State.foldl_report_media p fs _).trans ((State.segFind_media p r a 8 t).trans ht)
  unfold State.pteRead
  exact State.ite_media p (found _ _ _ (State.injFind_media p ..))
    ((State.xltFlag_media p ..).trans (found _ _ _ (State.injFind_media p ..)))

theorem State.walk_media (r : Rec) (q niche dva : Nat) (write : Bool) (s : State) :
    (s.walk r q niche dva write).2.2.media p = s.media p := by
  unfold State.walk
  split
  · rfl
  · next d _ =>
    refine State.ite_answer_media p rfl ?_
    have pte := (State.pteRead_media p r q (winL2 d + 8 * ((dva - winBase d) / winPage d)) _).trans (State.evP_media p q 0x09 1 s)
    dsimp only
    generalize (s.evP q 0x09 1).pteRead r q (winL2 d + 8 * ((dva - winBase d) / winPage d)) = x at pte ⊢
    obtain ⟨e, bad, t⟩ := x
    have malformed := (State.xltFlag_media p q 1 _).trans ((State.updPed_media q
      (fun x => { x with xltMal := BitVec.ofNat 64 (winL2 d + 8 * ((dva - winBase d) / winPage d)) }) p _).trans
        ((State.evP_media p q 0x0A 1 t).trans pte))
    exact State.ite_answer_media p pte (State.ite_answer_media p ((State.evP_media p ..).trans pte)
      (State.ite_answer_media p malformed (State.ite_answer_media p pte pte)))

theorem State.walkPage_media (r : Rec) (q niche : Nat) (write : Bool) (pg : Nat) (s : State) :
    (s.walkPage r q niche write pg).2.2.media p = s.media p := by
  unfold State.walkPage
  dsimp only
  split <;> exact State.walk_media p r q niche pg write s

theorem State.resolveDva_media (r : Rec) (q niche : Nat) (write : Bool) (base stride len rows : Nat) (s : State) :
    (s.resolveDva r q niche write base stride len rows).st.media p = s.media p := by
  unfold State.resolveDva State.walkPages
  refine foldl_keeps (fun acc : List Nat × List PageMap × State => acc.2.2.media p) _ (fun acc pg => ?_) _ _
  exact State.walkPage_media p r q niche write pg acc.2.2

theorem State.needs_media (q niche : Nat) (ns : List Need) (s : State) : (s.needs q niche ns).2.2.media p = s.media p := by
  unfold State.needs
  refine foldl_keeps (fun acc : List Nat × List PageMap × State => acc.2.2.media p) _ (fun acc n => ?_) _ _
  exact State.resolveDva_media p _ q niche n.write n.dva 0 n.len 1 acc.2.2

/-! ### Writes of translated bytes -/

theorem State.slotFails_media (outs : List (Nat × Nat)) (s : State) : (s.slotFails outs).2.media p = s.media p := by
  unfold State.slotFails
  split
  · rfl
  · dsimp only
    split
    · exact State.errCE_media p ..
    · rfl

theorem State.dynCross_media (r : Rec) (a b : Nat) (s : State) : (s.dynCross r a b).2.media p = s.media p := by
  unfold State.dynCross
  split
  · rfl
  · exact State.ite_media p ((State.errUE_media p ..).trans (State.slotFails_media p ..)) (State.slotFails_media p ..)

theorem State.farWrite_media (q : Nat) (r : Rec) (a : Nat) (bs : List Byte) (s : State) :
    (s.farWrite q r a bs).media p = s.media p :=
  (State.mpaStore_media p ..).trans (State.dynCross_media p r q _ s)

theorem State.dvaWrite_media (q : Nat) (m : List PageMap) (a : Nat) (bs : List Byte) (s : State) :
    (s.dvaWrite q m a bs).media p = s.media p := by
  unfold State.dvaWrite
  refine foldl_keeps (fun acc : List Byte × State => acc.2.media p) _ (fun acc pc => ?_) _ _
  dsimp only
  split
  · exact State.farWrite_media p ..
  · rfl

theorem State.storeDva_media (q niche a : Nat) (bs : List Byte) (s : State) : (s.storeDva q niche a bs).2.media p = s.media p := by
  have h := State.needs_media p q niche [⟨a, bs.length, true⟩] s
  unfold State.storeDva
  split
  · next e => rw [e] at h; exact h
  · next e => rw [e] at h; exact (State.dvaWrite_media p ..).trans h

/-- R549. What a Skim job that ends early writes of its outcome leaves the rings and the running job alone. -/
theorem State.skmVoid_media (q : Nat) (c : RingCmd) (blk : Nat) (s : State) : (s.skmVoid q c blk).media p = s.media p :=
  State.storeDva_media p ..

theorem State.skmVoidRing_media (q key : Nat) (skip : List Nat) (begun : List SkimJob) (s : State) :
    (s.skmVoidRing q key skip begun).media p = s.media p := by
  unfold State.skmVoidRing
  dsimp only
  rw [foldl_keeps (State.media · p) _ (fun t i => State.ite_media p rfl (State.skmVoid_media p ..))]
  exact foldl_keeps (State.media · p) _ (fun t j => State.skmVoid_media p ..) _ _

end
end Sys2Proof.Machine
end

section
/-! What settling an engine leaves of a command ring: the entries that complete at their turn are taken from rings that hold
some (R454, R457). -/
namespace Sys2Proof.Machine
open Sys2Proof

/-! ### Rings after an update -/

section
variable (p key : Nat)

theorem State.ring_of_media {a b : State} (h : a.media p = b.media p) : a.ring p key = b.ring p key :=
  congrArg (fun x : Tbl Ring × Option SkimJob => Tbl.get Ring.reset x.1 key) h

theorem State.skmRun_of_media {a b : State} (h : a.media p = b.media p) : (a.ped p).skmRun = (b.ped p).skmRun :=
  congrArg Prod.snd h

theorem State.updRing_media (f : Ring → Ring) (s : State) : (s.updRing p key f).media p =
    (Tbl.set Ring.reset key (f (s.ring p key)) (s.media p).1, (s.media p).2) := by
  simp [State.media, State.updRing, State.ring]

theorem State.ring_updRing_same (f : Ring → Ring) (s : State) : (s.updRing p key f).ring p key = f (s.ring p key) := by
  simp [State.ring, State.updRing]

theorem State.ring_updRing_other {key₂ : Nat} (h : key₂ ≠ key) (f : Ring → Ring) (s : State) :
    (s.updRing p key f).ring p key₂ = s.ring p key₂ := by
  simp [State.ring, State.updRing, Tbl.get_set_other _ _ h]

theorem State.skmRun_updRing (f : Ring → Ring) (s : State) : ((s.updRing p key f).ped p).skmRun = (s.ped p).skmRun :=
  congrArg Prod.snd (State.updRing_media p key f s)

end

/-! ### Commands taken and completed -/

/-- HEAD moves, and nothing else. -/
theorem Ring.advance_eq (r : Ring) : ∃ h, r.advance = { r with head := h } := by
  have moves (n : Nat) : ∀ r : Ring, ∃ h, r.advanceN n = { r with head := h } := by
    induction n with
    | zero => exact fun r => ⟨r.head, rfl⟩
    | succ n ih =>
      intro r
      unfold Ring.advanceN
      split
      · exact ih { r with head := r.head + 1 }
      · exact ⟨r.head, rfl⟩
  exact moves _ r

/-- A ring whose command at index `idx` has completed with a code. -/
def Ring.done (idx code : Nat) (r : Ring) : Ring :=
  Ring.advance { r with out := r.out.filter (· ≠ idx), held := r.held || !(code == cDone || code == cBusy || code == cOrderHeld) }

theorem Ring.done_fields (idx code : Nat) (r : Ring) :
    (r.done idx code).tail = r.tail ∧ (r.done idx code).overrun = r.overrun ∧ (r.done idx code).take = r.take ∧
      (r.done idx code).out = r.out.filter (· ≠ idx) := by
  obtain ⟨h, e⟩ := Ring.advance_eq { r with
    out := r.out.filter (· ≠ idx), held := r.held || !(code == cDone || code == cBusy || code == cOrderHeld) }
  rw [Ring.done, e]
  exact ⟨rfl, rfl, rfl, rfl⟩

section
variable (s : State) (p : Nat) (c : RingCmd) (code : Nat)

/-- STATUS and the signal of a completed command change no ring. -/
theorem State.ringDone_media : (s.ringDone p c code).media p = (s.updRing p c.ring (Ring.done c.idx code)).media p := by
  have done (a : Nat) (bs : List Byte) : ((s.mpaStore a bs).updRing p c.ring (Ring.done c.idx code)).media p =
      (s.updRing p c.ring (Ring.done c.idx code)).media p := by
    have store := State.mpaStore_media p a bs s
    rw [State.updRing_media, State.updRing_media, State.ring_of_media p c.ring store, store]
  unfold State.ringDone
  exact State.ite_media p ((State.signalNow_media p ..).trans (done _ _)) (done _ _)

theorem State.ring_ringDone_same : (s.ringDone p c code).ring p c.ring = (s.ring p c.ring).done c.idx code :=
  (State.ring_of_media p c.ring (State.ringDone_media s p c code)).trans (State.ring_updRing_same ..)

theorem State.ring_ringDone_other {key : Nat} (h : key ≠ c.ring) : (s.ringDone p c code).ring p key = s.ring p key :=
  (State.ring_of_media p key (State.ringDone_media s p c code)).trans (State.ring_updRing_other _ _ h ..)

theorem State.skmRun_ringDone : ((s.ringDone p c code).ped p).skmRun = (s.ped p).skmRun :=
  (State.skmRun_of_media p (State.ringDone_media s p c code)).trans (State.skmRun_updRing ..)

end

/-! ### What settling keeps of a ring -/

/-- From `s` to `u` the producer index and OVERRUN of a ring stay, and all of the ring when it holds no entry to take. -/
structure State.Settles (p key : Nat) (s u : State) : Prop where
  tail : (u.ring p key).tail = (s.ring p key).tail
  overrun : (u.ring p key).overrun = (s.ring p key).overrun
  idle : (s.ring p key).more = false → u.ring p key = s.ring p key

section
variable {p key : Nat}

theorem State.Settles.of_ring {s u : State} (h : u.ring p key = s.ring p key) : State.Settles p key s u :=
  ⟨by rw [h], by rw [h], fun _ => h⟩

theorem State.Settles.trans {s u v : State} (h : State.Settles p key s u) (h' : State.Settles p key u v) :
    State.Settles p key s v where
  tail := h'.tail.trans h.tail
  overrun := h'.overrun.trans h.overrun
  idle hs := (h'.idle (by rw [h.idle hs]; exact hs)).trans (h.idle hs)

theorem State.Settles.foldl {β : Type} {f : State → β → State} (h : ∀ s x, State.Settles p key s (f s x)) (l : List β)
    (s : State) : State.Settles p key s (l.foldl f s) := by
  induction l generalizing s with
  | nil => exact .of_ring rfl
  | cons x l ih => exact (h s x).trans (ih _)

/-- An entry of a ring that holds one is taken, and completes with a code; in between the rings stay as they are. -/
theorem State.settles_takeDone {s v : State} {c : RingCmd} (hmore : (s.ring p c.ring).more = true)
    (hv : v.media p = (s.ringTake p c.ring).media p) (code : Nat) : State.Settles p key s (v.ringDone p c code) := by
  have hring (k : Nat) := State.ring_of_media p k hv
  by_cases h : key = c.ring
  · subst h
    have htake : v.ring p c.ring = _ := (hring _).trans (State.ring_updRing_same ..)
    obtain ⟨htail, hover, -, -⟩ := Ring.done_fields c.idx code (v.ring p c.ring)
    rw [← State.ring_ringDone_same, htake] at htail hover
    exact ⟨htail, hover, fun hidle => absurd hmore (by simp [hidle])⟩
  · exact .of_ring ((State.ring_ringDone_other _ _ _ _ h).trans ((hring key).trans (State.ring_updRing_other _ _ h ..)))

/-- The turn of an entry that an engine finds: what cannot run completes, and the engine settles on. -/
theorem State.settles_turn {s : State} {c : RingCmd} (hmore : (s.ring p c.ring).more = true) {settle : State → State}
    (hsettle : ∀ u, State.Settles p key u (settle u)) {bad reserved : Prop} [Decidable bad] [Decidable reserved] :
    State.Settles p key s
      (if bad then settle ((s.ringTake p c.ring).ringDone p c cUnsupported)
      else if reserved then settle ((s.ringTake p c.ring).ringDone p c cBadDescriptor) else s) := by
  have hdone (code : Nat) := (State.settles_takeDone (key := key) hmore rfl code).trans (hsettle _)
  split
  · exact hdone _
  · split
    · exact hdone _
    · exact .of_ring rfl

/-! ### The settling of each engine -/

theorem State.drainHeld_settles (k n : Nat) (s : State) : State.Settles p key s (s.drainHeld p k n) := by
  induction n generalizing s with
  | zero => exact .of_ring rfl
  | succ n ih =>
    unfold State.drainHeld
    dsimp only
    split
    · next h => exact (State.settles_takeDone (c := s.ringCmd p k (s.ring p k).take.toNat) h.2 rfl _).trans (ih _)
    · exact .of_ring rfl

theorem State.skmDrain_settles (k n : Nat) (s : State) : State.Settles p key s (s.skmDrain p k n) := by
  induction n generalizing s with
  | zero => exact .of_ring rfl
  | succ n ih =>
    unfold State.skmDrain
    dsimp only
    split
    · next h =>
      exact (State.settles_takeDone (c := s.ringCmd p k (s.ring p k).take.toNat) h.2 (State.skmVoid_media p ..) _).trans (ih _)
    · exact .of_ring rfl

theorem State.more_of_pixPick {s : State} {e : Nat} {c : RingCmd} (h : s.pixPick p e = some (.fresh c)) :
    (s.ring p c.ring).more = true := by
  unfold State.pixPick at h
  split at h
  · obtain ⟨i, -, hi⟩ := List.exists_of_findSome?_eq_some h
    unfold State.pixOffer at hi
    split at hi
    · split at hi <;> cases hi
    · dsimp only at hi
      split at hi
      · next hmore => cases hi; exact hmore.1
      · cases hi
  · cases h

theorem State.more_of_entOffer {s : State} {e lim : Nat} {c : RingCmd} (h : s.entOffer p e lim = some (.fresh c)) :
    (s.ring p c.ring).more = true := by
  unfold State.entOffer at h
  split at h
  · cases h
  · obtain ⟨i, -, hi⟩ := List.exists_of_findSome?_eq_some h
    dsimp only at hi
    split at hi
    · cases hi
    · split at hi
      · next hmore =>
        cases hi
        simp only [Bool.and_eq_true] at hmore
        exact hmore.1.1
      · cases hi

theorem State.more_of_skmPick {s : State} {c : RingCmd} (h : s.skmPick p = some (.inr c)) : (s.ring p c.ring).more = true := by
  unfold State.skmPick at h
  split at h
  · obtain ⟨i, -, hi⟩ := List.exists_of_findSome?_eq_some h
    unfold State.skmOffer at hi
    split at hi
    · cases hi
    · dsimp only at hi
      split at hi
      · next hmore => cases hi; exact hmore.1
      · cases hi
  · cases h

theorem State.pixSettleN_settles (e n : Nat) (s : State) : State.Settles p key s (s.pixSettleN p e n) := by
  induction n generalizing s with
  | zero => exact .of_ring rfl
  | succ n ih =>
    unfold State.pixSettleN
    refine (State.Settles.foldl (fun s c => State.drainHeld_settles (ringKey 0 e c) 65536 s) (rangeFrom 0 4) s).trans ?_
    dsimp only
    split
    · next c h => exact State.settles_turn (State.more_of_pixPick h) ih
    · exact .of_ring rfl

theorem State.entSettleN_settles (e n : Nat) (s : State) : State.Settles p key s (s.entSettleN p e n) := by
  induction n generalizing s with
  | zero => exact .of_ring rfl
  | succ n ih =>
    unfold State.entSettleN
    refine (State.Settles.foldl (fun s c => State.drainHeld_settles (ringKey 1 e c) 65536 s) (rangeFrom 0 4) s).trans ?_
    dsimp only
    split
    · exact .of_ring (State.ring_of_media p key (State.updPed_media p _ p _))
    · next c h => exact State.settles_turn (State.more_of_entOffer h) ih
    · exact .of_ring rfl

theorem State.skmSettleN_settles (n : Nat) (s : State) : State.Settles p key s (s.skmSettleN p n) := by
  induction n generalizing s with
  | zero => exact .of_ring rfl
  | succ n ih =>
    unfold State.skmSettleN
    refine (State.Settles.foldl (fun s c => State.skmDrain_settles (ringKey 2 0 c) 65536 s) (rangeFrom 0 4) s).trans ?_
    dsimp only
    split
    · next c h => exact State.settles_turn (State.more_of_skmPick h) ih
    · exact .of_ring rfl

theorem State.pixSettle_settles (e : Nat) (s : State) : State.Settles p key s (s.pixSettle p e) := by
  unfold State.pixSettle
  split
  · exact .of_ring rfl
  · exact State.pixSettleN_settles e _ s

theorem State.entSettle_settles (e : Nat) (s : State) : State.Settles p key s (s.entSettle p e) :=
  State.entSettleN_settles e _ s

theorem State.skmSettle_settles (s : State) : State.Settles p key s (s.skmSettle p) := by
  unfold State.skmSettle
  split
  · exact .of_ring rfl
  · exact State.skmSettleN_settles _ s

end
end Sys2Proof.Machine
end

section
/-! The registers of the media rings: producer index, RESUME and CANCEL (R457, R496, R550, R660). -/
namespace Sys2Proof.Machine
open Sys2Proof

/-! ### Producer index (R496) -/

/-- After a write of a producer index that the ring has room for it stands; any other sets OVERRUN and is not taken. -/
def State.TailWritten (p key : Nat) (v : BitVec 16) (s u : State) : Prop :=
  if (v - (s.ring p key).head).toNat ≤ (s.ring p key).cap then (u.ring p key).tail = v
  else (u.ring p key).tail = (s.ring p key).tail ∧ (u.ring p key).overrun = true

/-- No settling of an engine takes back what a write of a producer index did. -/
theorem State.Settles.tailWritten {p key : Nat} {v : BitVec 16} {s u : State}
    (h : State.Settles p key (s.ringTail p key v) u) : State.TailWritten p key v s u := by
  have hring : (s.ringTail p key v).ring p key = _ := State.ring_updRing_same ..
  have htail := h.tail
  have hover := h.overrun
  rw [hring] at htail hover
  unfold State.TailWritten
  split
  · next hroom =>
    rw [if_pos hroom] at htail
    exact htail
  · next hroom =>
    rw [if_neg hroom] at htail hover
    exact ⟨htail, hover⟩

/-! ### RESUME (R457) -/

/-- The ring is held no longer, and its producer index stands. -/
def State.Resumed (p key : Nat) (s u : State) : Prop :=
  (u.ring p key).held = false ∧ (u.ring p key).overrun = false ∧ (u.ring p key).tail = (s.ring p key).tail

theorem State.ringResume_resumed (p key : Nat) (s : State) : State.Resumed p key s (s.ringResume p key) := by
  have hring : (s.ringResume p key).ring p key = _ := State.ring_updRing_same ..
  unfold State.Resumed
  rw [hring]
  exact ⟨rfl, rfl, rfl⟩

/-! ### CANCEL (R457, R550) -/

/-- A ring with nothing to take that is not held. -/
def Ring.Drained (r : Ring) : Prop := r.held = false ∧ r.take = r.tail

/-- A drained ring whose commands are all complete. -/
def Ring.Emptied (r : Ring) : Prop := r.held = false ∧ r.out = [] ∧ r.take = r.tail

/-- The indices of the commands of a ring that are not complete: those taken, and those that wait. -/
def Ring.incomplete (r : Ring) : List Nat :=
  r.out ++ (rangeFrom 0 (r.tail - r.take).toNat).map (fun i => (r.take + BitVec.ofNat 16 i).toNat)

theorem Ring.more_of_take {r : Ring} (h : r.take = r.tail) : r.more = false := by
  simp [Ring.more, h]

/-- Commands of a ring complete one after another: they alone leave the list of those that are not complete. -/
theorem State.ring_foldl_ringDone (p key code : Nat) (idxs : List Nat) (s : State) :
    let u := idxs.foldl (fun s i => s.ringDone p (s.ringCmd p key i) code) s
    (u.ring p key).tail = (s.ring p key).tail ∧ (u.ring p key).take = (s.ring p key).take ∧
      (u.ring p key).out = (s.ring p key).out.filter (· ∉ idxs) := by
  induction idxs generalizing s with
  | nil => exact ⟨rfl, rfl, (List.filter_eq_self.2 fun _ _ => decide_eq_true List.not_mem_nil).symm⟩
  | cons i idxs ih =>
    obtain ⟨htail, htake, hout⟩ := ih (s.ringDone p (s.ringCmd p key i) code)
    have hdone := State.ring_ringDone_same s p (s.ringCmd p key i) code
    obtain ⟨dtail, -, dtake, dout⟩ := Ring.done_fields i code (s.ring p key)
    change (s.ringDone p (s.ringCmd p key i) code).ring p key = (s.ring p key).done i code at hdone
    rw [hdone] at htail htake hout
    refine ⟨htail.trans dtail, htake.trans dtake, hout.trans ?_⟩
    rw [dout, List.filter_filter]
    exact List.filter_congr fun j _ => by simp [Bool.and_comm]

/-- CANCEL takes what waits, completes each command that it does not skip, and ends the hold. -/
theorem State.ringCancel_eq (p key : Nat) (skip : List Nat) (code : Nat) (s : State) : s.ringCancel p key skip code =
    (((s.ring p key).incomplete.filter (fun i => !skip.contains i)).foldl (fun s i => s.ringDone p (s.ringCmd p key i) code)
      (s.updRing p key (fun r => { r with take := r.tail, out := r.incomplete }))).updRing p key
        (fun r => { r with held := false, overrun := false }) := rfl

theorem State.skmRun_ringCancel (p key : Nat) (skip : List Nat) (code : Nat) (s : State) :
    ((s.ringCancel p key skip code).ped p).skmRun = (s.ped p).skmRun := by
  rw [State.ringCancel_eq, State.skmRun_updRing,
    foldl_keeps (fun u : State => (u.ped p).skmRun) _ (fun u i => State.skmRun_ringDone u p _ code), State.skmRun_updRing]

/-- CANCEL drains the ring; the commands that it does not skip are complete. -/
theorem State.ring_ringCancel (p key : Nat) (skip : List Nat) (code : Nat) (s : State) :
    ((s.ringCancel p key skip code).ring p key).Drained ∧
      ∀ i ∈ ((s.ringCancel p key skip code).ring p key).out, i ∈ skip := by
  obtain ⟨htail, htake, hout⟩ := State.ring_foldl_ringDone p key code ((s.ring p key).incomplete.filter (fun i => !skip.contains i))
    (s.updRing p key (fun r => { r with take := r.tail, out := r.incomplete }))
  rw [State.ring_updRing_same] at htail htake hout
  rw [State.ringCancel_eq, State.ring_updRing_same]
  refine ⟨⟨rfl, htake.trans htail.symm⟩, fun i hi => ?_⟩
  obtain ⟨hinc, hleft⟩ := List.mem_filter.1 (hout ▸ hi)
  refine Decidable.byContradiction fun hskip => of_decide_eq_true hleft (List.mem_filter.2 ⟨hinc, ?_⟩)
  rw [Bool.not_eq_true', ← Bool.not_eq_true, List.contains_iff_mem]
  exact hskip

theorem State.ring_ringCancel_emptied (p key code : Nat) (s : State) : ((s.ringCancel p key [] code).ring p key).Emptied := by
  obtain ⟨⟨hheld, htake⟩, hout⟩ := State.ring_ringCancel p key [] code s
  exact ⟨hheld, List.eq_nil_iff_forall_not_mem.2 fun i hi => List.not_mem_nil (hout i hi), htake⟩

/-- Settling leaves a drained ring alone. -/
theorem State.Settles.ring_of_drained {p key : Nat} {s u : State} (h : State.Settles p key s u)
    (hs : (s.ring p key).take = (s.ring p key).tail) : u.ring p key = s.ring p key := h.idle (Ring.more_of_take hs)

theorem State.pixCancel_emptied (p e c : Nat) (s : State) :
    (((s.pixDrop p e c cCancelled).pixSettle p e).ring p (ringKey 0 e c)).Emptied := by
  have h : ((s.pixDrop p e c cCancelled).ring p (ringKey 0 e c)).Emptied := State.ring_ringCancel_emptied ..
  rw [(State.pixSettle_settles e _).ring_of_drained h.2.2]
  exact h

theorem State.entCancel_emptied (p e c : Nat) (s : State) :
    (((s.entDrop p e c cCancelled).entSettle p e).ring p (ringKey 1 e c)).Emptied := by
  have h : ((s.entDrop p e c cCancelled).ring p (ringKey 1 e c)).Emptied := State.ring_ringCancel_emptied ..
  rw [(State.entSettle_settles e _).ring_of_drained h.2.2]
  exact h

theorem State.skmCancel_drained (p : Fin 20) (c : Nat) (s : State) :
    ((s.skmCancel p c).ring p.val (ringKey 2 0 c)).Drained := by
  unfold State.skmCancel
  dsimp only
  rw [(State.skmSettle_settles _).ring_of_drained (State.ring_ringCancel ..).1.2]
  exact (State.ring_ringCancel ..).1

/-- An engine that runs a Skim job settles nothing. -/
theorem State.skmSettle_of_running {p : Nat} {s : State} (h : (s.ped p).skmRun.isSome = true) : s.skmSettle p = s :=
  if_pos h

/-- A running job of the ring is told to stop, and goes on to its next block boundary (R550). -/
theorem State.skmRun_skmCancel {p : Fin 20} {c : Nat} {s : State} {j : SkimJob} (hrun : (s.ped p.val).skmRun = some j)
    (hring : j.cmd.ring = ringKey 2 0 c) : ((s.skmCancel p c).ped p.val).skmRun = some { j with stop := true } := by
  have keeps (t : State) (key : Nat) (skip : List Nat) (begun : List SkimJob)
      (ht : (t.ped p.val).skmRun = some { j with stop := true }) :
      ((((t.skmVoidRing p.val key skip begun).ringCancel p.val key skip cCancelled).skmSettle p.val).ped p.val).skmRun =
        some { j with stop := true } := by
    have hcancel := (State.skmRun_ringCancel p.val key skip cCancelled _).trans
      ((State.skmRun_of_media p.val (State.skmVoidRing_media p.val p.val key skip begun t)).trans ht)
    rw [State.skmSettle_of_running (by rw [hcancel]; rfl), hcancel]
  exact keeps _ _ _ _ (by simp [hrun, hring])

/-! ### Writes to an engine's registers (R660, R759) -/

section
variable {i : Instr} {p kind e : Nat} {g : State → State} {s : State} (hexec : exec i s = s.engReg p kind e g)
include hexec

theorem completes_of_engUp (hreset : s.engInReset p kind e = false) (hphase : 11 ≤ s.pwr.phase) {post : State → Prop}
    (hpost : post (g s)) : Completes i s post := by
  refine ⟨g s, ?_, hpost⟩
  rw [hexec, State.engReg, if_neg (by simp [hreset, hphase])]

theorem discarded_of_engInReset (hreset : s.engInReset p kind e = true) : exec i s = .next s := by
  rw [hexec, State.engReg, if_pos (.inl hreset)]

end

section
variable (g : EngId) (p : Fin 20) (c : Fin 4) (v : BitVec 16) (s : State)

theorem exec_pixRtailWrite : exec (.pixRtailWrite g c v) s = s.engReg g.p.val 0 g.e.val
    (fun s => (s.ringTail g.p.val (ringKey 0 g.e.val c.val) v).pixSettle g.p.val g.e.val) := rfl

theorem exec_pixResume : exec (.pixResume g c) s =
    s.engReg g.p.val 0 g.e.val (State.ringResume g.p.val (ringKey 0 g.e.val c.val)) := rfl

theorem exec_pixCancel : exec (.pixCancel g c) s = s.engReg g.p.val 0 g.e.val
    (fun s => (s.pixDrop g.p.val g.e.val c.val cCancelled).pixSettle g.p.val g.e.val) := rfl

theorem exec_entRtailWrite : exec (.entRtailWrite g c v) s = s.engReg g.p.val 1 g.e.val
    (fun s => (s.ringTail g.p.val (ringKey 1 g.e.val c.val) v).entSettle g.p.val g.e.val) := rfl

theorem exec_entResume : exec (.entResume g c) s =
    s.engReg g.p.val 1 g.e.val (State.ringResume g.p.val (ringKey 1 g.e.val c.val)) := rfl

theorem exec_entCancel : exec (.entCancel g c) s = s.engReg g.p.val 1 g.e.val
    (fun s => (s.entDrop g.p.val g.e.val c.val cCancelled).entSettle g.p.val g.e.val) := rfl

theorem exec_skmRtailWrite : exec (.skmRtailWrite p c v) s = s.engReg p.val 2 0
    (fun s => (s.ringTail p.val (ringKey 2 0 c.val) v).skmSettle p.val) := rfl

theorem exec_skmResume : exec (.skmResume p c) s = s.engReg p.val 2 0 (State.ringResume p.val (ringKey 2 0 c.val)) := rfl

theorem exec_skmCancel : exec (.skmCancel p c) s = s.engReg p.val 2 0 (State.skmCancel p c.val) := rfl

end

end Sys2Proof.Machine
end

section
/-! The command rings of the media engines (R457, R496, R550, R660). -/
namespace Sys2Proof
open Sys2Proof.Machine

/-- Settles O33: each write does its work on the ring, and the settling of the engine that follows changes no producer index and
no OVERRUN, and nothing of a ring that CANCEL left without an entry to take. -/
theorem ringRegisters : Obligations.RingRegisters := by
  intro s g c v
  refine ⟨fun ⟨hreset, hphase⟩ => ⟨?_, ?_, ?_⟩, fun ⟨hreset, hphase⟩ => ⟨?_, ?_, ?_⟩, fun ⟨hreset, hphase⟩ => ⟨?_, ?_, ?_⟩,
    fun hreset => ⟨?_, ?_, ?_⟩⟩
  · exact completes_of_engUp (exec_pixRtailWrite g c v s) hreset hphase (State.pixSettle_settles g.e.val _).tailWritten
  · exact completes_of_engUp (exec_pixResume g c s) hreset hphase (State.ringResume_resumed _ _ s)
  · exact completes_of_engUp (exec_pixCancel g c s) hreset hphase (State.pixCancel_emptied _ _ _ s)
  · exact completes_of_engUp (exec_entRtailWrite g c v s) hreset hphase (State.entSettle_settles g.e.val _).tailWritten
  · exact completes_of_engUp (exec_entResume g c s) hreset hphase (State.ringResume_resumed _ _ s)
  · exact completes_of_engUp (exec_entCancel g c s) hreset hphase (State.entCancel_emptied _ _ _ s)
  · exact completes_of_engUp (exec_skmRtailWrite g.p c v s) hreset hphase (State.skmSettle_settles _).tailWritten
  · exact completes_of_engUp (exec_skmResume g.p c s) hreset hphase (State.ringResume_resumed _ _ s)
  · obtain ⟨hheld, htake⟩ := State.skmCancel_drained g.p c.val s
    exact completes_of_engUp (exec_skmCancel g.p c s) hreset hphase
      ⟨hheld, htake, fun j hrun hring => ⟨_, State.skmRun_skmCancel hrun hring, rfl, rfl⟩⟩
  · exact discarded_of_engInReset (exec_pixRtailWrite g c v s) hreset
  · exact discarded_of_engInReset (exec_pixResume g c s) hreset
  · exact discarded_of_engInReset (exec_pixCancel g c s) hreset

end Sys2Proof
end

section
/-! Completion queues: what a notification, a write of an entry and a drain of held completions leave of them (R575 to R577, R580,
R598). -/
namespace Sys2Proof
open Sys2Proof.Machine

/-- An entry that `f` keeps apart from the default is read mapped, in any table. -/
theorem Tbl.get_map_of_ne {α : Type} [DecidableEq α] {d : α} {f : Nat → α → α} {t : Tbl α} {k : Nat} (hd : f k d = d)
    (h : f k (Tbl.get d t k) ≠ d) : Tbl.get d (Tbl.map d f t) k = f k (Tbl.get d t k) := by
  induction t with
  | nil => exact absurd hd h
  | cons e t ih =>
    obtain ⟨k', v⟩ := e
    by_cases hk : k' = k
    · subst hk
      simp only [Tbl.get, if_true] at h ⊢
      rw [Tbl.map, if_neg h, Tbl.get, if_pos rfl]
    · simp only [Tbl.get, if_neg hk] at h ⊢
      unfold Tbl.map
      split
      · exact ih h
      · rw [Tbl.get, if_neg hk, ih h]

end Sys2Proof

namespace Sys2Proof.Machine
open Sys2Proof

/-- A CQ without what writing its entries and sending its vector change. -/
def Cq.sansDrain (c : Cq) : Cq := { c with tail := 0, phase := false, heldC := [], aggBusy := false, aggPend := false }

/-- A CQ when vector `vec` has been sent for the CQs of function `f`. -/
def Cq.notified (f : Bool) (vec : Nat) (c : Cq) : Cq :=
  if c.owner = some f ∧ bits c.cfg.toNat 18 8 = vec then { c with aggBusy := bits c.cfg.toNat 27 20 ≠ 0, aggPend := false } else c

theorem Cq.notified_sansDrain (f : Bool) (vec : Nat) (c : Cq) : (c.notified f vec).sansDrain = c.sansDrain := by
  unfold Cq.notified
  split <;> rfl

/-- A CQ of the vector that was sent owes no message. -/
theorem Cq.notified_aggPend {f : Bool} {c : Cq} (howner : c.owner = some f) :
    (c.notified f (bits c.cfg.toNat 18 8)).aggPend = false := by
  rw [Cq.notified, if_pos ⟨howner, rfl⟩]

theorem Cq.owner_of_sansDrain {c d : Cq} (h : c.sansDrain = d.sansDrain) : c.owner = d.owner := (congrArg Cq.owner h :)

theorem Cq.head_of_sansDrain {c d : Cq} (h : c.sansDrain = d.sansDrain) : c.head = d.head := (congrArg Cq.head h :)

theorem Cq.stopped_of_sansDrain {c d : Cq} (h : c.sansDrain = d.sansDrain) : c.stopped = d.stopped := (congrArg Cq.stopped h :)

section
variable (n : Nat) (s : State)

/-- A CQ with an owner is no reset CQ: the table keeps it. -/
theorem State.cq_cqSent {f g : Bool} (vec : Nat) (howner : (s.cq n).owner = some g) :
    (s.cqSent f vec).cq n = (s.cq n).notified f vec := by
  refine Tbl.get_map_of_ne (f := fun _ => Cq.notified f vec) rfl fun h => ?_
  have hsome := (Cq.owner_of_sansDrain (Cq.notified_sansDrain f vec (s.cq n))).trans howner
  rw [show (s.cq n).notified f vec = Cq.reset from h] at hsome
  cases hsome

/-- R580. A CQ that sends messages, outside an interval, has its vector sent. -/
theorem State.cqNotify_of_idle {f : Bool} (howner : (s.cq n).owner = some f) (hien : bitAt (s.cq n).cfg.toNat 30 = true)
    (hbusy : (s.cq n).aggBusy = false) :
    s.cqNotify n = (s.cqSent f (bits (s.cq n).cfg.toNat 18 8)).msix f (bits (s.cq n).cfg.toNat 18 8) := by
  simp [State.cqNotify, howner, hien, hbusy]

theorem State.cq_cqNotify : ((s.cqNotify n).cq n).sansDrain = (s.cq n).sansDrain := by
  unfold State.cqNotify
  dsimp only
  split
  · rfl
  · next f howner =>
    split
    · rfl
    · split
      · rw [State.setCq_cq_self]; rfl
      · have hmsix (t : State) (vec : Nat) : (t.msix f vec).cq n = t.cq n := by simp [State.cq]
        rw [hmsix, State.cq_cqSent n s _ howner, Cq.notified_sansDrain]

theorem State.cq_cqWrite (e : Cqe) : ((s.cqWrite n e).cq n).sansDrain = (s.cq n).sansDrain := by
  unfold State.cqWrite
  dsimp only
  split
  · rfl
  · rw [State.updHif_cq, State.setCq_cq_self]; rfl

/-- A drain is writes of held completions and a notification: it keeps what these keep. -/
theorem State.cqDrainN_keeps {τ : Type} (g : State → τ) (hnotify : ∀ s, g (s.cqNotify n) = g s)
    (hwrite : ∀ s e es, g ((s.updCq n (fun c => { c with heldC := es })).cqWrite n e) = g s) (fuel : Nat) (any : Bool) :
    g (State.cqDrainN n fuel any s) = g s := by
  have last (any : Bool) (s : State) : g (if any then s.cqNotify n else s) = g s := by
    split
    · exact hnotify s
    · rfl
  induction fuel generalizing any s with
  | zero => exact last any s
  | succ fuel ih =>
    unfold State.cqDrainN
    split
    · exact last any s
    · split
      · rw [ih, hwrite]
      · exact last any s

/-- Writing held completions moves TAIL and the phase; head, owner, configuration and STOPPED stay. -/
theorem State.cq_cqDrain : ((s.cqDrain n).cq n).sansDrain = (s.cq n).sansDrain :=
  State.cqDrainN_keeps n s (fun s => (s.cq n).sansDrain) (State.cq_cqNotify n)
    (fun s e es => by rw [State.cq_cqWrite, State.updCq_cq_self]; rfl) _ _

/-- With no completion held a drain does nothing. -/
theorem State.cqDrain_of_none_held (h : (s.cq n).heldC = []) : s.cqDrain n = s := by
  simp [State.cqDrain, State.cqDrainN, h]

end

/-! ### Submission queues and jobs are untouched -/

/-- The submission queues and the jobs. -/
def State.work (s : State) : Tbl Sq × Tbl (Option Job) := (s.sqs, s.jobs)

theorem State.sq_of_work {a b : State} (h : a.work = b.work) (n : Nat) : a.sq n = b.sq n :=
  congrArg (fun w : Tbl Sq × Tbl (Option Job) => Tbl.get Sq.reset w.1 n) h

theorem State.jobs_of_work {a b : State} (h : a.work = b.work) : a.jobs = b.jobs := congrArg Prod.snd h

section
variable (n : Nat) (s : State)

theorem State.cqNotify_work : (s.cqNotify n).work = s.work := by
  unfold State.cqNotify
  dsimp only
  split
  · rfl
  · split
    · rfl
    · split
      · rfl
      · simp [State.work, State.cqSent]

theorem State.cqWrite_work (e : Cqe) : (s.cqWrite n e).work = s.work := by
  unfold State.cqWrite
  dsimp only
  split
  · rfl
  · simp [State.work]

theorem State.cqPost_work (e : Cqe) : (s.cqPost n e).work = s.work :=
  (State.cqDrainN_keeps n _ State.work (State.cqNotify_work n) (fun _ e _ => State.cqWrite_work n _ e) _ _ :)

end
end Sys2Proof.Machine
end

section
/-! What a host queue holds after its entries are ended and retired, and after CANCEL (R419, R427, R575, R579). -/
namespace Sys2Proof.Machine
open Sys2Proof

/-! ### Entries ended -/

/-- An entry that a CANCEL or a reset with this code ends where `p` picks it and it has not completed. -/
def Entry.ended (code : Nat) (p : Entry → Bool) (e : Entry) : Entry :=
  if e.phase != .complete && p e then
    { e with phase := .complete, code := code, own := true, part := if code = cResetAbort then decide (0 < e.moved) else e.began }
  else e

theorem Entry.ended_of_complete {code : Nat} {p : Entry → Bool} {e : Entry} (h : e.phase = .complete) : e.ended code p = e := by
  simp [Entry.ended, h]

theorem Entry.ended_complete {code : Nat} {p : Entry → Bool} {e : Entry} (h : p e = true) : (e.ended code p).phase = .complete := by
  unfold Entry.ended
  split
  · rfl
  · next hphase => simpa [h] using hphase

theorem State.entrySignal_work (q : QRef) (e : Entry) (s : State) : (s.entrySignal q e).work = s.work :=
  (congrArg State.work (State.entrySignal_keeps q e s) :)

theorem State.aheadReport_work (e : Entry) (s : State) : (s.aheadReport e).work = s.work :=
  (congrArg State.work (State.aheadReport_keeps e s) :)

section
variable (n : Fin 512) (s : State)

/-- What the entries ended signal and report touches no queue and no job. -/
theorem State.qAbort_work (code : Nat) (p : Entry → Bool) : (s.qAbort (.sq n) code p).work =
    (s.updSq n.val (fun q => { q with entries := q.entries.map (Entry.ended code p) })).work := by
  unfold State.qAbort
  dsimp only
  rw [foldl_keeps State.work]
  · rfl
  · intro s e
    rw [State.entrySignal_work]
    split
    · rfl
    · exact State.aheadReport_work e s

theorem State.sq_qAbort (code : Nat) (p : Entry → Bool) : (s.qAbort (.sq n) code p).sq n.val =
    { s.sq n.val with entries := (s.sq n.val).entries.map (Entry.ended code p) } :=
  (State.sq_of_work (State.qAbort_work n s code p) n.val).trans (State.updSq_sq_self ..)

theorem State.sq_qCancel : (s.qCancel (.sq n)).sq n.val =
    { s.sq n.val with entries := (s.sq n.val).entries.map (Entry.ended cCancelled (fun e => e.job.isNone)), held := none } := by
  have h : (s.qCancel (.sq n)).sq n.val = _ := State.updSq_sq_self ..
  rw [h, State.qEntries, State.sq_qAbort]

theorem State.jobs_qCancel : (s.qCancel (.sq n)).jobs = s.jobs :=
  (State.jobs_of_work (State.qAbort_work n s cCancelled (fun e => e.job.isNone)) :)

end

/-! ### Retirement -/

/-- An SQ that is not held and whose entries have all completed. -/
def Sq.Settled (q : Sq) : Prop := q.held = none ∧ ∀ e ∈ q.entries, e.phase = .complete

section
variable {n : Fin 512} {s : State}

theorem State.retireWrite_work (e : Entry) (code : Nat) (part : Bool) : (s.retireWrite (.sq n) e code part).work = s.work := by
  unfold State.retireWrite
  dsimp only
  split
  · rfl
  · exact State.cqPost_work ..

/-- Nothing is behind a failure on a queue that is not held: a front entry that has completed may retire. -/
theorem retireCode_of_complete {e : Entry} (rest : List Entry) (h : e.phase = .complete) :
    ∃ code part, retireCode (e :: rest) none = some (code, part) := by
  unfold retireCode
  dsimp only
  rw [h]
  dsimp only
  split <;> exact ⟨_, _, rfl⟩

/-- Of a settled queue the front entry retires first. -/
theorem State.retireN_succ_of_settled {e : Entry} {rest : List Entry} (fuel : Nat) (hentries : (s.sq n.val).entries = e :: rest)
    (hsettled : (s.sq n.val).Settled) : ∃ code part, State.retireN (.sq n) (fuel + 1) s =
      State.retireN (.sq n) fuel ((s.qSet (.sq n) rest none).retireWrite (.sq n) e code part) := by
  obtain ⟨hheld, hall⟩ := hsettled
  have hfront : e.phase = .complete := hall e (hentries ▸ List.mem_cons_self)
  have hqentries : s.qEntries (.sq n) = e :: rest := hentries
  have hqheld : s.qHeld (.sq n) = none := hheld
  obtain ⟨code, part, hcode⟩ := retireCode_of_complete rest hfront
  refine ⟨code, part, ?_⟩
  simp only [State.retireN, hqentries, hqheld, hcode, hfront, if_true]
  cases e.job <;> simp only [hqheld]

/-- A settled queue retires all of its entries, and is otherwise left as it is. -/
theorem State.sq_retireN_of_settled (fuel : Nat) (hsettled : (s.sq n.val).Settled) (hfuel : (s.sq n.val).entries.length ≤ fuel) :
    (State.retireN (.sq n) fuel s).sq n.val = { s.sq n.val with entries := [] } := by
  induction fuel generalizing s with
  | zero =>
    have hnil : (s.sq n.val).entries = [] := List.length_eq_zero_iff.1 (Nat.le_zero.1 hfuel)
    rw [State.retireN, ← hnil]
  | succ fuel ih =>
    cases hentries : (s.sq n.val).entries with
    | nil =>
      have hqentries : s.qEntries (.sq n) = [] := hentries
      simp only [State.retireN, hqentries]
      rw [← hentries]
    | cons e rest =>
      obtain ⟨code, part, hstep⟩ := State.retireN_succ_of_settled fuel hentries hsettled
      have hsq : ((s.qSet (.sq n) rest none).retireWrite (.sq n) e code part).sq n.val =
          { s.sq n.val with entries := rest, held := none } :=
        (State.sq_of_work (State.retireWrite_work ..) n.val).trans (State.updSq_sq_self ..)
      obtain ⟨hheld, hall⟩ := hsettled
      rw [hentries] at hall hfuel
      rw [hstep, ih, hsq, ← hheld]
      · rw [hsq]; exact ⟨rfl, fun x hx => hall x (List.mem_cons_of_mem e hx)⟩
      · rw [hsq]; exact Nat.le_of_succ_le_succ hfuel

/-- A Function Level Reset has nothing left to end in a settled queue. -/
theorem State.sq_flrAbort_of_settled (hsettled : (s.sq n.val).Settled) : (s.flrAbort (.sq n)).sq n.val = s.sq n.val := by
  unfold State.flrAbort
  dsimp only
  split
  · have keeps (p : Entry → Bool) : (s.sq n.val).entries.map (Entry.ended cResetAbort p) = (s.sq n.val).entries :=
      (List.map_congr_left fun e he => Entry.ended_of_complete (hsettled.2 e he)).trans (List.map_id' _)
    rw [State.sq_qAbort, keeps]
  · rfl

theorem State.sq_releaseCqs (s : State) (k : Nat) : s.releaseCqs.sq k = s.sq k :=
  foldl_keeps (State.sq · k) _ (fun s kv => by split <;> rfl) _ s

/-- The release of a disabled queue leaves no entry and no hold behind. -/
theorem State.sq_releaseSq_emptied (h : (s.sq n.val).entries = [] ∧ (s.sq n.val).held = none) :
    ((s.releaseSq (.sq n)).sq n.val).entries = [] ∧ ((s.releaseSq (.sq n)).sq n.val).held = none := by
  rw [State.releaseSq]
  split
  · rw [State.sq_releaseCqs, State.setSq_sq_self]
    exact ⟨h.1, rfl⟩
  · exact h

theorem State.sq_releaseHolds (s : State) (k : Nat) : s.releaseHolds.sq k = s.sq k := by
  unfold State.releaseHolds
  refine foldl_keeps (State.sq · k) _ (fun s i => ?_) _ s
  split
  · split <;> rfl
  · rfl

theorem State.sq_retireAll_of_settled (hsettled : (s.sq n.val).Settled) :
    ((s.retireAll (.sq n)).sq n.val).entries = [] ∧ ((s.retireAll (.sq n)).sq n.val).held = none := by
  have hflr := State.sq_flrAbort_of_settled hsettled
  unfold State.retireAll
  rw [State.sq_releaseHolds]
  apply State.sq_releaseSq_emptied
  rw [State.sq_retireN_of_settled _ (hflr ▸ hsettled) (by rw [hflr]; exact Nat.le_succ _), hflr]
  exact ⟨rfl, hsettled.1⟩

/-! ### CANCEL -/

/-- A fold stays where its steps at the members of the list stay. -/
theorem foldl_of_fixed_on {σ β : Type} {f : σ → β → σ} {a : σ} {l : List β} (h : ∀ x ∈ l, f a x = a) : l.foldl f a = a := by
  induction l with
  | nil => rfl
  | cons x l ih => rw [List.foldl_cons, h x List.mem_cons_self, ih fun y hy => h y (List.mem_cons_of_mem x hy)]

/-- An SQ for which no job is resident has no JOBRUN to stop. -/
theorem State.stopJobs_of_no_job (code : Nat) (h : ∀ kv ∈ s.jobs, ∀ j, kv.2 = some j → j.sq ≠ n.val) : s.stopJobs n code = s := by
  unfold State.stopJobs
  refine foldl_of_fixed_on fun kv hkv => ?_
  split
  · next j hj => rw [if_neg (h kv hkv j hj)]
  · rfl

/-- CANCEL of a queue without jobs completes and retires every entry, and ends the hold. -/
theorem State.sq_sqCancel {f : Bool} (howner : (s.sq n.val).owner = some f) (hentries : ∀ e ∈ (s.sq n.val).entries, e.job = none)
    (hjobs : ∀ kv ∈ s.jobs, ∀ j, kv.2 = some j → j.sq ≠ n.val) :
    ((s.sqCancel f n).sq n.val).entries = [] ∧ ((s.sqCancel f n).sq n.val).held = none := by
  unfold State.sqCancel
  rw [if_neg (by simp [howner]), State.stopJobs_of_no_job _ (by rw [State.jobs_qCancel]; exact hjobs)]
  apply State.sq_retireAll_of_settled
  rw [State.sq_qCancel, State.updSq_sq_self]
  refine ⟨rfl, fun e he => ?_⟩
  obtain ⟨x, hx, rfl⟩ := List.mem_map.1 he
  exact Entry.ended_complete (by rw [hentries x hx]; rfl)

end
end Sys2Proof.Machine
end

section
/-! Registers and commands of the host queues on their queue (R565 to R567, R578, R581, R598). -/
namespace Sys2Proof.Machine
open Sys2Proof

/-- A request of a host that acts does its work on the state as it is: no injection meets its TLP. -/
theorem State.host_of_hostActs {s : State} {f : Bool} (h : s.hostActs f true = true) (g : State → State) :
    s.host f true g = .next (g s) := by
  simp only [State.hostActs, Bool.and_eq_true, Bool.not_eq_true', Bool.not_true, Bool.false_or] at h
  obtain ⟨⟨⟨⟨hlink, hd3⟩, hpcie⟩, hall⟩, harms⟩ := h
  have htlp : s.tlp f = s := State.tlp_unarmed f s (List.isEmpty_iff.1 harms)
  simp [State.host, htlp, hlink, hd3, hpcie, hall]

theorem completes_of_hostActs {i : Instr} {s : State} {f : Bool} {g : State → State} (hexec : exec i s = s.host f true g)
    (hacts : s.hostActs f true = true) {post : State → Prop} (hpost : post (g s)) : Completes i s post :=
  ⟨g s, hexec.trans (State.host_of_hostActs hacts g), hpost⟩

section
variable {s : State} {f : Bool} {n : Nat} {v : BitVec 32}

/-! ### Configuration and doorbell of an SQ -/

section
variable (hmay : mayWrite f (s.sq n).owner = true)
include hmay

theorem State.sqcfg_enable (hrel : (s.sq n).releasing = false) (hoff : bitAt (s.sq n).cfg.toNat 31 = false)
    (hon : bitAt v.toNat 31 = true) : s.sqcfg f n v =
      if s.sqCfgOk f v then s.setSq n { s.sq n with
        cfg := v &&& sqCfgMask, cfgerr := false, owner := some f, head := 0, tail := 0, stopped := false, held := none }
      else s.setSq n { s.sq n with cfgerr := true } := by
  by_cases hok : s.sqCfgOk f v = true <;> simp [State.sqcfg, hmay, hrel, hoff, hon, hok]

theorem State.sqcfg_disable (hrel : (s.sq n).releasing = false) (hon : bitAt (s.sq n).cfg.toNat 31 = true)
    (hoff : bitAt v.toNat 31 = false) : s.sqcfg f n v =
      if (s.sq n).entries = [] then s.setSq n { s.sq n with
        cfg := (if (s.sq n).stopped then withSize (s.sq n).cfg v else (s.sq n).cfg) &&& 0x7FFFFFFF, cfgerr := false, owner := none,
        held := none, stopped := false, tail := (s.sq n).head }
      else s := by
  by_cases hempty : (s.sq n).entries = [] <;> simp [State.sqcfg, hmay, hrel, hoff, hon, hempty]

theorem State.sqtail_of_enabled (hrel : (s.sq n).releasing = false) (hon : bitAt (s.sq n).cfg.toNat 31 = true)
    (hstop : (s.sq n).stopped = false) : s.sqtail f n v =
      if (v.setWidth 16 - (s.sq n).head).toNat ≤ 2 ^ sqSize (s.sq n) then s.setSq n { s.sq n with tail := v.setWidth 16 }
      else s.setSq n { s.sq n with overrun := true } := by
  simp only [State.sqtail, hmay, hrel, hon, hstop, Bool.not_true, Bool.or_self, Bool.false_eq_true, if_false, ← Nat.not_lt, ite_not]

end

/-- Bit 31 masked out reads as 0. -/
theorem bitAt_and_low31 (w : BitVec 32) : bitAt (w &&& 0x7FFFFFFF).toNat 31 = false := by
  have hlt : (w &&& 0x7FFFFFFF).toNat < 2 ^ 31 := by
    rw [BitVec.toNat_and]
    exact Nat.and_lt_two_pow _ (by decide)
  rw [bitAt, Nat.div_eq_of_lt hlt]
  rfl

/-! ### Configuration and doorbell of a CQ -/

section
variable (hmay : mayWrite f (s.cq n).owner = true) (hrel : (s.cq n).releasing = false)
include hmay hrel

theorem State.cqcfg_enable (hoff : bitAt (s.cq n).cfg.toNat 31 = false) (hon : bitAt v.toNat 31 = true) : s.cqcfg f n v =
    if 4 ≤ bits v.toNat 3 0 then s.setCq n { s.cq n with
      cfg := v &&& cqCfgMask, cfgerr := false, owner := some f, head := 0, tail := 0, phase := true, stopped := false, aggBusy := false,
      aggPend := false }
    else s.setCq n { s.cq n with cfgerr := true } := by
  simp only [State.cqcfg, hmay, hrel, hoff, hon, Bool.not_true, Bool.or_self, Bool.false_eq_true, if_false, if_true, ← Nat.not_lt,
    ite_not]

theorem State.cqhead_of_mayWrite : s.cqhead f n v =
    if (v.setWidth 16 - (s.cq n).head).toNat ≤ ((s.cq n).tail - (s.cq n).head).toNat then
      (s.setCq n { s.cq n with head := v.setWidth 16 }).cqDrain n
    else s.setCq n { s.cq n with overrun := true } := by
  simp only [State.cqhead, hmay, hrel, Bool.not_true, Bool.or_self, Bool.false_eq_true, if_false, ← Nat.not_lt, ite_not]

end
end

/-! ### RESUME and START -/

/-- RESUME in cycle `t` lets an entry accepted in that cycle run normally (Table 10.9). -/
def Entry.resumed (t : Nat) (e : Entry) : Entry :=
  if e.phase = .accepted ∧ e.stamp = t then { e with doomed := false } else e

theorem State.sq_qResume (n : Fin 512) (s : State) : (s.qResume (.sq n)).sq n.val =
    { s.sq n.val with entries := (s.sq n.val).entries.map (Entry.resumed s.now), held := none } := State.updSq_sq_self ..

theorem State.sq_sqResume {s : State} {f : Bool} {n : Fin 512} (howner : (s.sq n.val).owner = some f) :
    (s.sqResume f n).sq n.val =
      { s.sq n.val with entries := (s.sq n.val).entries.map (Entry.resumed s.now), held := none, overrun := false } := by
  rw [State.sqResume, if_neg (by simp [howner]), State.sq_qResume, State.updSq_sq_self, State.updSq_now]

section
variable {s : State} {f : Bool} {n : Nat}

theorem State.sqStart_of_stopped (howner : (s.sq n).owner = some f) (hstop : (s.sq n).stopped = true)
    (hrel : (s.sq n).releasing = false) : s.sqStart f n =
      s.setSq n { s.sq n with head := 0, tail := 0, stopped := false, overrun := false } := by
  simp [State.sqStart, howner, hstop, hrel]

theorem State.cqStart_of_stopped (howner : (s.cq n).owner = some f) (hstop : (s.cq n).stopped = true)
    (hrel : (s.cq n).releasing = false) : s.cqStart f n =
      (s.setCq n { s.cq n with tail := 0, head := 0, phase := true, stopped := false, overrun := false }).cqDrain n := by
  simp [State.cqStart, howner, hstop, hrel]

/-- What a started CQ writes of the completions that it holds moves TAIL and the phase from 0 and 1; the head stays at 0. -/
theorem State.cq_cqStart_of_stopped (howner : (s.cq n).owner = some f) (hstop : (s.cq n).stopped = true)
    (hrel : (s.cq n).releasing = false) :
    ((s.cqStart f n).cq n).head = 0 ∧ ((s.cqStart f n).cq n).stopped = false ∧ ((s.cqStart f n).cq n).owner = some f ∧
      ((s.cq n).heldC = [] → ((s.cqStart f n).cq n).tail = 0 ∧ ((s.cqStart f n).cq n).phase = true) := by
  rw [State.cqStart_of_stopped howner hstop hrel]
  have hkept := State.cq_cqDrain n
    (s.setCq n { s.cq n with tail := 0, head := 0, phase := true, stopped := false, overrun := false })
  rw [State.setCq_cq_self] at hkept
  refine ⟨Cq.head_of_sansDrain hkept, Cq.stopped_of_sansDrain hkept, (Cq.owner_of_sansDrain hkept).trans howner, fun hnone => ?_⟩
  rw [State.cqDrain_of_none_held _ _ (by rw [State.setCq_cq_self]; exact hnone), State.setCq_cq_self]
  exact ⟨rfl, rfl⟩

end

/-! ### The end of an aggregation interval (R580) -/

section
variable {s : State} {n : Fin 512} (hbusy : (s.cq n.val).aggBusy = true)
include hbusy

/-- Nothing was written during the interval: no message is owed. -/
theorem exec_msixAggregationEnd_of_none_owed (hpend : (s.cq n.val).aggPend = false) :
    exec (.msixAggregationEnd n) s = .next (s.setCq n.val { s.cq n.val with aggBusy := false }) := by
  change execMsixAggregationEnd n s = _
  simp [execMsixAggregationEnd, hbusy, hpend]

theorem exec_msixAggregationEnd_of_owed (hpend : (s.cq n.val).aggPend = true) : exec (.msixAggregationEnd n) s =
    .next ((s.setCq n.val { s.cq n.val with aggBusy := false, aggPend := false }).cqNotify n.val) := by
  change execMsixAggregationEnd n s = _
  simp [execMsixAggregationEnd, hbusy, hpend]

end

/-- A vector that its function can send is sent. -/
theorem State.msix_of_canSend {s : State} {f : Bool} {vec : Nat} (h : (s.hif f).canSend vec = true) :
    s.msix f vec = s.send (.msix f vec) := by
  simp [State.msix, h]

/-- R580. Outside an interval a CQ that may send its vector sends it, and then owes no message. -/
theorem State.cqNotify_sends {s : State} {f : Bool} {n : Nat} (howner : (s.cq n).owner = some f)
    (hien : bitAt (s.cq n).cfg.toNat 30 = true) (hbusy : (s.cq n).aggBusy = false)
    (hsend : (s.hif f).canSend (bits (s.cq n).cfg.toNat 18 8) = true) :
    ((s.cqNotify n).cq n).aggPend = false ∧ (s.cqNotify n).sent = s.sent ++ [.msix f (bits (s.cq n).cfg.toNat 18 8)] := by
  have hnotify : s.cqNotify n =
      (s.cqSent f (bits (s.cq n).cfg.toNat 18 8)).send (.msix f (bits (s.cq n).cfg.toNat 18 8)) :=
    (State.cqNotify_of_idle n s howner hien hbusy).trans (State.msix_of_canSend hsend)
  have hcq : (s.cqNotify n).cq n = (s.cq n).notified f (bits (s.cq n).cfg.toNat 18 8) := by
    rw [hnotify]
    exact State.cq_cqSent n s _ howner
  exact ⟨by rw [hcq, Cq.notified_aggPend howner], by rw [hnotify]; rfl⟩

end Sys2Proof.Machine
end

section
/-! The host queues: their registers, their commands, and the messages of their completion queues (R426, R427, R565 to R567, R575 to
R581, R598). -/
namespace Sys2Proof
open Sys2Proof.Machine

theorem hostQueueRegisters : Parts.HostQueueRegisters := by
  intro s f n v hacts
  refine ⟨fun hmay hrel => ⟨fun hoff hon => ?_, fun hon hoff => ?_, fun hon hstop => ?_⟩, fun hmay hrel => ⟨fun hoff hon => ?_, ?_⟩⟩
  · refine completes_of_hostActs (g := State.sqcfg f n.val v) rfl hacts ?_
    rw [State.sqcfg_enable hmay hrel hoff hon]
    split
    · rw [State.setSq_sq_self]
      exact ⟨rfl, rfl, rfl, rfl, rfl, rfl⟩
    · exact State.setSq_sq_self ..
  · refine completes_of_hostActs (g := State.sqcfg f n.val v) rfl hacts ?_
    rw [State.sqcfg_disable hmay hrel hon hoff]
    split
    · rw [State.setSq_sq_self]
      exact ⟨bitAt_and_low31 _, rfl⟩
    · rfl
  · refine completes_of_hostActs (g := State.sqtail f n.val v) rfl hacts ?_
    rw [State.sqtail_of_enabled hmay hrel hon hstop]
    split <;> exact State.setSq_sq_self ..
  · refine completes_of_hostActs (g := State.cqcfg f n.val v) rfl hacts ?_
    rw [State.cqcfg_enable hmay hrel hoff hon]
    split
    · rw [State.setCq_cq_self]
      exact ⟨rfl, rfl, rfl, rfl, rfl⟩
    · exact State.setCq_cq_self ..
  · refine completes_of_hostActs (g := State.cqhead f n.val v) rfl hacts ?_
    rw [State.cqhead_of_mayWrite hmay hrel]
    split
    · rw [Cq.head_of_sansDrain (State.cq_cqDrain ..), State.setCq_cq_self]
    · exact State.setCq_cq_self ..

theorem hostQueueCommands : Parts.HostQueueCommands := by
  intro s f n hacts
  refine ⟨fun howner => ⟨?_, fun hentries hjobs => ?_, fun hstop hrel => ?_⟩, fun howner hstop hrel => ?_, fun hbusy =>
    ⟨fun hpend => ?_, fun hpend hien howner hsend => ?_⟩⟩
  · refine completes_of_hostActs (g := State.sqResume f n) rfl hacts ?_
    rw [State.sq_sqResume howner]
    exact ⟨rfl, rfl, rfl⟩
  · exact completes_of_hostActs (g := State.sqCancel f n) rfl hacts (State.sq_sqCancel howner hentries hjobs)
  · refine completes_of_hostActs (g := State.sqStart f n.val) rfl hacts ?_
    rw [State.sqStart_of_stopped howner hstop hrel]
    exact State.setSq_sq_self ..
  · exact completes_of_hostActs (g := State.cqStart f n.val) rfl hacts (State.cq_cqStart_of_stopped howner hstop hrel)
  · exact ⟨_, exec_msixAggregationEnd_of_none_owed hbusy hpend, State.setCq_cq_self .., rfl⟩
  · refine ⟨_, exec_msixAggregationEnd_of_owed hbusy hpend, ?_⟩
    have hsends := State.cqNotify_sends (f := f) (n := n.val)
      (s := s.setCq n.val { s.cq n.val with aggBusy := false, aggPend := false })
    rw [State.setCq_cq_self] at hsends
    exact hsends howner hien rfl hsend

/-- Settles O37: each register and command does its work on its queue's record; what CANCEL ends retires, since nothing of the
queue is held or left to a job, and a drain or a message of a CQ leaves its head, its owner and STOPPED as they are. -/
theorem hostQueueControl : Obligations.HostQueueControl := ⟨hostQueueRegisters, hostQueueCommands⟩

end Sys2Proof
end

section
/-! What a Lath port holds after a packet has gone to it, and that nothing else of the Lath changes (R606, R610, R611). -/
namespace Sys2Proof.Machine
open Sys2Proof

/-- The data of the blocks in which a packet leaves (R606, R611). -/
def Packet.blocks (p : Packet) : List (List Byte) := chunks 640 (p.bytes.length + 1) p.bytes

/-- The Lath without its ports. -/
def State.sansPorts (s : State) : Lath := { s.lath with ports := [] }

theorem State.sansPorts_of_lath {a b : State} (h : a.lath = b.lath) : a.sansPorts = b.sansPorts :=
  congrArg (fun l : Lath => { l with ports := [] }) h

theorem State.rx_of_sansPorts {a b : State} (h : a.sansPorts = b.sansPorts) : a.lath.rx = b.lath.rx := (congrArg Lath.rx h :)

theorem State.id_of_sansPorts {a b : State} (h : a.sansPorts = b.sansPorts) : a.lath.id = b.lath.id := (congrArg Lath.id h :)

theorem State.port_of_lath {a b : State} (h : a.lath = b.lath) (n : Nat) : a.port n = b.port n := by rw [State.port, h, State.port]

section
variable (n : Nat) (s : State)

theorem State.evL_lath (src k : Nat) : (s.evL n src k).lath = s.lath := by simp [State.evL]

theorem State.blockOut_lath (data : Bool) (lseq : Nat) (bs : List Byte) :
    (s.blockOut n data lseq bs).lath = (s.updPort n (fun p => { p with txBlk := p.txBlk + 1 })).lath := State.evL_lath ..

theorem State.blockOut_sansPorts (data : Bool) (lseq : Nat) (bs : List Byte) : (s.blockOut n data lseq bs).sansPorts = s.sansPorts :=
  (State.sansPorts_of_lath (State.blockOut_lath ..) :)

/-- A block that leaves changes no more of its port than the number of the next one. -/
theorem State.blockOut_port (data : Bool) (lseq : Nat) (bs : List Byte) :
    (s.blockOut n data lseq bs).port n = { s.port n with txBlk := (s.port n).txBlk + 1 } :=
  (State.port_of_lath (State.blockOut_lath ..) n).trans (State.updPort_port_self ..)

theorem State.pump_sansPorts (fuel : Nat) : (State.pump n fuel s).sansPorts = s.sansPorts := by
  induction fuel generalizing s with
  | zero => rfl
  | succ fuel ih =>
    unfold State.pump
    dsimp only
    split
    · split
      · rw [ih, State.blockOut_sansPorts]; rfl
      · rfl
    · rfl

/-- R610. A block that leaves moves from those that wait to those that are unacknowledged: the port still owes the same data. -/
theorem State.pump_outgoing (fuel : Nat) : ((State.pump n fuel s).port n).outgoing = (s.port n).outgoing := by
  induction fuel generalizing s with
  | zero => rfl
  | succ fuel ih =>
    unfold State.pump
    dsimp only
    split
    · next b rest hwait =>
      split
      · rw [ih, State.blockOut_port, State.setPort_port_self]
        simp [Port.outgoing, hwait]
      · rfl
    · rfl

theorem State.portTx_sansPorts (bs : List Byte) : (s.portTx n bs).sansPorts = s.sansPorts := by
  unfold State.portTx
  split
  · rfl
  · exact State.pump_sansPorts ..

theorem State.portTx_outgoing (bs : List Byte) (hup : (s.port n).isUp = true) :
    ((s.portTx n bs).port n).outgoing = (s.port n).outgoing ++ chunks 640 (bs.length + 1) bs := by
  rw [State.portTx, if_neg (by simp [hup]), State.pumpAll, State.pump_outgoing, State.updPort_port_self]
  exact (List.append_assoc ..).symm

theorem State.packetOut_sansPorts (p : Packet) : (s.packetOut n p).sansPorts = s.sansPorts :=
  (State.portTx_sansPorts ..).trans (State.sansPorts_of_lath (State.evL_lath ..))

theorem State.packetOut_outgoing (p : Packet) (hup : (s.port n).isUp = true) :
    ((s.packetOut n p).port n).outgoing = (s.port n).outgoing ++ p.blocks := by
  have hport : (s.evL n 6 1).port n = s.port n := State.port_of_lath (State.evL_lath ..) n
  rw [State.packetOut, State.portTx_outgoing _ _ _ (hport ▸ hup), hport, Packet.blocks]

end

end Sys2Proof.Machine
end

section
/-! Routing and discovery: the oldest packet, taken, goes on or is answered (R615 to R621). -/
namespace Sys2Proof

theorem leNat_lt (bs : List Byte) : leNat bs < 256 ^ bs.length := by
  induction bs with
  | nil => decide
  | cons b bs ih =>
    have hb : b.toNat < 256 := b.isLt
    rw [leNat, List.length_cons, Nat.pow_succ]
    omega

theorem leNat_take_lt (k : Nat) (bs : List Byte) : leNat (bs.take k) < 256 ^ k :=
  Nat.lt_of_lt_of_le (leNat_lt _) (Nat.pow_le_pow_right (by decide) (List.length_take_le ..))

end Sys2Proof

namespace Sys2Proof.Machine
open Sys2Proof

/-- The state in which the oldest packet has been taken and `rest` is left. -/
def State.rxLeft (rest : List (Nat × Packet)) (s : State) : State := s.updLath (fun l => { l with rx := rest })

section
variable {s : State} {n : Nat} {p : Packet} {rest : List (Nat × Packet)}

/-! ### Packets forwarded -/

/-- A next hop is one of the live ports of the route. -/
theorem State.isUp_of_nextHop {m : Nat} (h : s.nextHop p = some m) : (s.port m).isUp = true :=
  (List.mem_filter.1 (List.mem_of_getElem? h)).2

theorem State.nextHop_rxLeft : (s.rxLeft rest).nextHop p = s.nextHop p := rfl

theorem State.forward_sourceRouted (hsr : p.sr = true) (hhops : p.hops ≤ p.aux) :
    s.forward p = s.packetOut (p.addr / 16 ^ (p.aux - p.hops) % 16) { p with hops := p.hops - 1 } := by
  rw [State.forward, if_pos hsr, if_neg (Nat.not_lt.2 hhops)]

theorem State.forward_routed {m : Nat} (hsr : p.sr = false) (hnext : s.nextHop p = some m) :
    s.forward p = if p.hops ≤ 1 then s.lthFlag 2 else s.packetOut m { p with hops := p.hops - 1 } := by
  simp only [State.forward, hsr, hnext, Bool.false_eq_true, if_false]

theorem State.forward_unrouted (hsr : p.sr = false) (hnext : s.nextHop p = none) : s.forward p = s.lthFlag 4 := by
  simp only [State.forward, hsr, hnext, Bool.false_eq_true, if_false]

theorem exec_packetForward (hrx : s.lath.rx = (n, p) :: rest) (hfar : s.isLocal p = false) :
    exec .packetForward s = .next ((s.rxLeft rest).forward p) := by
  change execPacketForward s = _
  simp [execPacketForward, State.rxTake, hrx, hfar, State.rxLeft]

/-- The packet taken leaves on a live port. -/
theorem State.packetOut_rxLeft {m : Nat} (p : Packet) (hup : (s.port m).isUp = true) :
    ((s.rxLeft rest).packetOut m p).lath.rx = rest ∧
      (((s.rxLeft rest).packetOut m p).port m).outgoing = (s.port m).outgoing ++ p.blocks :=
  ⟨State.rx_of_sansPorts (State.packetOut_sansPorts ..), State.packetOut_outgoing m (s.rxLeft rest) p hup⟩

theorem completes_packetForward_routed {m : Nat} (hrx : s.lath.rx = (n, p) :: rest) (hfar : s.isLocal p = false)
    (hsr : p.sr = false) (hnext : s.nextHop p = some m) :
    Completes .packetForward s (fun u => u.lath.rx = rest ∧
      if p.hops ≤ 1 then u.lath.stat = s.lath.stat ||| 2 ∧ u.sent = s.sent
      else (u.port m).outgoing = (s.port m).outgoing ++ Packet.blocks { p with hops := p.hops - 1 }) := by
  refine ⟨_, exec_packetForward hrx hfar, ?_⟩
  rw [State.forward_routed hsr (State.nextHop_rxLeft.trans hnext)]
  split
  · exact ⟨rfl, rfl, rfl⟩
  · exact State.packetOut_rxLeft _ (State.isUp_of_nextHop hnext)

theorem completes_packetForward_unrouted (hrx : s.lath.rx = (n, p) :: rest) (hfar : s.isLocal p = false)
    (hsr : p.sr = false) (hnext : s.nextHop p = none) :
    Completes .packetForward s (fun u => u.lath.rx = rest ∧ u.lath.stat = s.lath.stat ||| 4 ∧ u.sent = s.sent) := by
  refine ⟨_, exec_packetForward hrx hfar, ?_⟩
  rw [State.forward_unrouted hsr (State.nextHop_rxLeft.trans hnext)]
  exact ⟨rfl, rfl, rfl⟩

/-! ### Discovery -/

/-- R616. The ID that a discovery request gives where it may: SETID on a module without an ID. -/
def State.discId (p : Packet) (s : State) : State :=
  if leNat ((p.pay.drop 9).take 1) = 1 ∧ s.lath.id = 0 ∧ ¬ s.written modidOff then s.setId (leNat ((p.pay.drop 10).take 2)) else s

theorem exec_discReq (hrx : s.lath.rx = (n, p) :: rest) (hlocal : s.isLocal p = true) (htype : p.ptype = 8) :
    exec .discReq s = .next (((s.rxLeft rest).discId p).sourceRoute (((s.rxLeft rest).discId p).discAnswer p)) :=
  State.onPacket_some 8 _ s n p rest hrx htype hlocal

theorem exec_discRsp (hrx : s.lath.rx = (n, p) :: rest) (hlocal : s.isLocal p = true) (htype : p.ptype = 9) :
    exec .discRsp s = .next ((s.rxLeft rest).updLath (fun l => { l with disc := l.disc ++ [p] })) :=
  State.onPacket_some 9 _ s n p rest hrx htype hlocal

/-- FLAGS of the answer to a discovery request have SR set. -/
theorem State.discAnswer_sr : (s.discAnswer p).sr = true := (by decide : bitAt 4 2 = true)

/-- A request without SETID is answered as the state stands. -/
theorem exec_discReq_of_not_setId (hrx : s.lath.rx = (n, p) :: rest) (hlocal : s.isLocal p = true) (htype : p.ptype = 8)
    (hact : leNat ((p.pay.drop 9).take 1) ≠ 1) :
    exec .discReq s = .next ((s.rxLeft rest).sourceRoute (s.discAnswer p)) := by
  rw [exec_discReq hrx hlocal htype, State.discId, if_neg (fun h => hact h.1)]
  rfl

theorem State.sourceRoute_of_no_hop (h : p.hops = 0) :
    s.sourceRoute p = s.updLath (fun l => { l with rx := l.rx ++ [(16, p)] }) := if_pos h

/-- A packet that has taken none of its hops leaves on the port that its path names first. -/
theorem State.sourceRoute_at_first_hop (h : p.hops ≠ 0) (haux : p.aux = p.hops) :
    s.sourceRoute p = s.packetOut (p.addr % 16) { p with hops := p.hops - 1 } := by
  rw [State.sourceRoute, if_neg h, haux, Nat.sub_self, Nat.pow_zero, Nat.div_one]

theorem State.sourceRoute_id : (s.sourceRoute p).lath.id = s.lath.id := by
  unfold State.sourceRoute
  split
  · rfl
  · exact State.id_of_sansPorts (State.packetOut_sansPorts ..)

theorem State.setId_of_free {v : Nat} (hbusy : s.lathBusy = false) (hv : v % 65536 ≠ 0xFFFF) :
    (s.setId v).lath.id = BitVec.ofNat 16 v := by
  rw [State.setId, if_neg (by simp [hbusy, hv])]
  rfl

theorem State.discId_of_setId (hact : leNat ((p.pay.drop 9).take 1) = 1) (hid : s.lath.id = 0) (hbusy : s.lathBusy = false)
    (hv : leNat ((p.pay.drop 10).take 2) ≠ 0xFFFF) (hwritten : s.written modidOff = false) :
    (s.discId p).lath.id = BitVec.ofNat 16 (leNat ((p.pay.drop 10).take 2)) := by
  have hlt : leNat ((p.pay.drop 10).take 2) < 65536 := leNat_take_lt 2 _
  rw [State.discId, if_pos ⟨hact, hid, by simp [hwritten]⟩]
  exact State.setId_of_free hbusy (by rwa [Nat.mod_eq_of_lt hlt])

end

/-! ### Registers -/

section
variable (s : State) (f : Bool) (n v : Nat)

theorem State.modid_lath : (s.modid v).lath =
    if s.lathBusy ∨ v % 65536 = 0xFFFF then s.lath else { s.lath with id := BitVec.ofNat 16 v, dup := false } := by
  change (s.setId v).lath = _
  unfold State.setId
  split <;> rfl

theorem State.modid_sent : (s.modid v).sent = s.sent := by
  change (s.setId v).sent = _
  unfold State.setId
  split <;> rfl

/-- R16, R17. A read of LTH_RETRY leaves in it the replays of its own cycle. -/
theorem State.port_retryTake :
    (s.retryTake n).2.port n = { s.port n with retry := (s.freshAt (retryOff n)).setWidth 32 } :=
  State.updPort_port_self s n (fun p => { p with retry := (s.freshAt (retryOff n)).setWidth 32 })

end

end Sys2Proof.Machine
end

section
/-! Module ID, LTH_RETRY, forwarding and discovery (R615 to R621). -/
namespace Sys2Proof
open Sys2Proof.Machine

/-- Settles O46: LTH_MODID and LTH_RETRY act on their field; the oldest packet is taken and goes on, is dropped, or is answered, and a
packet that leaves on a live port adds its blocks to what the port owes, whether or not the window lets them leave at once. -/
theorem routingCommands : Obligations.RoutingCommands := by
  refine ⟨fun s f v hacts => ⟨?_, fun n => ?_⟩, fun s n m p rest hrx =>
    ⟨fun hfar hsr => ⟨?_, ?_⟩, fun hfar hsr hhops hup hm => ?_, fun hlocal htype => ⟨fun hact => ?_, ?_⟩, fun hlocal htype => ?_⟩⟩
  · refine completes_of_hostActs (g := State.modid v.toNat) rfl hacts ⟨State.modid_sent .., ?_⟩
    rw [State.modid_lath]
    split <;> rfl
  · exact completes_of_hostActs (g := fun s => (s.retryTake n.val).2.answer f (s.retryTake n.val).1) rfl hacts
      ⟨rfl, State.port_retryTake s n.val⟩
  · exact completes_packetForward_routed hrx hfar hsr
  · exact completes_packetForward_unrouted hrx hfar hsr
  · subst hm
    refine ⟨_, exec_packetForward hrx hfar, ?_⟩
    rw [State.forward_sourceRouted hsr hhops]
    exact State.packetOut_rxLeft _ hup
  · have hexec := exec_discReq_of_not_setId hrx hlocal htype hact
    refine ⟨rfl, State.discAnswer_sr, rfl, rfl, rfl, fun hnone => ⟨_, hexec, ?_⟩, fun hsome hm hup => ⟨_, hexec, ?_⟩⟩
    · rw [State.sourceRoute_of_no_hop hnone]
      rfl
    · subst hm
      rw [State.sourceRoute_at_first_hop hsome rfl]
      exact State.packetOut_rxLeft _ hup
  · intro hact hid hbusy hv hwritten
    exact ⟨_, exec_discReq hrx hlocal htype,
      State.sourceRoute_id.trans (State.discId_of_setId (s := s.rxLeft rest) hact hid hbusy hv hwritten)⟩
  · exact ⟨_, exec_discRsp hrx hlocal htype, rfl, rfl⟩

end Sys2Proof
end
